-- ==== Sys2Proof/Word.lean ====
section
/-! DEFINITION. The word types of the Gweybo 9216 (R4, R8, R12) and their plainest readings. -/

namespace Sys2Proof

/-- One byte of memory. -/
abbrev Byte := BitVec 8

/-- A 32-bit register lane, uniform register or instruction field value. -/
abbrev Word := BitVec 32

/-- A 64-bit address, register pair or doubleword. -/
abbrev DWord := BitVec 64

end Sys2Proof
end

