-- ==== Sys2Proof/Machine/Bits.lean ====
section
/-! DEFINITION. Bit fields, lanes, lists and bytes: the plain helpers the meanings share. -/

namespace Sys2Proof.Machine

/-- Bits [hi:lo] of a word (R5). -/
def bits {w : Nat} (x : BitVec w) (hi lo : Nat) : Nat := x.toNat / 2 ^ lo % 2 ^ (hi + 1 - lo)

/-- Bit n of a word. -/
def bit {w : Nat} (x : BitVec w) (n : Nat) : Bool := x.getLsbD n

/-- 1 for true, 0 for false, as a word. -/
def ofBool (b : Bool) : Word := if b then 1 else 0

/-- The lane indices 0 to 31 (R9). -/
def laneList : List Nat := List.range 32

/-- The lanes of a mask, in ascending order. -/
def lanesOf (m : Word) : List Nat := laneList.filter fun l => m.getLsbD l

/-- The mask of the lanes for which `f` holds. -/
def maskOf (f : Nat → Bool) : Word :=
  laneList.foldl (fun m l => if f l then m ||| BitVec.twoPow 32 l else m) 0

/-- The lowest-numbered lane of a mask (R129). -/
def lowLane (m : Word) : Option Nat := (lanesOf m).head?

/-- Number of set bits. -/
def popCount {w : Nat} (x : BitVec w) : Nat := (List.range w).countP fun i => x.getLsbD i

/-- Number of leading zero bits. -/
def leadingZeros {w : Nat} (x : BitVec w) : Nat :=
  ((List.range w).reverse.takeWhile fun i => !x.getLsbD i).length

/-- Number of trailing zero bits. -/
def trailingZeros {w : Nat} (x : BitVec w) : Nat := ((List.range w).takeWhile fun i => !x.getLsbD i).length

/-- The bits in reverse order. -/
def reverseBits {w : Nat} (x : BitVec w) : BitVec w :=
  (List.range w).foldl (fun r i => if x.getLsbD i then r ||| BitVec.twoPow w (w - 1 - i) else r) 0

/-- The 64-bit value of a low and a high word. -/
def join64 (lo hi : Word) : DWord := BitVec.ofNat 64 (hi.toNat * 2 ^ 32 + lo.toNat)

/-- The low word of a doubleword. -/
def lo32 (x : DWord) : Word := x.setWidth 32

/-- The high word of a doubleword. -/
def hi32 (x : DWord) : Word := (x >>> 32).setWidth 32

/-- The `n` bytes of a number, least significant first (R236). -/
def toBytes : Nat → Nat → List Byte
  | 0, _ => []
  | n + 1, x => BitVec.ofNat 8 x :: toBytes n (x / 256)

/-- `n` bytes of a list, filled up with zeros. -/
def padBytes (l : List Byte) (n : Nat) : List Byte := (List.range n).map fun k => l.getD k 0

/-- The number whose little-endian bytes are given (R236). -/
def fromBytes : List Byte → Nat
  | [] => 0
  | b :: bs => b.toNat + 256 * fromBytes bs

/-- Ceiling of a quotient. -/
def ceilDiv (a b : Nat) : Nat := (a + b - 1) / b

/-- The number `x` clamped to [lo, hi]. -/
def clampNat (lo hi x : Nat) : Nat := max lo (min hi x)

/-- The integer `x` clamped to [lo, hi]. -/
def clampInt (lo hi x : Int) : Int := max lo (min hi x)

/-- The number of bits needed to write `x`: 0 for 0. -/
def bitLen (x : Nat) : Nat := if x = 0 then 0 else Nat.log2 x + 1

/-- Element `i` of a list replaced by `f` of it. -/
def modifyAt {α : Type} (f : α → α) : Nat → List α → List α
  | _, [] => []
  | 0, x :: xs => f x :: xs
  | i + 1, x :: xs => x :: modifyAt f i xs

/-- The element for which `f` is least, the first such. -/
def argMin {α : Type} (f : α → Nat) : List α → Option α
  | [] => none
  | x :: xs =>
    match argMin f xs with
    | none => some x
    | some y => if f y < f x then some y else some x

/-- The list in ascending order of `f`, stable: an insertion sort. -/
def insertBy {α : Type} (f : α → Nat) (a : α) : List α → List α
  | [] => [a]
  | x :: xs => if f a < f x then a :: x :: xs else x :: insertBy f a xs

def sortBy {α : Type} (f : α → Nat) (l : List α) : List α := l.foldl (fun acc a => insertBy f a acc) []

end Sys2Proof.Machine
end

