-- ==== Sys2Proof/Syntax.lean ====
section
/-! DEFINITION. The instructions of the Gweybo 9216: one constructor per row of spec/opcode_table.json.
The first part are program words (R124 to R143 and the instruction entries); the second part are the device, host and
engine events of the table, which have no encoding and carry the data of the event. -/

namespace Sys2Proof

/-- The guard of a full word (R128): `p` 0 is pT. -/
structure Guard where
  neg : Bool
  p : Nat
  deriving DecidableEq, Repr

/-- The read-only specials (R24, R130). -/
inductive Special where
  | zero | lane | group | team | recidx | role | rgroup | lorigin | nactive
  deriving DecidableEq, Repr

/-- An 8-bit operand code (R129): a vector register, a uniform register, a special, the 16-bit immediate of R134,
or one of the sixteen inline constants of R133. -/
inductive Operand where
  | v (n : Nat)
  | s (n : Nat)
  | special (k : Special)
  | imm (k : BitVec 16)
  | inline (k : Nat)
  deriving DecidableEq, Repr

/-- Integer types `.s32 .n32 .s64 .n64` (R132). -/
inductive IntType where
  | s32 | n32 | s64 | n64
  deriving DecidableEq, Repr

/-- Rounding directions (R132, R164). -/
inductive Rnd where
  | rne | rz | rdn | rup
  deriving DecidableEq, Repr

/-- The sixteen type codes of R132. -/
inductive NumType where
  | s32 | n32 | s64 | n64 | f32 | f16 | bf16 | f16x2 | bf16x2 | e4m3 | e5m2 | e2m1 | i8 | n8 | t2 | bs20
  deriving DecidableEq, Repr

/-- Scopes (R7, R131): `dflt` is the entry's default. -/
inductive Scope where
  | dflt | grp | team | dev | pod | sys
  deriving DecidableEq, Repr

/-- Orderings (R7, R131). -/
inductive Ord where
  | none | acq | rel | ar
  deriving DecidableEq, Repr

/-- Comparison conditions of ICMP and FCMP (R174, R180). -/
inductive Cond where
  | eq | ne | lt | le | gt | ge | un | ord
  deriving DecidableEq, Repr

/-- Predicate combination (R174). -/
inductive Comb where
  | set | and | or
  deriving DecidableEq, Repr

/-- Monitor conditions of MWAIT (R363). -/
inductive MonCond where
  | eq | ne | geU | geS | gtU | gtS
  deriving DecidableEq, Repr

/-- The memory operand of form M (R131, R218): base, index, scale exponent 0 to 4, displacement. -/
structure MemArg where
  base : Operand
  index : Operand
  scale : Nat
  disp : BitVec 12
  deriving DecidableEq, Repr

/-- Access sizes of LD and ST (R235). -/
inductive MemSize where
  | n8 | i8 | h16 | w32 | w64 | x4
  deriving DecidableEq, Repr

/-- Operations of ATOM and RED (R360). -/
inductive AtomOp where
  | add32 | add64 | addF32 | minS | minN | maxS | maxN | and | or | xor | maxF32 | exch32 | exch64 | cas32 | cas64 | minF32
  deriving DecidableEq, Repr

/-- PMOV directions (R192). -/
inductive PmovDir where
  | tomask | frommask | tobool | frombool
  deriving DecidableEq, Repr

/-- VOTE modes (R193). -/
inductive VoteMode where
  | ballot | any | all | uni
  deriving DecidableEq, Repr

/-- SHFL modes (R193). -/
inductive ShflMode where
  | idx | up | down | xor
  deriving DecidableEq, Repr

/-- SCAN and REDUX operations (R193). -/
inductive ScanOp where
  | add | min | max | and | or | xor
  deriving DecidableEq, Repr

/-- SCAN and REDUX types (R193). -/
inductive ScanType where
  | s32 | n32 | f32
  deriving DecidableEq, Repr

/-- VTEST conditions (R187). -/
inductive VCond where
  | dec | above | below
  deriving DecidableEq, Repr

/-- Event kinds (R375). -/
inductive EvKind where
  | bar | cnt | mon | mbx | rfill | rfree | pipe | time | peer
  deriving DecidableEq, Repr

/-- Comparison of a MON slot (R378). -/
inductive EvCond where
  | eq | ne | ge | gt
  deriving DecidableEq, Repr

/-- FENCE kinds (R240). -/
inductive FenceKind where
  | acq | rel | ar
  deriving DecidableEq, Repr

/-- PREF levels (R238). -/
inductive PrefLevel where
  | l1 | l2 | l1x
  deriving DecidableEq, Repr

/-- Drain operations (R301). -/
inductive DrainOp where
  | st | add | max
  deriving DecidableEq, Repr

/-- Consumer predicates of a tile (R306). -/
inductive VPred where
  | none | sign | rowthr | colthr | topk
  deriving DecidableEq, Repr

/-- Stage queues named by SQPUSH and SQPOP (R327). -/
inductive StageQ where
  | miss | depth
  deriving DecidableEq, Repr

/-- Derivative modes of texture instructions (R327). -/
inductive DMode where
  | grad | quad | lod
  deriving DecidableEq, Repr

/-- CSR access widths (R205). -/
inductive CsrWidth where
  | lo | hi | d
  deriving DecidableEq, Repr

/-- CSRX operations (R205). -/
inductive CsrOp where
  | swap | set | clr
  deriving DecidableEq, Repr

/-- TLBI modes (R210). -/
inductive TlbiMode where
  | page | ctx | all
  deriving DecidableEq, Repr

/-- Half-op guards (R136). -/
inductive HalfGuard where
  | always | p1 | p2 | notP1
  deriving DecidableEq, Repr

/-- A register of a half (R137): v0 to v95 or s0 to s31. -/
inductive HalfReg where
  | v (n : Nat)
  | s (n : Nat)
  deriving DecidableEq, Repr

/-- Half-op names (R138), in the order of their codes 0x00 to 0x17. -/
inductive Hop where
  | iadd | isub | imin | imax | and | or | xor | andn | shl | shr | sar | mov | movi8 | iaddi | andi | shli | shri | sari
  | fadd | fmul | fmin | fmax | hadd2 | hmul2
  deriving DecidableEq, Repr

/-- One half of a pair word (R136). `src` is v0 for `movi8`, whose HS is `zero`. -/
structure Half where
  hop : Hop
  guard : HalfGuard
  dst : HalfReg
  src : HalfReg
  imm : BitVec 8
  deriving DecidableEq, Repr

/-- What an access over the links does, and whether a peer device sent it (R226) or a host. -/
structure LinkUse where
  write : Bool
  peer : Bool := false
  deriving DecidableEq, Repr

/-- The size of an access that is forwarded and, of a write, its bytes (R48). -/
structure Payload where
  size : Nat
  bytes : List Byte
  deriving DecidableEq, Repr

/-- The opcode table. -/
inductive Instr where
  -- control flow: R135, R199 to R204
  | nop (g : Guard)
  | bra (g : Guard) (ofs : BitVec 24)
  | brx (g : Guard) (a : Operand)
  | call (g : Guard) (d : Operand) (ofs : BitVec 24)
  | callx (g : Guard) (d a : Operand)
  | ret (g : Guard) (a : Operand)
  | exit (g : Guard)
  | trap (k : BitVec 8)
  | sleep (g : Guard) (b : Operand)
  | brk (k : BitVec 16)
  -- integer arithmetic: R168 to R170
  | iadd (g : Guard) (t : IntType) (sat : Bool) (d a b : Operand)
  | isub (g : Guard) (t : IntType) (sat : Bool) (d a b : Operand)
  | imul (g : Guard) (t : IntType) (d a b : Operand)
  | imulh (g : Guard) (t : IntType) (d a b : Operand)
  | imad (g : Guard) (t : IntType) (d a b c : Operand)
  | imadw (g : Guard) (t : IntType) (d a b c : Operand)
  | imin (g : Guard) (t : IntType) (d a b : Operand)
  | imax (g : Guard) (t : IntType) (d a b : Operand)
  | iabs (g : Guard) (t : IntType) (sat : Bool) (d a : Operand)
  | ineg (g : Guard) (t : IntType) (sat : Bool) (d a : Operand)
  | iaddc (g : Guard) (sub : Bool) (n : Nat) (d a b : Operand)
  | idot4 (g : Guard) (sat : Bool) (unsA unsB : Bool) (d a b c : Operand)
  -- logic, shifts, bit fields: R171 to R173
  | and (g : Guard) (t : IntType) (d a b : Operand)
  | or (g : Guard) (t : IntType) (d a b : Operand)
  | xor (g : Guard) (t : IntType) (d a b : Operand)
  | andn (g : Guard) (t : IntType) (d a b : Operand)
  | shl (g : Guard) (t : IntType) (d a b : Operand)
  | shr (g : Guard) (t : IntType) (d a b : Operand)
  | sar (g : Guard) (t : IntType) (d a b : Operand)
  | rot (g : Guard) (t : IntType) (right : Bool) (d a b : Operand)
  | bfx (g : Guard) (t : IntType) (d a b : Operand)
  | bfi (g : Guard) (d a b c : Operand)
  | popc (g : Guard) (t : IntType) (d a : Operand)
  | clz (g : Guard) (t : IntType) (d a : Operand)
  | ctz (g : Guard) (t : IntType) (d a : Operand)
  | brev (g : Guard) (t : IntType) (d a : Operand)
  | perm (g : Guard) (d a b c : Operand)
  -- moves, selection, comparison, addresses: R174 to R176
  | mov (g : Guard) (t : IntType) (d b : Operand)
  | movh (g : Guard) (d : Operand) (k : BitVec 16)
  | sel (g : Guard) (t : IntType) (neg : Bool) (n : Nat) (d a b : Operand)
  | icmp (g : Guard) (t : IntType) (c : Cond) (cb : Comb) (n : Nat) (a b : Operand)
  | lea (g : Guard) (ux : Bool) (d : Operand) (m : MemArg)
  -- FP32 and packed halves: R177 to R182
  | fadd (g : Guard) (r : Rnd) (d a b : Operand)
  | fmul (g : Guard) (r : Rnd) (d a b : Operand)
  | ffma (g : Guard) (r : Rnd) (d a b c : Operand)
  | fmin (g : Guard) (d a b : Operand)
  | fmax (g : Guard) (d a b : Operand)
  | frnd (g : Guard) (r : Rnd) (d a : Operand)
  | fscale (g : Guard) (r : Rnd) (d a b : Operand)
  | frcp (g : Guard) (r : Rnd) (d a : Operand)
  | frsq (g : Guard) (r : Rnd) (d a : Operand)
  | fsqrt (g : Guard) (r : Rnd) (d a : Operand)
  | fexp2 (g : Guard) (r : Rnd) (d a : Operand)
  | flog2 (g : Guard) (r : Rnd) (d a : Operand)
  | fsin (g : Guard) (r : Rnd) (d a : Operand)
  | fcos (g : Guard) (r : Rnd) (d a : Operand)
  | fcmp (g : Guard) (c : Cond) (cb : Comb) (n : Nat) (a b : Operand)
  | fclass (g : Guard) (d a : Operand)
  | hadd2 (g : Guard) (bf : Bool) (r : Rnd) (d a b : Operand)
  | hmul2 (g : Guard) (bf : Bool) (r : Rnd) (d a b : Operand)
  | hfma2 (g : Guard) (bf : Bool) (r : Rnd) (d a b c : Operand)
  | hminmax2 (g : Guard) (bf : Bool) (max : Bool) (d a b : Operand)
  -- conversion and verdict words: R183 to R188
  | cvt (g : Guard) (dt st : NumType) (xe8m0 sat : Bool) (r : Rnd) (d a : Operand)
  | pack (g : Guard) (e : NumType) (k : Nat) (sat : Bool) (r : Rnd) (d a b c : Operand)
  | unpack (g : Guard) (e : NumType) (k : Nat) (d a : Operand)
  | vtest (g : Guard) (c : VCond) (cb : Comb) (step : Bool) (n : Nat) (d a b : Operand)
  | vsel (g : Guard) (d a b c : Operand)
  -- pair words: R136 to R139
  | pairWord (h0 h1 : Half)
  -- predicates and lanes: R191 to R198
  | plop (g : Guard) (pd pa pb : Nat) (lut : BitVec 4)
  | pmov (g : Guard) (dir : PmovDir) (n : Nat) (x : Operand)
  | vote (g : Guard) (m : VoteMode) (neg : Bool) (n : Nat) (d : Operand)
  | shfl (g : Guard) (m : ShflMode) (w64 : Bool) (v seg : Nat) (d a b : Operand)
  | scan (g : Guard) (op : ScanOp) (t : ScanType) (excl : Bool) (r : Rnd) (d a : Operand)
  | redux (g : Guard) (op : ScanOp) (t : ScanType) (r : Rnd) (d a : Operand)
  | matchLanes (g : Guard) (all : Bool) (w64 : Bool) (n : Nat) (d a : Operand)
  | lread (g : Guard) (w64 : Bool) (d a b : Operand)
  | regroup (buddy : Bool) (d vF vL : Operand)
  | regroupTimeout (key : Nat)
  -- memory: R235 to R241
  | ld (g : Guard) (nl1 : Bool) (sz : MemSize) (acq : Bool) (sc : Scope) (d : Operand) (m : MemArg)
  | st (g : Guard) (nl1 : Bool) (sz : MemSize) (rel : Bool) (sc : Scope) (d : Operand) (m : MemArg)
  | ldb (g : Guard) (sz : Nat) (acq : Bool) (sc : Scope) (d : Operand) (m : MemArg)
  | pref (g : Guard) (lvl : PrefLevel) (m : MemArg)
  | fence (k : FenceKind) (sc : Scope)
  | cacheWb (g : Guard) (m : MemArg)
  | cacheWbinv (g : Guard) (m : MemArg)
  | cacheZero (g : Guard) (m : MemArg)
  | cacheIinv (g : Guard)
  | cacheL1wb (g : Guard)
  | atom (g : Guard) (op : AtomOp) (o : Ord) (sc : Scope) (d : Operand) (m : MemArg)
  | red (g : Guard) (op : AtomOp) (rel : Bool) (sc : Scope) (d : Operand) (m : MemArg)
  | mwait (g : Guard) (c : MonCond) (w64 : Bool) (acq : Bool) (sc : Scope) (d : Operand) (m : MemArg)
  | vdrop (vF vL : Operand)
  -- barriers: R366 to R372
  | barArrive (g : Guard) (d a b : Operand)
  | barDrop (g : Guard) (d a b : Operand)
  | barJoin (g : Guard) (d a : Operand)
  | barExpect (g : Guard) (d a b : Operand)
  | barWait (g : Guard) (a b : Operand)
  | barSync (g : Guard) (a b : Operand)
  | barTest (g : Guard) (d a b : Operand)
  | tbarSync (g : Guard) (t : Nat)
  | tbarArrive (g : Guard) (t : Nat) (d : Operand)
  | tbarWait (g : Guard) (t : Nat) (b : Operand)
  | tbarTest (g : Guard) (t : Nat) (d b : Operand)
  | tagPhaseComplete (team t : Nat)
  -- events and mailboxes: R374 to R389
  | evarm (g : Guard) (k : EvKind) (slot : Nat) (c : EvCond) (t : IntType) (a b h : Operand)
  | evdis (g : Guard) (d b : Operand)
  | waitany (b : Operand)
  | mbox (g : Guard) (try_ : Bool) (tag : BitVec 8) (d a p : Operand)
  | eventDeadline (key slot : Nat)
  | sleepWake (key : Nat) (slotB : Bool)
  -- walk engine and rings: R257 to R262
  | kick (g : Guard) (a b : Operand)
  | regionRing (g : Guard) (h : Nat) (d a b : Operand)
  | regionWindow (g : Guard) (h : Nat) (d a b : Operand)
  | regionAbsent (g : Guard) (h : Nat) (d : Operand)
  | regionPresent (g : Guard) (h : Nat) (d : Operand)
  | regionFree (g : Guard) (h : Nat) (d : Operand)
  | racqFill (g : Guard) (h : Nat) (try_ : Bool) (d : Operand)
  | racqFree (g : Guard) (h : Nat) (try_ : Bool) (d : Operand)
  | rpub (g : Guard) (h : Nat) (a : Operand)
  | rrel (g : Guard) (h : Nat) (a : Operand)
  -- matrix engine: R290 to R305
  | mclaim (g : Guard) (d a b : Operand)
  | mrel (g : Guard) (a b : Operand)
  | mstage (g : Guard) (a b : Operand)
  | mread (g : Guard) (d a : Operand)
  | mzero (g : Guard) (b : Operand)
  | mloop (g : Guard) (ta tb : NumType) (sc nt : Bool) (a b c : Operand)
  | msca (g : Guard) (a b c : Operand)
  | mdrain (g : Guard) (op : DrainOp) (ord : Bool) (sc : Scope) (f32 : Bool) (a b c : Operand)
  | msyncWait (g : Guard) (d b : Operand)
  | msyncStat (g : Guard) (d : Operand)
  -- verdicts and lists: R319 to R326
  | vcfg (g : Guard) (p : VPred) (audit reset : Bool) (a b : Operand)
  | topk (g : Guard) (a b c : Operand)
  | topkmMerge (g : Guard) (a b : Operand)
  | topkmStore (g : Guard) (a b : Operand)
  | topkr (g : Guard) (d a b : Operand)
  | vthr (g : Guard) (a b : Operand)
  -- rays, texture, attributes: R327 to R343
  | trace (g : Guard) (sn : Nat) (d a b c : Operand)
  | psalloc (g : Guard) (d a : Operand)
  | psfree (g : Guard) (d a b : Operand)
  | sqpush (g : Guard) (q : StageQ) (d a b : Operand)
  | sqpop (g : Guard) (q : StageQ) (d a : Operand)
  | tex (g : Guard) (m : DMode) (d a b c : Operand)
  | texg (g : Guard) (m : DMode) (ch : Nat) (d a b c : Operand)
  | texqLod (g : Guard) (m : DMode) (d a b : Operand)
  | texqDims (g : Guard) (d a b : Operand)
  | attr (g : Guard) (n a0 : Nat) (d a b : Operand)
  | fback (g : Guard) (d a b : Operand)
  -- system: R205 to R211
  | csrr (g : Guard) (w : CsrWidth) (d : Operand) (csr : BitVec 12)
  | csrw (g : Guard) (w : CsrWidth) (csr : BitVec 12) (a : Operand)
  | csrx (g : Guard) (op : CsrOp) (w : CsrWidth) (d : Operand) (csr : BitVec 12) (a : Operand)
  | setperf (g : Guard) (d a b : Operand)
  | launch (g : Guard) (d a b : Operand)
  | tlbi (g : Guard) (m : TlbiMode) (a : Operand)
  | trapack (g : Guard) (d a : Operand)
  -- host side and aperture: R48, R49, R57 to R60, R69, R219, R226, R405, R426, R441, R442
  | hostForward (dev : Nat) (write : Bool) (addr : DWord) (data : Payload)
  | timesyncTimestamp (transmit : Bool)
  | doorbell (q : Nat) (w : DWord)
  | progressRead (q : Nat)
  | prioWrite (q : Nat) (w : DWord)
  | ctrlEnable (q : Nat)
  | ctrlDisable (q : Nat)
  | ctrlResume (q : Nat)
  | ctrlSkip (q : Nat)
  | ctrlClear (q : Nat)
  | viewDoorbell (va : DWord)
  | ctxtabWrite (pa : DWord)
  | permitack (token : DWord)
  | preemptctx (q : DWord)
  | attreq (pa : DWord)
  | fwload (len : DWord)
  | devnumWrite (v : DWord)
  -- privileged CSR writes with behaviour: R49, R62, R77, R112, R206, R220, R410, R430, R432
  | timeofsWrite (d : DWord)
  | timerateWrite (a : Word)
  | carveWrite (core : Nat) (v : Word)
  | viswaysWrite (v : Word)
  | pwrlimWrite (v : Word)
  | perfceilWrite (ctx : Nat) (v : Word)
  | ctxidWrite (key : Nat) (v : Word)
  | walkactResume (core req : Nat)
  | walkactEnd (core req : Nat)
  | registerWrite (key : Nat) (csr : BitVec 12) (v : DWord)
  -- dispatcher and placement: R14 to R27, R53 to R55, R107 to R114, R427
  | cardRead (q : Nat)
  | teamPlace (team : Nat)
  | teamStart (team : Nat)
  | carveConversion (core : Nat)
  | registerRefill (key reg : Nat)
  | teamComplete (team : Nat)
  | callSheetFire (entry : Nat)
  -- pictures and shading: R67 to R97
  | rasterStart (view : Nat)
  | drawEntryRead (view : Nat)
  | binFlush (view : Nat)
  | viewSeal (view : Nat)
  | tileScan (view : Nat)
  | binTimeout (bin : Nat)
  | attributeWrite (team : Nat)
  | viewDone (view : Nat)
  | traversalComplete (ray : Nat)
  -- engines: R242 to R253, R287, R288, R297, R421, R233
  | walkStepRetire (core req : Nat)
  | ringAcquireRequest (core req : Nat)
  | windowCopyEnd (core req : Nat)
  | matrixStep (core : Nat)
  | drainElement (n : Nat)
  | orderedContribution (n : Nat)
  | atomReply (key : Nat)
  | translationComplete (key : Nat)
  -- issue, clocks, power: R144 to R161, R429 to R434
  | runSelect (core quad : Nat)
  | throttleEnd (string : Nat)
  | stallBreak (core quad : Nat)
  | candidateDue (key : Nat) (slotB : Bool)
  | strimbUpdate (string : Nat)
  | laneRatioChange (core : Nat)
  | perfStep (string : Nat)
  | hotspotMigration (core : Nat)
  | heatThrottle (string : Nat)
  | heatThrottleEnd (string : Nat)
  | droopStretch (string : Nat)
  | droopEnd (string : Nat)
  -- health, links, boot: R435 to R441
  | eccUncorrectable (key : Nat) (pa : DWord)
  | flitReplay (port : Nat)
  | portRetrain (port : Nat)
  | portDown (port : Nat)
  -- traps and pre-emption: R399, R404, R414 to R424
  | permitRetry (key : Nat) (slotB : Bool)
  | asyncTrapTake (key : Nat)
  | preemptVictim (team : Nat)
  | drainTimeout (team : Nat)
  | retake (team : Nat)
  | save (team : Nat)
  | restore (team : Nat)
  -- accesses and words outside the rows above: R230, R149, R141, R122
  | linkAccess (use : LinkUse) (size : Nat) (pa data : DWord)
  | loadDataArrival (key : Nat)
  | unassignedOpcode (w : DWord)
  -- rows without operands or data
  | attestationReport
  | csctlArm
  | csctlDisarm
  | queueSwitch
  | dealChunk
  | callSheetSwap
  | viewActivate
  | caplvlLower
  | caplvlRaise
  | sramTrim
  | sramHoldEnd
  | eolRecompute
  | deviceReset
  | firmwareVerify
  | fetchFault
  | join
  | tret
  | yield
  deriving DecidableEq, Repr

end Sys2Proof
end

