-- ==== Sys2Proof/Machine/Fp.lean ====
section
/-! DEFINITION. The number formats and exact arithmetic on them: values as signed dyadic numbers, one rounding at the end
(R164, R177, R182 to R184, R263 to R273). -/

namespace Sys2Proof.Machine

/-! ## Formats (R263, R264) -/

/-- A floating-point format: exponent and fraction bits, bias, whether it has infinities, its canonical NaN, and the exponent and
fraction fields of its largest finite value. -/
structure Fmt where
  e : Nat
  f : Nat
  bias : Nat
  inf : Bool
  canon : Nat
  maxE : Nat
  maxF : Nat
  deriving DecidableEq, Repr

def fmt32 : Fmt := { e := 8, f := 23, bias := 127, inf := true, canon := 0x7FC00000, maxE := 254, maxF := 2 ^ 23 - 1 }
def fmt16 : Fmt := { e := 5, f := 10, bias := 15, inf := true, canon := 0x7E00, maxE := 30, maxF := 2 ^ 10 - 1 }
def fmtBf16 : Fmt := { e := 8, f := 7, bias := 127, inf := true, canon := 0x7FC0, maxE := 254, maxF := 127 }
def fmtE5m2 : Fmt := { e := 5, f := 2, bias := 15, inf := true, canon := 0x7E, maxE := 30, maxF := 3 }
def fmtE4m3 : Fmt := { e := 4, f := 3, bias := 7, inf := false, canon := 0x7F, maxE := 15, maxF := 6 }
def fmtE2m1 : Fmt := { e := 2, f := 1, bias := 1, inf := false, canon := 0, maxE := 3, maxF := 1 }
/-- BS20, as the 20 bits [31:12] of its word (R265). -/
def fmtBs20 : Fmt := { e := 8, f := 11, bias := 127, inf := true, canon := 0x7FC00, maxE := 254, maxF := 2 ^ 11 - 1 }

/-- A value read from a format: a NaN, an infinity, or (-1)^neg x mag x 2^exp. -/
inductive FVal where
  | nan (signalling : Bool)
  | inf (neg : Bool)
  | fin (neg : Bool) (mag : Nat) (exp : Int)
  deriving DecidableEq, Repr

namespace FVal

def isNan : FVal → Bool
  | .nan _ => true
  | _ => false

def isSnan : FVal → Bool
  | .nan true => true
  | _ => false

def isZero : FVal → Bool
  | .fin _ 0 _ => true
  | _ => false

def isInf : FVal → Bool
  | .inf _ => true
  | _ => false

/-- The sign of an infinity or a number. -/
def neg : FVal → Bool
  | .nan _ => false
  | .inf n => n
  | .fin n _ _ => n

end FVal

/-- FFLAGS bits (R165). -/
def flagNV : Nat := 16
def flagDZ : Nat := 8
def flagOF : Nat := 4
def flagUF : Nat := 2
def flagNX : Nat := 1

/-- NV when the condition holds. -/
def nvIf (b : Bool) : Nat := if b then flagNV else 0

/-- The value an encoding stands for (R263, R264). -/
def Fmt.read (F : Fmt) (x : Nat) : FVal :=
  let neg := x / 2 ^ (F.e + F.f) % 2 == 1
  let E := x / 2 ^ F.f % 2 ^ F.e
  let frac := x % 2 ^ F.f
  if F = fmtE4m3 && E = 15 && frac = 7 then .nan false
  else if F.inf && E = 2 ^ F.e - 1 then
    if frac = 0 then .inf neg else .nan (frac < 2 ^ (F.f - 1))
  else if E = 0 then .fin neg frac (1 - (F.bias : Int) - F.f)
  else .fin neg (frac + 2 ^ F.f) ((E : Int) - F.bias - F.f)

/-- An encoding from its fields. -/
def Fmt.code (F : Fmt) (neg : Bool) (E frac : Nat) : Nat := neg.toNat * 2 ^ (F.e + F.f) + E * 2 ^ F.f + frac

/-- The infinity of a sign. -/
def Fmt.infCode (F : Fmt) (neg : Bool) : Nat := F.code neg (2 ^ F.e - 1) 0

/-- The largest finite value of a sign. -/
def Fmt.maxCode (F : Fmt) (neg : Bool) : Nat := F.code neg F.maxE F.maxF

/-! ## Rounding (R164, R270, R271) -/

/-- Whether a quotient with remainder is rounded away from zero. -/
def roundUp (r : Rnd) (neg odd : Bool) (rem half : Nat) (twice : Nat) : Bool :=
  match r with
  | .rne => half < twice || (half = twice && odd)
  | .rz => false
  | .rdn => neg && rem ≠ 0
  | .rup => !neg && rem ≠ 0

/-- `m` / 2^sh rounded to an integer, and whether that was inexact; a negative shift is exact. -/
def roundShift (r : Rnd) (neg : Bool) (m : Nat) (sh : Int) : Nat × Bool :=
  if sh ≤ 0 then (m * 2 ^ (-sh).toNat, false)
  else
    let d := 2 ^ sh.toNat
    let q := m / d
    let rem := m % d
    (if roundUp r neg (q % 2 = 1) rem d (2 * rem) then q + 1 else q, rem ≠ 0)

/-- The number (-1)^neg x mag x 2^exp rounded to a format: the encoding and the flags. `sat` gives the largest finite value on
overflow. -/
def Fmt.round (F : Fmt) (r : Rnd) (neg : Bool) (mag : Nat) (exp : Int) (sat : Bool := false) : Nat × Nat :=
  if mag = 0 then (F.code neg 0 0, 0)
  else
    let emin : Int := 1 - F.bias
    let top : Int := (Nat.log2 mag : Int) + exp
    let lsb : Int := max top emin - F.f
    let (q0, inexact) := roundShift r neg mag (lsb - exp)
    let (q, lsb) := if 2 ^ (F.f + 1) ≤ q0 then (q0 / 2, lsb + 1) else (q0, lsb)
    let maxLsb : Int := (F.maxE : Int) - F.bias - F.f
    if maxLsb < lsb || (lsb = maxLsb && 2 ^ F.f + F.maxF < q) then
      let toMax := sat || !F.inf || r = .rz || (r = .rdn && !neg) || (r = .rup && neg)
      (if toMax then F.maxCode neg else F.infCode neg, flagOF + flagNX)
    else
      let c := if 2 ^ F.f ≤ q then F.code neg (lsb + F.f + F.bias).toNat (q - 2 ^ F.f) else F.code neg 0 q
      let t := (roundShift r neg mag (top - F.f - exp)).1
      let tiny := (if 2 ^ (F.f + 1) ≤ t then top + 1 else top) < emin
      (c, if inexact then flagNX + (if tiny then flagUF else 0) else 0)

/-- A NaN result (R164). -/
def Fmt.nanOut (F : Fmt) (nv : Bool) : Nat × Nat := (F.canon, nvIf nv)

/-! ## Arithmetic (R177, R182) -/

/-- The exact sum of two dyadic numbers, as a signed integer and an exponent. -/
def dySum (na : Bool) (ma : Nat) (ea : Int) (nb : Bool) (mb : Nat) (eb : Int) : Int × Int :=
  let e := min ea eb
  let x : Int := (ma * 2 ^ (ea - e).toNat : Nat)
  let y : Int := (mb * 2 ^ (eb - e).toNat : Nat)
  ((if na then -x else x) + (if nb then -y else y), e)

/-- The sum of two numbers, rounded once, with the exact-zero sign rule. -/
def Fmt.sum (F : Fmt) (r : Rnd) (na : Bool) (ma : Nat) (ea : Int) (nb : Bool) (mb : Nat) (eb : Int) : Nat × Nat :=
  let (v, e) := dySum na ma ea nb mb eb
  if v = 0 then (F.code (if ma = 0 && mb = 0 && na == nb then na else r = .rdn) 0 0, 0)
  else F.round r (v < 0) v.natAbs e

/-- addition. -/
def Fmt.add (F : Fmt) (r : Rnd) (a b : Nat) : Nat × Nat :=
  match F.read a, F.read b with
  | .nan s, .nan t => F.nanOut (s || t)
  | .nan s, _ => F.nanOut s
  | _, .nan t => F.nanOut t
  | .inf n, .inf m => if n == m then (F.infCode n, 0) else F.nanOut true
  | .inf n, .fin _ _ _ => (F.infCode n, 0)
  | .fin _ _ _, .inf n => (F.infCode n, 0)
  | .fin na ma ea, .fin nb mb eb => F.sum r na ma ea nb mb eb

/-- multiplication. -/
def Fmt.mul (F : Fmt) (r : Rnd) (a b : Nat) : Nat × Nat :=
  match F.read a, F.read b with
  | .nan s, .nan t => F.nanOut (s || t)
  | .nan s, _ => F.nanOut s
  | _, .nan t => F.nanOut t
  | .inf n, .inf m => (F.infCode (n != m), 0)
  | .inf n, .fin m mag _ => if mag = 0 then F.nanOut true else (F.infCode (n != m), 0)
  | .fin m mag _, .inf n => if mag = 0 then F.nanOut true else (F.infCode (n != m), 0)
  | .fin na ma ea, .fin nb mb eb => F.round r (na != nb) (ma * mb) (ea + eb)

/-- fusedMultiplyAdd: a x b + c with one rounding; zero times infinity is invalid whatever c holds (R177). -/
def Fmt.fma (F : Fmt) (r : Rnd) (a b c : Nat) : Nat × Nat :=
  let va := F.read a
  let vb := F.read b
  let vc := F.read c
  let bad := (va.isInf && vb.isZero) || (va.isZero && vb.isInf)
  if va.isNan || vb.isNan || vc.isNan then F.nanOut (va.isSnan || vb.isSnan || vc.isSnan || bad)
  else if bad then F.nanOut true
  else
    let n := va.neg != vb.neg
    if va.isInf || vb.isInf then
      match vc with
      | .inf m => if m == n then (F.infCode n, 0) else F.nanOut true
      | _ => (F.infCode n, 0)
    else
      match va, vb, vc with
      | _, _, .inf m => (F.infCode m, 0)
      | .fin _ ma ea, .fin _ mb eb, .fin nc mc ec => F.sum r n (ma * mb) (ea + eb) nc mc ec
      | _, _, _ => F.nanOut false

/-- a < b in the order in which -0 lies below +0; NaN is never compared. -/
def FVal.below (signedZero : Bool) : FVal → FVal → Bool
  | .nan _, _ => false
  | _, .nan _ => false
  | .inf n, .inf m => n && !m
  | .inf n, .fin _ _ _ => n
  | .fin _ _ _, .inf m => !m
  | .fin na ma ea, .fin nb mb eb =>
    let (v, _) := dySum na ma ea (!nb) mb eb
    v < 0 || (signedZero && v = 0 && na && !nb)

/-- minimumNumber or maximumNumber: the bits of the operand chosen (R177). -/
def Fmt.minMax (F : Fmt) (big : Bool) (a b : Nat) : Nat × Nat :=
  let va := F.read a
  let vb := F.read b
  let fl := nvIf (va.isSnan || vb.isSnan)
  if va.isNan && vb.isNan then (F.canon, fl)
  else if va.isNan then (b, fl)
  else if vb.isNan then (a, fl)
  else if big then (if va.below true vb then b else a, fl)
  else (if vb.below true va then b else a, fl)

/-- roundToIntegral in the direction `r`; NX is never set (R177). -/
def Fmt.toIntegral (F : Fmt) (r : Rnd) (a : Nat) : Nat × Nat :=
  match F.read a with
  | .nan s => F.nanOut s
  | .inf n => (F.infCode n, 0)
  | .fin n m e =>
    let (q, _) := roundShift r n m (-e)
    ((F.round .rz n q 0).1, 0)

/-- scaleB (R177). -/
def Fmt.scale (F : Fmt) (r : Rnd) (a : Nat) (k : Int) : Nat × Nat :=
  match F.read a with
  | .nan s => F.nanOut s
  | .inf n => (F.infCode n, 0)
  | .fin n m e => F.round r n m (e + clampInt (-100000) 100000 k)

/-! ## Conversion to an integer (R184) -/

/-- A number rounded to an integer of a range: the value and the flags. -/
def toIntRange (r : Rnd) (lo hi : Int) : FVal → Int × Nat
  | .nan _ => (0, flagNV)
  | .inf n => (if n then lo else hi, flagNV)
  | .fin n m e =>
    if 0 < m && 4096 ≤ e then (if n then lo else hi, flagNV)
    else
      let (q, inexact) := roundShift r n m (-e)
      let v : Int := if n then -(q : Int) else q
      if v < lo then (lo, flagNV) else if hi < v then (hi, flagNV) else (v, if inexact then flagNX else 0)

/-! ## Verdict words (R166, R268) -/

/-- A verdict word. -/
def isVerdict (x : Word) : Bool := bits x 31 21 = 0x7FD && bits x 3 2 = 0 && (bits x 1 0 = 1 || bits x 1 0 = 2)

/-- The verdict word of a step count and a code (R268). -/
def verdictWord (step : Nat) (above : Bool) : Word := BitVec.ofNat 32 (0xFFA00000 + step * 16 + (if above then 1 else 2))

end Sys2Proof.Machine
end

