-- ==== Sys2Proof/Config.lean ====
section
/-! DEFINITION. What the NGW-9216 fixes (R2), and the free values: constants without a body, which stand
for every value the manual leaves open. A statement about a free value holds whatever it is. -/

namespace Sys2Proof.Config

/-- Cores of the device (R2). -/
def numCores : Nat := 216
/-- Series strings of four cores (R2). -/
def numStrings : Nat := 54
/-- Resident group positions of a core (R2, R9). -/
def positions : Nat := 64
/-- Queues of the device (R50). -/
def numQueues : Nat := 4096
/-- Bytes of device DRAM: 192 GiB (R3). -/
def dramBytes : Nat := 0x003000000000
/-- First address of the on-chip windows and the size of one core's window (R3, R115). -/
def windowBase : Nat := 0x010000000000
def windowSize : Nat := 0x01000000
/-- The doorbell aperture (R3, R57). -/
def apertureBase : Nat := 0x020000000000
def apertureSize : Nat := 0x50000
/-- The scratch aperture's base (R112, R217). -/
def scrBase : Nat := 0x1FF0000000000
/-- First address past the virtual address space (R217). -/
def vaLimit : Nat := 0x2000000000000
/-- Key distance between the memories of two devices of the pod in `State.mem` (log 1). -/
def deviceStride : Nat := 0x400000000000

/-- FREE VALUE: what a register, flag or field reads where the manual leaves its value open; the argument is
the state's counter of free values (log 8). -/
opaque freeWord : Nat → Word
/-- FREE VALUE: a doubleword the manual leaves open (log 8). -/
opaque freeDWord : Nat → DWord
/-- FREE VALUE: a natural number the manual leaves open: a temperature, a current, a measured count (log 4). -/
opaque freeNat : Nat → Nat
/-- FREE VALUE: which of several allowed behaviours occurs (log 8). -/
opaque freeBool : Nat → Bool
/-- FREE VALUE: the probes that R337 counts when Pmax / Pmin is a NaN; the arguments are Pmax and Pmin (log 24). -/
opaque freeProbes : Word → Word → Nat
/-- FREE VALUE: the integer below x 2^k for a sample position x that is infinite or a NaN though its coordinates are finite (R338; log 24). -/
opaque freeFloor : Word → Int → Int
/-- IMPLEMENTATION VALUE: a binned-geometry buffer of so many MiB cannot hold so many entries of bins of a view: the manual does not say how much
room one takes (R76; log 7). -/
opaque binFull : Nat → Nat → Bool
/-- Input power in watts that the module measures over a 1 ms window, by the window's number since device reset (R432; log 4). -/
opaque inputPower : Nat → Nat

/-- IMPLEMENTATION VALUE: the fixed hash that names the home L2 slice of a line, by its number PA[45:7] (R230; log 86). -/
opaque l2Slice : Nat → Nat
/-- IMPLEMENTATION VALUE: which of the sets of its slice a line falls in, by its number (R2; log 86). -/
opaque l2Set : Nat → Nat
/-- IMPLEMENTATION VALUE: the public key in the boot ROM, 32 bytes (R440; log 5). -/
opaque romKey : List Byte
/-- IMPLEMENTATION VALUE: the SHA-512 hash in the fuses (R440, R441; log 5). -/
opaque fusedKeyHash : List Byte
/-- IMPLEMENTATION VALUE: the fused unique secret, and the salt and info of the derivation of the identity key from it (R442; log 5). -/
opaque uniqueSecret : List Byte
opaque identitySalt : List Byte
opaque identityInfo : List Byte
/-- IMPLEMENTATION VALUE: the device serial number (R442; log 5). -/
opaque serialNumber : DWord
/-- IMPLEMENTATION VALUE: the minimum SVN fused at manufacture (R440; log 5). -/
opaque fusedSvn : Word
/-- IMPLEMENTATION VALUE: the image in module flash, header and body (R441; log 5). -/
opaque flashImage : List Byte

end Sys2Proof.Config
end

