-- ==== Sys2Proof/Machine/State.lean ====
section
/-! DEFINITION. The state of one Gweybo 9216 as plain data, the reasons a step can stop, and the state after device reset.
INVENTORY.md lists every field with the rule that names it and its reset value. -/

namespace Sys2Proof.Machine

/-- Bytes at addresses, in one canonical form: addresses strictly rising, no entry equal to the byte an unlisted address
reads as (0x00, DESIGN CHOICE, log 1). -/
abbrev Memory := List Host.Cell

/-- Words at indices in the same canonical form; an unlisted index reads as zero. -/
abbrev Sparse (w : Nat) := List (Nat × BitVec w)

/-- Records at keys. -/
abbrev Tab (α : Type) := List (Nat × α)

/-- Handler mode of a group (R396). -/
inductive Mode where
  | normal | user | supervisor
  deriving DecidableEq, Repr

/-- A physical place: the key of a byte in `State.mem` (log 1), or an offset in a core's on-chip window. -/
inductive Loc where
  | dram (key : Nat)
  | win (core off : Nat)
  deriving DecidableEq, Repr

/-- Why a PC slot is parked, other than at a JOIN (R144). -/
inductive Wait where
  /-- The word has issued and performs once its condition holds: RACQ on an empty ring, MBOX on a full queue, a release that
  waits for earlier accesses, a word that waits for engine work (log 76). -/
  | reissue
  /-- The word's group is suspended at an access to a demand window whose copy runs; the word issues again (R253). -/
  | window
  /-- No permit was free: the word issues again once the group has waited until this TIME (R404). -/
  | permit (cycle : Nat)
  /-- At a barrier object: its scratch offset and the token (R369). -/
  | bar (addr : DWord) (phase : Word)
  /-- BAR.sync after its arrival: offset and token (R369). -/
  | barSync (addr : DWord) (token : Word)
  /-- At a route-tag barrier: tag and token (R371). -/
  | tbar (tag : Nat) (token : Word)
  /-- TBAR.sync after its arrival: tag and token (R371). -/
  | tbarSync (tag : Nat) (token : Word)
  /-- SLEEP until TIME reaches the deadline (R204). -/
  | sleep (deadline : Nat)
  /-- WAITANY with its mask (R381). -/
  | waitany (mask : Word)
  /-- MWAIT with a monitor armed (R363). -/
  | monitor
  /-- The other slot must come to rest first (R105). -/
  | matrix
  /-- MSYNC.wait: its destination and executing lanes, the tiles, and the numbers below which loops and drains count (R304). -/
  | msync (dst : Operand) (lanes tiles : Word) (loops drains : Nat)
  /-- REGROUP: mode, range and the core's front cycle at which the wait began (R197). -/
  | regroup (buddy : Bool) (dst : Operand) (vF vL : Operand) (since : Nat)
  deriving DecidableEq, Repr

/-- A part: lanes with one PC (R152). `wait` and `reissue` belong to the word at the PC: why the slot waits, and the lanes in
which a faulted word is issued again (R233). -/
structure Part where
  pc : DWord
  mask : Word
  depth : Nat := 0
  park : Option DWord := none
  wait : Option Wait := none
  reissue : Option Word := none
  /-- Rows of an MDRAIN already sent, which its reissue skips (R302). -/
  rows : Nat := 0
  /-- The engine word at the PC has its turn: R105 holds it back no more. -/
  turn : Bool := false
  /-- The class and word count of the run that the word at the PC continues (R147). -/
  cont : Option (Nat × Nat) := none
  /-- The store or atomic at the PC performs after it has issued, by events of its own (R346; log 9). -/
  delay : Bool := false
  deriving DecidableEq, Repr

/-- Where the copy of a spilled register lies (R111). -/
inductive Spill where
  | none | reserve (way : Nat) | memory
  deriving DecidableEq, Repr

/-- A bound vector register: its 32 lanes, where it is spilled, and the stamp of its last use (R109, R111). -/
structure VReg where
  lanes : List Word
  spill : Spill := .none
  used : Nat := 0
  deriving DecidableEq, Repr

/-- The U-frame or the S-frame (R396). `slotB` says which slot held the trapping part. -/
structure Frame where
  slotA : Option Part := none
  slotB : Option Part := none
  inB : Bool := false
  stackDepth : Nat := 0
  tepc : DWord := 0
  /-- Software has written TEPC since the trap, so TRET checks it under R120 (R203). -/
  rewritten : Bool := false
  tmask : Word := 0
  exmask : Word := 0
  tcause : Word := 0
  taddr : DWord := 0
  tinfo : Word := 0
  mode : Mode := .normal
  deriving DecidableEq, Repr

/-- A trap to be taken (R393, R396). `core` is the core whose engine raised an asynchronous one (R399). -/
structure Trap where
  code : Nat
  addr : DWord := 0
  info : Word := 0
  tmask : Word := 0
  exmask : Word := 0
  tepc : DWord := 0
  core : Nat := 0
  deriving DecidableEq, Repr

/-- An event slot (R374). -/
structure EvSlot where
  armed : Bool := false
  pend : Bool := false
  kind : EvKind := .bar
  cond : EvCond := .eq
  type : IntType := .s32
  object : DWord := 0
  target : DWord := 0
  hofs : Word := 0
  data : List Word := []
  deriving DecidableEq, Repr

/-- A mailbox token (R387): `slot` is the event slot to which it is bound. -/
structure MailToken where
  tag : Nat
  sender : Nat
  payload : List Word
  slot : Option Nat := none
  deriving DecidableEq, Repr

/-- An indivisible unit of an outstanding load whose value is not fixed yet (R348, R352): its lane, the first of its registers, its place and
bytes, and whether it is sign-extended. -/
structure LoadUnit where
  lane : Nat
  word : Nat
  loc : Loc
  size : Nat
  signed : Bool := false
  deriving DecidableEq, Repr

/-- What an indivisible unit of a store or an atomic does to its bytes (R236, R361). -/
inductive LateEffect where
  | store (data : Nat)
  | atom (op : AtomOp) (D N : Nat)
  deriving DecidableEq, Repr

/-- An indivisible unit of a store or an atomic that has issued and has not performed yet (R346, R348, R352): its lane, the lanes of the parts
that it precedes in part order (R345), its place and bytes, what it does, the destination to which its old value returns, and the
stamp of the step in which its word issued. -/
structure LateOp where
  lane : Nat
  part : Word
  loc : Loc
  size : Nat
  effect : LateEffect
  reply : Option Operand := none
  word : Nat
  deriving DecidableEq, Repr

/-- A register write still outstanding on the scoreboard (R149): the values a load, atomic or texture read returns. -/
structure Pending where
  /-- true when an atomic's reply brings the value, false when load data do (R421). -/
  atomic : Bool
  dst : Operand
  /-- Number of 32-bit registers written. -/
  words : Nat
  mask : Word
  /-- For each register, its 32 lane values. -/
  values : List (List Word)
  /-- Lanes whose data come from a peer, with that device: they read all ones when its last route is lost first (R438). -/
  peers : List (Nat × Nat) := []
  /-- Lanes of the parts that the load or atomic precedes in part order (R345); none for a texture read. -/
  part : Word := 0
  /-- Units of a load whose values are not fixed yet. -/
  units : List LoadUnit := []
  /-- No later access of the group performs before this one has completed (R236, R240, R350). -/
  acq : Bool := false
  deriving DecidableEq, Repr

/-- What the scheduler keeps of a candidate (R145 to R148): the front cycle from which it has waited, runs of others begun since it
became ready, front cycles held by balance, whether it is due. -/
structure Cand where
  since : Nat := 0
  passed : Nat := 0
  balance : Nat := 0
  due : Bool := false
  deriving DecidableEq, Repr

/-- A handler entry whose report waits for room in the fault ring: the trap, its slot, ESC, the permit it holds, and the stamp at which
the permit was taken (R406, R447). -/
structure Entry where
  trap : Trap
  slotB : Bool
  esc : Bool
  permit : Nat
  since : Nat
  deriving DecidableEq, Repr

/-- A resident group (R12, R23, R24). -/
structure Group where
  team : Nat := 0
  gidx : Nat := 0
  role : Nat := 0
  rgroup : Nat := 0
  quarter : Nat := 0
  quad : Nat := 0
  slotA : Option Part := none
  slotB : Option Part := none
  stack : List Part := []
  /-- Bound vector registers by number. -/
  vregs : Tab VReg := []
  sregs : List Word := List.replicate 32 0
  preds : List Word := List.replicate 7 0
  lorigin : List Word := List.replicate 32 0
  helper : Word := 0
  vacant : Word := 0
  mode : Mode := .normal
  uframe : Frame := {}
  sframe : Frame := {}
  /-- The last frame written was the S-frame (R397). -/
  lastS : Bool := false
  trapvec : DWord := 0
  taction : Word := 0
  sscr0 : DWord := 0
  sscr1 : DWord := 0
  ctxid : Option Nat := none
  fflags : Word := 0
  evmask : Word := 0xFFFF
  evslot : Word := 0
  evdata : List Word := [0, 0, 0, 0]
  evcxl : Word := 0
  events : List EvSlot := List.replicate 16 {}
  mailbox : List MailToken := []
  /-- Barrier objects in which the group takes part: scratch offset and the phase in which it last arrived, newest last (R368). -/
  barriers : List (Nat × Option Nat) := []
  perfReq : Option (Nat × Nat) := none
  stallMem : DWord := 0
  stallAlu : DWord := 0
  heldTraps : List Trap := []
  /-- The oldest held trap found no permit: the front cycle of the core until which it waits (R404). -/
  heldUntil : Option Nat := none
  entering : Option Entry := none
  /-- Tokens of the permits that the group holds (R403, R416). -/
  tokens : List Nat := []
  backoff : Nat := 256
  suspended : Bool := false
  outstanding : List Pending := []
  /-- Stores and atomics that have issued and not performed, oldest first (R346, R348; log 9). -/
  late : List LateOp := []
  candA : Cand := {}
  candB : Cand := {}
  deriving DecidableEq, Repr

/-- Who holds or awaits a ring slot (R251). -/
inductive Acquirer where
  | group (gidx : Nat)
  | request (core id : Nat)
  deriving DecidableEq, Repr

/-- Ring states (R252). -/
inductive RingState where
  | opened | closed | broken
  deriving DecidableEq, Repr

/-- Demand-window states (R253). -/
inductive WinState where
  | absent | copying | present | failed
  deriving DecidableEq, Repr

/-- A ring of N slots (R251): `writing` lists slots held for writing with their holder, `waiters` the free-acquires in the order
in which they arrived. -/
structure Ring where
  base : Nat
  slotSz : Nat
  n : Nat
  owner : Nat
  state : RingState := .opened
  free : Nat
  filled : Nat := 0
  pidx : Nat := 0
  cidx : Nat := 0
  pubf : Nat := 0
  relf : Nat := 0
  published : BitVec 64 := 0
  released : BitVec 64 := 0
  writing : List (Nat × Acquirer) := []
  reading : List Nat := []
  waiters : List Acquirer := []
  deriving DecidableEq, Repr

/-- A demand window (R253, R254). -/
structure Window where
  base : Nat
  size : Nat
  state : WinState := .absent
  advance : Word
  copies : Nat := 0
  record : List DWord
  deriving DecidableEq, Repr

/-- What a region handle names (R254). -/
inductive RegionBody where
  | ring (r : Ring)
  | window (w : Window)
  deriving DecidableEq, Repr

/-- A configured handle, its region-table entry and the core whose table holds it (R254). -/
structure Region where
  handle : Nat
  core : Nat
  entry : Nat
  body : RegionBody
  deriving DecidableEq, Repr

/-- Where a walk request stands (R242, R247, R250). -/
inductive ReqPhase where
  | waiting
  | running
  /-- Stopped by a walk fault: cause code of the page check, address and TINFO. -/
  | stopped (addr : DWord) (info : Word)
  deriving DecidableEq, Repr

/-- A walk request (R242, R243): its record, the scratch offset it came from, bytes of retired steps, the ring slot it holds, the
window whose copy it is, and the member core as which it joins a multicast: the one on which it was issued (R248, R250). -/
structure Request where
  id : Nat
  /-- The request number that TINFO and WALKACT name (R410); it stays with the request when its team moves (R425). -/
  num : Nat
  team : Nat
  gidx : Nat
  recOff : Nat
  record : List DWord
  phase : ReqPhase := .waiting
  done : Nat := 0
  slot : Option Nat := none
  window : Option Nat := none
  member : Nat := 0
  /-- Multicast: the bytes that have arrived here of the slices of each rank (R250). -/
  arrived : List (Nat × Nat) := []
  deriving DecidableEq, Repr

/-- The address space of a locked range (R255): a team's scratch, a context's virtual addresses by ASID, or the core's window as a context's loop
locks it (R256, R284). -/
inductive LockSpace where
  | scratch (team : Nat)
  | virt (asid : Nat)
  | window (ctx : Nat)
  deriving DecidableEq, Repr

/-- One locked range of bytes [lo, hi] (R255). -/
structure LockRange where
  space : LockSpace
  lo : Nat
  hi : Nat
  dest : Bool
  deriving DecidableEq, Repr

/-- Who holds a range-lock entry. -/
inductive LockOwner where
  | request (id : Nat)
  | loop (id : Nat)
  deriving DecidableEq, Repr

/-- A range-lock entry (R255, R284). -/
structure Lock where
  owner : LockOwner
  ranges : List LockRange
  deriving DecidableEq, Repr

/-- A queued or running matrix loop (R281, R296): `done` steps done, `scaled` steps consumed by MSCA, `stopReq` to be stopped at its
next step boundary (R289). -/
structure Loop where
  id : Nat
  team : Nat
  gidx : Nat
  tile : Nat
  ta : NumType
  tb : NumType
  sc : Bool
  nt : Bool
  aslot : Nat
  bslot : Nat
  nstep : Nat
  da : Nat
  wa : Nat
  db : Nat
  wb : Nat
  done : Nat := 0
  scaled : Nat := 0
  stopReq : Bool := false
  /-- Steps done at the boundary at which an audited loop would have ended without audit (R314). -/
  early : Option Nat := none
  /-- The partial slots of a restored loop that has not had its turn since (R289). -/
  saved : Option (Sparse 32) := none
  /-- Threshold publications that its next boundary may use, latest first (R317). -/
  pubs : List (List Word) := []
  deriving DecidableEq, Repr

/-- A translation held by a TLB (R224). -/
structure TlbEntry where
  asid : Nat
  /-- Shift of the page: 19, 25 or 31 (R221). -/
  shift : Nat
  vpn : Nat
  /-- The leaf entry (R222). -/
  leaf : DWord
  deriving DecidableEq, Repr

/-- A line held by an L1 (R227, R228): physical line number, valid and dirty words. -/
structure L1Line where
  line : Nat
  valid : Word
  dirty : Word
  deriving DecidableEq, Repr

/-- The run in progress in a quadrant (R145 to R147): the candidate, the class it was admitted with, words issued, front cycles
for which the next word has been held by the scoreboard, and front cycles for which its group's translation check has been
waited for. -/
structure Run where
  key : Nat
  slotB : Bool
  cls : Nat
  issued : Nat := 0
  held : Nat := 0
  checking : Nat := 0
  deriving DecidableEq, Repr

/-- A core (R9, R112, R150, R158, R224, R227, R242, R255, R281, R403). `chip` holds the window's bytes by window offset
(unified storage, operand memory), `acc` the accumulator words of the 16 tiles, `partial` those of the two partial slots. -/
structure Core where
  cycle : Nat := 0
  lcycle : Nat := 0
  /-- A half lane cycle counted but not yet in LCYCLE, at ratio 1/2 (R150). -/
  lfrac : Nat := 0
  /-- Lane ratio: 0 for 1/2, 1, 2 (R150, R208). -/
  ratio : Nat := 1
  quads : List (Option Run) := [none, none, none, none]
  /-- By quadrant: the class of the word issued in the present front cycle, once the quadrant has had its turn in it (R145, R158). -/
  served : List (Option Nat) := [none, none, none, none]
  /-- One more than the position of the group that last took a permit in the present front cycle (R447). -/
  permitPos : Nat := 0
  rsv : Nat := 2
  scratchWays : Nat := 0
  spillWays : Nat := 2
  l1 : List L1Line := []
  tlb : List TlbEntry := []
  svec : DWord := 0
  permits : List Bool := [false, false, false, false, false]
  requests : List Request := []
  locks : List Lock := []
  loops : List Loop := []
  nextLoop : Nat := 0
  chip : Sparse 8 := []
  acc : Sparse 32 := []
  partials : Sparse 32 := []
  /-- Unsigned 1/16 °C (R117). -/
  temp : Nat := 0
  fillcnt : DWord := 0
  throtcnt : DWord := 0
  /-- Sum over the quadrants of the class issued in each of the last 64 front cycles, latest first (R158). -/
  load : List Nat := []
  /-- Filler words issued in each of the last 4,096 front cycles, latest first (R160). -/
  fillers : List Nat := []
  /-- Context-fatal reports that wait for permit 4 (R411): context, TADDR, TINFO code. -/
  fatalWaiting : List (Nat × Trap × Nat × Nat) := []
  deriving DecidableEq, Repr

/-- A series string (R157, R158, R160, R430, R431, R433, R434). `mv` is the core voltage in millivolts, `level` the clock level the
string runs at. -/
structure Strand where
  strlim : Nat := 6
  fillbud : Nat := 16
  strimb : DWord := 0x181818
  level : Nat := 0
  mv : Nat := 650
  throttled : Bool := false
  /-- Front cycles in which no throttle condition has held (R160). -/
  quiet : Nat := 0
  /-- A due candidate has been admitted beyond m + L in the present front cycle (R160). -/
  forced : Bool := false
  heat : Bool := false
  droop : Bool := false
  /-- Front cycle of its first core at which the stretch began (R434). -/
  droopAt : Nat := 0
  /-- The 10 mV of a ramp under way: upwards or not, and the uptime at which they began (R431). -/
  ramp : Option (Bool × Nat) := none
  /-- Uptime of the latest update of STRIMB (R157). -/
  strimbAt : Nat := 0
  /-- The model's own: six-thousandths of front cycles for which TIME has passed and that have not been counted; negative when words have
  issued for which no time has passed yet (log 10). -/
  phase : Int := 0
  deriving DecidableEq, Repr

/-- A verdict configuration (R306, R307, R317): `pth` is the latest publication of the tile's thresholds. -/
structure VConf where
  pred : VPred := .none
  audit : Bool := false
  saofs : Nat := 0
  sbofs : Nat := 0
  nent : Nat := 1
  th : List Word := []
  list : Nat := 0
  pth : List Word := []
  deriving DecidableEq, Repr

/-- A top-k list (R315): capacity and, for each of 64 rows, its KCAP entries (value, index), best first, the empty ones last. -/
structure TopList where
  kcap : Nat := 0
  rows : List (List (Word × Word)) := List.replicate 64 []
  deriving DecidableEq, Repr

/-- A team's resources on one core (R11, R16, R277, R306, R315). -/
structure Quarter where
  core : Nat
  /-- Scratch base and size in KiB within the core's scratch range (R112). -/
  base : Nat
  kib : Nat
  /-- Reserved physical slots not backing a claim, and the claims logical slot to physical slot (R277, R291). -/
  reserve : List Nat := []
  claims : List (Nat × Nat) := []
  /-- Physical tile of each team tile (R277). -/
  tiles : List Nat := []
  vconf : List VConf := []
  lists : List TopList := []
  /-- Reserved ternary codes since the last MSYNC.stat (R304). -/
  ternary : Nat := 0
  /-- Steps done of the loop that ended most recently on each tile (R304). -/
  steps : List Nat := []
  deriving DecidableEq, Repr

/-- How a group of a team stands (R25, R412). -/
inductive Fate where
  | live | exited | abnormal
  deriving DecidableEq, Repr

/-- A route-tag barrier (R371): phase, groups that have arrived, front cycles until a pending completion. -/
structure Tag where
  phase : Nat := 0
  arrived : List Nat := []
  due : Option Nat := none
  deriving DecidableEq, Repr

/-- The urgent team that causes a pre-emption, dealt or still in its card: queue, card index and record index (R414, R418). -/
structure Cause where
  ctx : Nat
  cardIdx : Nat
  recidx : Nat
  deriving DecidableEq, Repr

/-- What a drained team released on one core at its exit, while the urgent team that caused its pre-emption waits: it goes first to that team
(R418). Group positions, operand slots, tiles and route tags are counted; `base` and `kib` give the scratch range. -/
structure Keep where
  cause : Cause
  core : Nat
  groups : Nat
  slots : Nat
  tiles : Nat
  tags : Nat
  base : Nat
  kib : Nat
  deriving DecidableEq, Repr

/-- Where a team stands (R19 to R21, R416, R418 to R420, R427). -/
inductive TeamPhase where
  | dealt | placed | running | retaking
  /-- Drained until an uptime, for an urgent team or for PREEMPTCTX (R418, R426). -/
  | draining (until_ : Nat) (cause : Option Cause)
  /-- Chosen for save into a slot at an uptime; `ran` says that it had started. -/
  | saving (slot since : Nat) (ran : Bool)
  | saved (slot : Nat) | ended
  deriving DecidableEq, Repr

/-- A team (R9, R13, R24, R56, R64, R371, R392, R416, R417). `card` is the job card it was dealt from. -/
structure Team where
  id : Nat
  /-- Context: the queue number, or 4,096 for picture teams (R219). -/
  ctx : Nat
  /-- Card index in its queue, and record index. -/
  cardIdx : Nat := 0
  recidx : Nat := 0
  seq : Nat := 0
  card : List DWord
  prio : Nat := 0
  urgent : Bool := false
  /-- The chunk's core or string (R18, R19); none for a team that may be placed on any (R87, R419, R424). -/
  home : Option Nat := none
  /-- Number of its chunk: that of the chunk's first team (R19). -/
  chunk : Nat := 0
  phase : TeamPhase := .dealt
  quarters : List Quarter := []
  fates : List Fate := []
  regions : List Region := []
  tags : List Tag := []
  abend : Nat := 0
  lastAbend : Nat := 0
  revoked : Bool := false
  issued : Nat := 0
  startTime : Nat := 0
  /-- Stamp of its placement (R414). -/
  placedAt : Nat := 0
  /-- Token of the permit that its latest record-fetch report holds (R410). -/
  recPermit : Option Nat := none
  /-- Fetch blocks held for the team: base address and eight words (R123). -/
  blocks : List (Nat × List DWord) := []
  /-- A material or stage team's launch record (R87, R95): launch index in the picture state. -/
  launch : Option Nat := none
  /-- A saved team with a group that was ready at the save, or with engine work to go on (R424). -/
  runnable : Bool := true
  /-- Chosen for migration: its groups stop at their next run boundary (R118). -/
  moving : Bool := false
  /-- Its completion increment waits for parked ordered contributions (R288, R427). -/
  discarded : Bool := false
  deriving DecidableEq, Repr

/-- A grid: a card being dealt or with teams still to end (R17, R18, R26, R27). -/
structure Grid where
  ctx : Nat
  cardIdx : Nat
  card : List DWord
  dealt : Nat := 0
  live : Nat := 0
  failed : Bool := false
  /-- Its card was released by an urgent call-sheet firing (R64). -/
  urgent : Bool := false
  /-- Cores on which a team of it has ended (R250). -/
  left : List Nat := []
  deriving DecidableEq, Repr

/-- A 4-byte word of a published card or of its argument records as the device has taken it before it uses the card: which form of a word
that software changes meanwhile is used depends on when it was taken (R22, R61). -/
structure Ahead where
  queue : Nat
  card : Nat
  va : Nat
  word : Word
  deriving DecidableEq, Repr

/-- One call-sheet entry (R62). -/
structure SheetEntry where
  valid : Bool
  offset : Nat
  policy : Nat
  queue : Nat
  count : Nat
  /-- The least period number for which it has not fired (R63). -/
  fired : Nat := 0
  deriving DecidableEq, Repr

/-- An armed call sheet with the period and epoch it was armed with (R62). -/
structure Sheet where
  period : Nat
  epoch : Nat
  entries : List SheetEntry
  deriving DecidableEq, Repr

/-- What the call sheet does at the next period start, and the TIME of that start (R62). -/
inductive SheetChange where
  | keep | install (s : Sheet) (at_ : Nat) | disarm (at_ : Nat)
  deriving DecidableEq, Repr

/-- States of a v-tile (R77). -/
inductive TileState where
  | opened | sealed | classified | shaded
  deriving DecidableEq, Repr

/-- A v-tile that is not FREE (R75, R77, R78): 64 visibility IDs and depths, references still to be released, the stamp of the
last raster write, whether it lives in its VTBACK lines. -/
structure VTile where
  idx : Nat
  state : TileState := .opened
  refs : Nat := 0
  pixels : List (DWord × Word)
  stamp : Nat := 0
  spilled : Bool := false
  deriving DecidableEq, Repr

/-- A triangle in the binned-geometry buffer (R72, R76): its ID and its three snapped vertices, X and Y in 1/256 pixel, Z. -/
structure BinnedTri where
  id : DWord
  verts : List (Int × Int × Word)
  deriving DecidableEq, Repr

/-- Where a view stands (R70, R71, R76, R77, R80). -/
inductive ViewPhase where
  | submitted | active | drawing | sealed | ended
  deriving DecidableEq, Repr

/-- A view (R69, R70, R80, R94): descriptor address and doublewords, next draw-stream entry, binned triangles, tiles, the counters
of both records, the next launch number. -/
structure View where
  /-- The model's own number. -/
  id : Nat
  va : DWord
  desc : List DWord := []
  phase : ViewPhase := .submitted
  next : Nat := 0
  /-- The entries of the bins of the binned-geometry buffer, each with the number of its 64 x 64-pixel bin, in the order of binning (R76). -/
  binned : List (Nat × BinnedTri) := []
  tiles : List VTile := []
  flushes : Nat := 0
  spills : Nat := 0
  dlyadd : Nat := 0
  dlydrop : Nat := 0
  proxy : Nat := 0
  skipped : Nat := 0
  badtri : Nat := 0
  launched : Nat := 0
  pixlanes : Nat := 0
  helpers : Nat := 0
  vacant : Nat := 0
  partialCount : Nat := 0
  badmat : Nat := 0
  attrshort : Nat := 0
  aborted : Bool := false
  sealDone : Bool := false
  deriving DecidableEq, Repr

/-- One lane entry of a bin: a pixel (tile, j) with the triangle ID used, its depth and whether it is a helper, or a ray slot. -/
inductive LaneEntry where
  | pixel (tile j : Nat) (id : DWord) (depth : Word) (helper : Bool)
  | slot (n : Nat) (scene : DWord)
  deriving DecidableEq, Repr

/-- What a bin collects for: a view by its number, or a pool (R85, R101). -/
inductive BinSource where
  | view (id : Nat)
  | pool (n : Nat)
  deriving DecidableEq, Repr

/-- An open material bin (R85, R86): the material's card and directory fields, and the uptime of its first and latest record. The bins
stand in the order in which they opened. -/
structure MatBin where
  source : BinSource
  mat : Nat
  miss : Bool := false
  quad : Bool := false
  card : List DWord := []
  attrs : Nat := 0
  prio : Nat := 0
  entries : List LaneEntry := []
  opened : Nat := 0
  last : Nat := 0
  /-- The classify engine that opened it; 8 for a ray bin. -/
  engine : Nat := 0
  /-- The model's own: rises with the order of opening (R85, R444). -/
  stamp : Nat := 0
  deriving DecidableEq, Repr

/-- A launch (R86 to R88): `engine` is the classify engine whose launch queue holds it until its team is placed. -/
structure Launch where
  source : BinSource
  /-- Address of the view or pool descriptor. -/
  va : DWord := 0
  mat : Nat
  seq : Nat
  kind : Nat
  entries : List LaneEntry
  attrs : Nat
  engine : Nat := 0
  /-- The view's descriptor, by which the attribute engine works. -/
  desc : List DWord := []
  /-- The lane inputs have been written (R95), and its pixels counted off their tiles (R93). -/
  written : Bool := false
  released : Bool := false
  deriving DecidableEq, Repr

/-- A pool descriptor (R98); `nslots` is the field, slots minus one. -/
structure Pool where
  base : Nat
  nslots : Nat
  depth : Nat
  size : Nat
  freeQ : Nat
  missQ : Nat
  depthQ : Nat
  missMat : Option Nat
  dly : Nat
  deriving DecidableEq, Repr

/-- A ray in flight (R335): pool, slot and scene address, and the descriptor by which its TRACE sent it (log 69). -/
structure Ray where
  pool : Nat
  slot : Nat
  scene : DWord
  desc : Pool
  deriving DecidableEq, Repr

/-- Comparison made by a monitor (R363, R375). -/
inductive MonTest where
  | eq | ne | geU | geS | gtU | gtS
  deriving DecidableEq, Repr

/-- Whom a satisfied monitor serves: the parked PC slot of a group, or an event slot (R363, R375). -/
inductive MonTarget where
  | slot (b : Bool)
  | event (n : Nat)
  deriving DecidableEq, Repr

/-- A monitor at a home slice (R363, R364): `addr` is the key of its bytes in `State.mem`, `hit` the value that satisfied it. -/
structure Monitor where
  team : Nat
  gidx : Nat
  target : MonTarget
  addr : Nat
  wide : Bool
  test : MonTest
  value : DWord
  /-- Address of the MWAIT whose slot waits; 0 for an event slot. -/
  pc : DWord := 0
  hit : Option DWord := none
  deriving DecidableEq, Repr

/-- One element of a drain on its way to its home (R287), or one line of an ordered contribution (R288). -/
structure Drain where
  id : Nat
  /-- The number of the first element of its row (R302). -/
  row : Nat
  core : Nat
  team : Nat
  gidx : Nat
  tile : Nat
  op : DrainOp
  f32 : Bool
  /-- Key of the destination word or line in `State.mem`. -/
  addr : Nat
  /-- Word offsets from `addr` and the values, in ascending address. -/
  words : List (Nat × Word)
  /-- Rank and count of an ordered contribution. -/
  ord : Option (Nat × Nat) := none
  /-- It waits at its home for its rank, or for the sequence to close (R288). -/
  parked : Bool := false
  deriving DecidableEq, Repr

/-- The open sequence of a destination line (R288). -/
structure Sequence where
  addr : Nat
  next : Nat
  count : Nat
  deriving DecidableEq, Repr

/-- A Yilok port (R437, R439). -/
structure Port where
  state : Nat := 2
  replays : Nat := 0
  retrains : Nat := 0
  margin : Nat := 0
  /-- Replays that have failed in a row (R437). -/
  failures : Nat := 0
  deriving DecidableEq, Repr

/-- An access that the bridge has forwarded to a peer in its tray: the device, a write or a read, its address, its size, and the bytes of a
write (R48). -/
structure Forward where
  dev : Nat
  write : Bool
  addr : DWord
  data : Payload
  deriving DecidableEq, Repr

/-- Boot states (R441). -/
inductive Boot where
  | verify | run | recovery
  deriving DecidableEq, Repr

/-- A quarter in an image (R422): its claims, configurations and lists, scratch bytes from offset 0, operand bytes by logical
offset, accumulator words by team tile, and the words of the partial slots when a loop of the team uses them. -/
structure QuarterImage where
  quarter : Quarter
  scratch : Sparse 8 := []
  opmem : Sparse 8 := []
  tiles : Sparse 32 := []
  partials : Option (Sparse 32) := none
  deriving DecidableEq, Repr

/-- A saved team (R422 to R424), with requests and loops by quarter. `bytes` is what the device wrote to the image slot, by which a
change of its contents is noticed. -/
structure Image where
  team : Nat
  slot : Nat
  parts : List QuarterImage
  groups : List Group
  regions : List Region := []
  /-- Route tags, a completion due being counted from the save. -/
  tags : List Tag := []
  requests : List (Nat × Request) := []
  loops : List (Nat × Loop) := []
  /-- E of R416, and whether the team had started. -/
  elapsed : Nat := 0
  ran : Bool := true
  bytes : Memory := []
  /-- Replies that arrived after the save, oldest first, with the groups for which they came (R421). -/
  replies : List (Nat × Pending) := []
  /-- Its data were read with an uncorrectable error (R216). -/
  bad : Bool := false
  deriving DecidableEq, Repr

/-- The device-scope CSRs (R214, R215, R401, R415, R432, R226) and the flags of R216. -/
structure Csrs where
  preemptctl : Word := 0x00140001
  spillbase : DWord := 0
  sramset : Word := 0
  eoldays : Word := 0x00FFFFFF
  qtbase : DWord := 0
  cstable : DWord := 0
  csperiod : Word := 1000
  csepoch : DWord := 0
  csctl : Word := 0
  csmiss : DWord := 0
  binbuf : Word := 16
  visways : Word := 0
  /-- The value VISWAYS takes when no view is active (R77). -/
  viswaysNew : Word := 0
  viewdrop : DWord := 0
  matdir : DWord := 0
  pooltab : DWord := 0
  hotthr : Word := 0x05F0
  hothyst : Word := 0x0050
  frbase : DWord := 0
  fltdrop : DWord := 0
  savebase : DWord := 0
  savecnt : Word := 0
  presaves : DWord := 0
  preretakes : DWord := 0
  predrains : DWord := 0
  pwrlim : Word := 2400
  devnum : DWord := 0
  ctxtab : DWord := 0
  qtbaseSet : Bool := false
  spillbaseSet : Bool := false
  ctxtabSet : Bool := false
  deriving DecidableEq, Repr

/-- One choice of what happens next (log 7): the words of a core, an event of the table, the passing of time, and the discards
that R123, R224 and R227 leave to the device. -/
inductive Move where
  /-- A core's next turn in the present front cycle: one quadrant that has not had its own issues a word, or finds it held. -/
  | turn (core : Nat)
  /-- The front cycle of a string ends. -/
  | cycle (string : Nat)
  /-- The block of a slot's next word is fetched. -/
  | fetch (key : Nat) (slotB : Bool)
  | event (i : Instr)
  | advance (ns : Nat)
  | dropBlock (team base : Nat)
  /-- One word of a block held for a team is fetched again (R123). -/
  | fetchWord (team base n : Nat)
  /-- The store or atomic that a slot issues next performs later, unit by unit (R346, R353). -/
  | delay (key : Nat) (slotB : Bool)
  /-- The n-th unit that a group's stores and atomics still have to perform performs (R346, R353). -/
  | late (key n : Nat)
  /-- A unit of the n-th outstanding load of a group performs now, its value not having been fixed (R348, R353). -/
  | reload (key n unit : Nat)
  /-- A word of a published card or of its records is taken (R22, R61). -/
  | readAhead (queue card va : Nat)
  | dropTlb (core n : Nat)
  | dropTlb2 (n : Nat)
  | dropLine (core n : Nat)
  | dropL2 (n : Nat)
  /-- A line leaves the snoop filter (R230). -/
  | evictLine (line : Nat)
  /-- Firmware raises the fused minimum SVN (R441). -/
  | raiseSvn (v : Word)
  deriving DecidableEq, Repr

/-- The whole machine. -/
structure State where
  /-- Device DRAM by physical address; a peer's DRAM at `Config.deviceStride` x (device + 1) + PA (log 1). -/
  mem : Memory
  /-- Peer devices to which the pod's routing holds a path (R225). -/
  routes : List Nat
  groups : Tab Group
  teams : Tab Team
  cores : Tab Core
  strands : Tab Strand
  /-- Front cycles since device reset of every core that `cores` does not list (R150; log 79). -/
  idleCycles : Nat
  /-- The phase of every string that `strands` does not list. -/
  idlePhase : Int
  time : DWord
  /-- The model's own: nanoseconds of the reference oscillator since device reset, which no write of TIMEOFS moves (log 79). -/
  uptime : Nat
  /-- Fraction of a nanosecond, in units of 2^-32 (R49). -/
  timeFrac : Nat
  timerate : Word
  csr : Csrs
  /-- PERFCEIL by context; 15 where not listed (R430). -/
  perfceil : Tab Nat
  tlb2 : List TlbEntry
  /-- Lines whose data the L2 slices hold, latest used first (R2, R230). -/
  l2 : List Nat
  /-- Queues held in the hardware queue slots (R54). -/
  resident : List Nat
  /-- Cards retired out of order: queue and card index (R52). -/
  retired : List (Nat × Nat)
  /-- Highest PROGRESS value returned for a queue (R60). -/
  progressRead : Tab Nat
  grids : List Grid
  ahead : List Ahead
  /-- Dealt teams not yet placed, in dealing order (R19), and teams waiting to be placed again (R419, R424). -/
  pending : List Nat
  /-- What drained teams have released for urgent teams that still wait (R418). -/
  kept : List Keep
  rrSwitch : Nat
  rrDeal : Nat
  nextTeam : Nat
  sheet : Option Sheet
  sheetChange : SheetChange
  /-- Cards of a queue's deferred release (R64). -/
  deferred : Tab Nat
  /-- Cards released by an urgent firing and not yet read: queue and card index (R64). -/
  urgentCards : List (Nat × Nat)
  views : List View
  nextView : Nat
  bins : List MatBin
  launches : Tab Launch
  nextLaunch : Nat
  /-- Next launch number per source (R88). -/
  poolSeq : Tab Nat
  rays : List Ray
  monitors : List Monitor
  drains : List Drain
  sequences : List Sequence
  /-- Number of the next drain. -/
  nextDrain : Nat
  images : List Image
  capLvl : Nat
  /-- Uptime of the latest change of CAPLVL (R432). -/
  capAt : Nat
  /-- Uptime of the latest step of the SRAM rail, and TIME of the latest computation of EOLDAYS (R435, R436). -/
  trimAt : Nat
  eolAt : Nat
  /-- Uptime until which the SRAM rail is held at step 0 (R435). -/
  sramHold : Option Nat
  ports : List Port
  linkLost : DWord
  boot : Boot
  /-- Security version and measurement of the running image, and the fused minimum raised by firmware (R440, R441). -/
  svn : Word
  measurement : List Byte
  minSvn : Word
  /-- Length written to FWLOAD: the image to verify lies at physical address 0; none: module flash (R441). -/
  fwload : Option Nat
  /-- Attestation request: buffer address (R442). -/
  attreq : Option DWord
  /-- Value returned by the last read that arrived over the links (log 6). -/
  hostReply : DWord
  /-- Hardware timestamps delivered to the host, latest first: transmit flag and TIME (R49). -/
  timestamps : List (Bool × DWord)
  /-- Accesses forwarded to peers in the tray, latest first (R48). -/
  forwarded : List Forward
  /-- The model's own: the moves still to be taken (log 7). -/
  agenda : List Move
  /-- The model's own: whose turn it is when the agenda is empty: 0 words, 1 engines, 2 time (log 7). -/
  turn : Nat
  /-- The model's own: group and PC slot whose word `exec` performs (log 7). -/
  issuer : Nat
  slotB : Bool
  /-- The model's own: counter of free values and of stamps (log 8). -/
  fresh : Nat
  /-- The model's own: while ECC_UNCORRECTABLE performs a word, the physical address of the data that come back bad (R393; log 43). -/
  badData : Option Nat
  deriving DecidableEq, Repr

/-- Why the machine stops with a fault. -/
inductive Fault where
  /-- Raised by `exec` of a program word in a state whose `issuer` and `slotB` name no live part: there is no lane to execute
  it. Safe: the device issues a word only from a live PC slot (R144), so no run meets it. -/
  | noIssuer
  deriving DecidableEq, Repr

/-- Why an instruction has no meaning. -/
inductive Refusal where
  /-- Raised by an arm of `exec` whose instruction has no meaning yet. Safe. -/
  | notModelled (mnemonic : String)
  deriving DecidableEq, Repr

/-- The machine right after device reset (R215, R430, R441, R112). -/
def State.reset : State where
  mem := []
  routes := []
  groups := []
  teams := []
  cores := []
  strands := []
  idleCycles := 0
  idlePhase := 0
  time := 0
  uptime := 0
  timeFrac := 0
  timerate := 0
  csr := {}
  perfceil := []
  tlb2 := []
  l2 := []
  resident := []
  retired := []
  progressRead := []
  grids := []
  ahead := []
  pending := []
  kept := []
  rrSwitch := 0
  rrDeal := 0
  nextTeam := 1
  sheet := none
  sheetChange := .keep
  deferred := []
  urgentCards := []
  views := []
  nextView := 0
  bins := []
  launches := []
  nextLaunch := 0
  poolSeq := []
  rays := []
  monitors := []
  drains := []
  sequences := []
  nextDrain := 0
  images := []
  capLvl := 15
  capAt := 0
  trimAt := 0
  eolAt := 0
  sramHold := none
  ports := List.replicate 18 {}
  linkLost := 0
  boot := .verify
  svn := 0
  measurement := []
  minSvn := 0
  fwload := none
  attreq := none
  hostReply := 0
  timestamps := []
  forwarded := []
  agenda := []
  turn := 0
  issuer := 0
  slotB := false
  fresh := 0
  badData := none

end Sys2Proof.Machine
end

