-- ==== Sys2Proof/Machine/Store.lean ====
section
/-! DEFINITION. Tables, sparse words and memory: the one way each is read and written, and the accessors of a state's groups,
teams, cores and strings. -/

namespace Sys2Proof.Machine

/-! ## Tables -/

/-- The record at a key. -/
def tabGet? {α : Type} : Tab α → Nat → Option α
  | [], _ => none
  | (k, a) :: t, j => if k = j then some a else tabGet? t j

/-- The record at a key, or the default. -/
def tabGet {α : Type} (t : Tab α) (j : Nat) (dflt : α) : α := (tabGet? t j).getD dflt

/-- The table with the record at a key replaced or added, keys ascending. -/
def tabSet {α : Type} : Tab α → Nat → α → Tab α
  | [], j, a => [(j, a)]
  | (k, b) :: t, j, a => if k = j then (j, a) :: t else if j < k then (j, a) :: (k, b) :: t else (k, b) :: tabSet t j a

/-- The table without a key. -/
def tabErase {α : Type} (t : Tab α) (j : Nat) : Tab α := t.filter fun c => c.1 != j

/-! ## Sparse words and memory (log 1) -/

/-- What the cell at an index holds; an unlisted index reads as zero. -/
def cellGet {w : Nat} : Sparse w → Nat → BitVec w
  | [], _ => 0
  | (k, b) :: t, a => if k = a then b else cellGet t a

/-- A listed cell put in its place. -/
def cellInsert {w : Nat} : Sparse w → Nat → BitVec w → Sparse w
  | [], a, b => [(a, b)]
  | (k, c) :: t, a, b =>
      if k = a then (a, b) :: t else if a < k then (a, b) :: (k, c) :: t else (k, c) :: cellInsert t a b

/-- The cell at an index set; writing zero removes the entry, which keeps the canonical form. -/
def cellSet {w : Nat} (m : Sparse w) (a : Nat) (b : BitVec w) : Sparse w :=
  if b = 0 then m.filter fun c => c.1 != a else cellInsert m a b

/-- The canonical form: indices strictly rising and no zero entry. -/
def cellWf {w : Nat} : Sparse w → Bool
  | [] => true
  | [(_, b)] => b != 0
  | (k, b) :: (j, c) :: t => b != 0 && k < j && cellWf ((j, c) :: t)

/-- The canonical form of a memory. -/
def Memory.wf (m : Memory) : Bool := cellWf (w := 8) m

/-- The `n` cells from `a` on. -/
def cellsGet {w : Nat} (m : Sparse w) (a n : Nat) : List (BitVec w) := (List.range n).map fun i => cellGet m (a + i)

/-- Consecutive cells set from `a` on. -/
def cellsSet {w : Nat} (m : Sparse w) (a : Nat) : List (BitVec w) → Sparse w
  | [] => m
  | b :: bs => cellsSet (cellSet m a b) (a + 1) bs

/-- Cells from `a` up to but not including `z` set to zero. -/
def cellsClear {w : Nat} (m : Sparse w) (a z : Nat) : Sparse w := m.filter fun c => !(a ≤ c.1 && c.1 < z)

/-- The little-endian number of `n` bytes at `a` (R119, R236). -/
def readNat (m : Memory) (a n : Nat) : Nat := fromBytes (cellsGet (w := 8) m a n)

/-- `n` bytes at `a` written little-endian. -/
def writeNat (m : Memory) (a n x : Nat) : Memory := cellsSet (w := 8) m a (toBytes n x)

/-- The doubleword at `a`. -/
def read64 (m : Memory) (a : Nat) : DWord := BitVec.ofNat 64 (readNat m a 8)

/-! ## Accessors of a state -/

/-- Key of the group position `p` of a core (R9). -/
def posKey (core p : Nat) : Nat := core * Config.positions + p

/-- The core of a group key. -/
def keyCore (key : Nat) : Nat := key / Config.positions
/-- Position of a group key on its core. -/
def keyPos (key : Nat) : Nat := key % Config.positions

namespace State

def group? (s : State) (key : Nat) : Option Group := tabGet? s.groups key
def setGroup (s : State) (key : Nat) (g : Group) : State := { s with groups := tabSet s.groups key g }
def modGroup (s : State) (key : Nat) (f : Group → Group) : State :=
  match s.group? key with
  | some g => s.setGroup key (f g)
  | none => s
def dropGroup (s : State) (key : Nat) : State := { s with groups := tabErase s.groups key }

def team? (s : State) (t : Nat) : Option Team := tabGet? s.teams t
def setTeam (s : State) (t : Nat) (x : Team) : State := { s with teams := tabSet s.teams t x }
def modTeam (s : State) (t : Nat) (f : Team → Team) : State :=
  match s.team? t with
  | some x => s.setTeam t (f x)
  | none => s

/-- A core; one that nothing has touched has counted its front cycles at ratio 1 since device reset (R150, R430). -/
def core (s : State) (c : Nat) : Core := tabGet s.cores c { cycle := s.idleCycles, lcycle := s.idleCycles }
def setCore (s : State) (c : Nat) (x : Core) : State := { s with cores := tabSet s.cores c x }
def modCore (s : State) (c : Nat) (f : Core → Core) : State := s.setCore c (f (s.core c))

def strand (s : State) (n : Nat) : Strand := tabGet s.strands n { phase := s.idlePhase }
def setStrand (s : State) (n : Nat) (x : Strand) : State := { s with strands := tabSet s.strands n x }
def modStrand (s : State) (n : Nat) (f : Strand → Strand) : State := s.setStrand n (f (s.strand n))

/-- PERFCEIL of a context (R430). -/
def perfCeil (s : State) (ctx : Nat) : Nat := tabGet s.perfceil ctx 15

end State

/-- The quarter of a team on a core (R11). -/
def Team.quarterOn (t : Team) (core : Nat) : Option Quarter := t.quarters.find? fun q => q.core == core

/-- A team with its quarter on a core changed. -/
def Team.modQuarter (t : Team) (core : Nat) (f : Quarter → Quarter) : Team :=
  { t with quarters := t.quarters.map fun q => if q.core = core then f q else q }

/-- A state with the quarter of a team on a core changed. -/
def State.modQuarter (s : State) (team core : Nat) (f : Quarter → Quarter) : State :=
  s.modTeam team fun t => t.modQuarter core f

/-- The PC slot B or A of a group (R152). -/
def Group.slot (g : Group) (b : Bool) : Option Part := if b then g.slotB else g.slotA

/-- A group with the PC slot B or A set. -/
def Group.setSlot (g : Group) (b : Bool) (p : Option Part) : Group :=
  if b then { g with slotB := p } else { g with slotA := p }

/-! ## Fields of a job card (R13) -/

/-- Doubleword `i` of a record. -/
def dwordAt (l : List DWord) (i : Nat) : DWord := l.getD i 0

def cardEntry (c : List DWord) : Nat := (dwordAt c 0).toNat
def cardArgBase (c : List DWord) : Nat := (dwordAt c 1).toNat
def cardArgCount (c : List DWord) : Nat := bits (dwordAt c 2) 63 32
def cardArgSize (c : List DWord) : Nat := bits (dwordAt c 2) 20 16
def cardComplete (c : List DWord) : Nat := (dwordAt c 3).toNat
def cardIdem (c : List DWord) : Bool := bit (dwordAt c 4) 63
def cardStrTeam (c : List DWord) : Bool := bit (dwordAt c 4) 62
def cardRoles (c : List DWord) : Nat := bits (dwordAt c 4) 61 60 + 1
def cardTags (c : List DWord) : Nat := bits (dwordAt c 4) 51 48
def cardAcct (c : List DWord) : Nat := bits (dwordAt c 4) 44 40
def cardOpSlots (c : List DWord) : Nat := bits (dwordAt c 4) 38 32
def cardEvents (c : List DWord) : Nat := bits (dwordAt c 4) 31 27
def cardScratch (c : List DWord) : Nat := bits (dwordAt c 4) 25 16
def cardIHint (c : List DWord) : Nat := bits (dwordAt c 5) 63 32
def cardEofs (c : List DWord) (k : Nat) : Nat := bits (dwordAt c (6 + k)) 63 40
def cardGroups (c : List DWord) (k : Nat) : Nat := bits (dwordAt c (6 + k)) 39 32
def cardVregs (c : List DWord) (k : Nat) : Nat := bits (dwordAt c (6 + k)) 31 24

/-- Groups of a team over all its roles (R10). -/
def cardGroupSum (c : List DWord) : Nat := ((List.range (cardRoles c)).map (cardGroups c)).sum

/-- A team's scratch allocation in KiB (R16); `argBytes` is ARGSIZE x 16. -/
def allocKib (c : List DWord) (argBytes : Nat) : Nat := ceilDiv (max (cardScratch c * 1024) argBytes) 1024

/-- Vector-register budget of a group's role (R13). -/
def Team.vregs (t : Team) (role : Nat) : Nat := cardVregs t.card role

/-- Scratch allocation of a team on a core in bytes (R112). -/
def Team.allocBytes (t : Team) (core : Nat) : Nat :=
  match t.quarterOn core with
  | some q => q.kib * 1024
  | none => 0

end Sys2Proof.Machine
end

