-- ==== Sys2Proof/WellFormed.lean ====
section
/-! DEFINITION. Which terms of `Instr` are instructions of the device: the legality of operand codes, types and modifiers
under R127 to R139 and the instruction entries. The decoder accepts a word only when the term it reads is well formed and
encodes to that word again (every `zero` field is zero, R5). -/

namespace Sys2Proof

/-- A legal guard (R128): GN with pT is reserved. -/
def Guard.wf (g : Guard) : Bool := g.p < 8 && !(g.neg && g.p == 0)

/-- The guard pT (R199). -/
def Guard.always : Guard := ⟨false, 0⟩

namespace Operand

/-- The code 0x00, which fills an operand field that is `zero` (R129). -/
def zeroField : Operand := .v 0

/-- The special `zero`, code 0xE0 (R130). -/
def zeroSpecial : Operand := .special .zero

/-- A vector register (R129). -/
def isV : Operand → Bool
  | .v n => n < 192
  | _ => false

/-- A uniform register (R129). -/
def isS : Operand → Bool
  | .s n => n < 32
  | _ => false

/-- A register of either file, as every written destination must be (R129). -/
def isReg (o : Operand) : Bool := o.isV || o.isS

/-- An even register, as a 64-bit operand must be (R129). -/
def isEvenReg : Operand → Bool
  | .v n => n < 192 && n % 2 == 0
  | .s n => n < 32 && n % 2 == 0
  | _ => false

/-- An even vector register. -/
def isEvenV : Operand → Bool
  | .v n => n < 192 && n % 2 == 0
  | _ => false

/-- An even uniform register. -/
def isEvenS : Operand → Bool
  | .s n => n < 32 && n % 2 == 0
  | _ => false

/-- A register whose number is a multiple of four (R235, R360, R386). -/
def isQuadReg : Operand → Bool
  | .v n => n < 192 && n % 4 == 0
  | .s n => n < 32 && n % 4 == 0
  | _ => false

/-- A read-only special. -/
def isSpecial : Operand → Bool
  | .special _ => true
  | _ => false

/-- A special that is the same in every lane (R130). -/
def isUniformSpecial : Operand → Bool
  | .special .lane => false
  | .special .lorigin => false
  | .special _ => true
  | _ => false

/-- An inline constant (R133). -/
def isInline : Operand → Bool
  | .inline k => k < 16
  | _ => false

/-- The immediate of R134. -/
def isImm : Operand → Bool
  | .imm _ => true
  | _ => false

/-- A 32-bit source other than IMM. -/
def src (o : Operand) : Bool := o.isReg || o.isSpecial || o.isInline

/-- A 32-bit source in BSRC of an instruction that allows an immediate. -/
def srcI (o : Operand) : Bool := o.src || o.isImm

/-- A 64-bit source other than IMM: an even register, a special or an inline constant (R129, R133). -/
def src64 (o : Operand) : Bool := o.isEvenReg || o.isSpecial || o.isInline

/-- An operand every lane of which is the same and that is no vector register (R290). -/
def uni (o : Operand) : Bool := o.isS || o.isSpecial || o.isInline

/-- As `uni`, with IMM. -/
def uniI (o : Operand) : Bool := o.uni || o.isImm

/-- A pool operand (R327). -/
def pool (o : Operand) : Bool := o.isS || o.isUniformSpecial || o.isInline

end Operand

namespace IntType

/-- 64-bit types (R163). -/
def is64 : IntType → Bool
  | .s64 | .n64 => true
  | _ => false

/-- Signed types (R163). -/
def signed : IntType → Bool
  | .s32 | .s64 => true
  | _ => false

/-- Width in bits (R163). -/
def width (t : IntType) : Nat := if t.is64 then 64 else 32

/-- A legal destination under the type. -/
def dst (t : IntType) (o : Operand) : Bool := if t.is64 then o.isEvenReg else o.isReg

/-- A legal source under the type, IMM excluded. -/
def src (t : IntType) (o : Operand) : Bool := if t.is64 then o.src64 else o.src

/-- A legal BSRC under the type, IMM included. -/
def srcI (t : IntType) (o : Operand) : Bool := t.src o || o.isImm

end IntType

namespace MemArg

/-- A legal memory operand: even base register or `zero`, vector index or `zero` (R131, R218). -/
def wf (m : MemArg) : Bool :=
  (m.base.isEvenReg || m.base == Operand.zeroSpecial) && (m.index.isV || m.index == Operand.zeroSpecial) && m.scale ≤ 4

end MemArg

namespace NumType

/-- The packed types, which are neither source nor destination of CVT (R183). -/
def isPacked : NumType → Bool
  | .f16x2 | .bf16x2 => true
  | _ => false

/-- 64-bit types. -/
def is64 : NumType → Bool
  | .s64 | .n64 => true
  | _ => false

/-- Destinations for which `.sat` is legal (R184). -/
def satOk : NumType → Bool
  | .f32 | .f16 | .bf16 | .e5m2 | .bs20 => true
  | _ => false

/-- Element width in bits of a PACK or UNPACK type; 0 when the type is not legal there (R185). -/
def packWidth : NumType → Nat
  | .f16x2 | .bf16x2 => 16
  | .e4m3 | .e5m2 | .i8 | .n8 => 8
  | .e2m1 => 4
  | .t2 => 2
  | _ => 0

/-- PACK types whose elements take `.sat` (R184, R185). -/
def packSatOk : NumType → Bool
  | .f16x2 | .bf16x2 | .e5m2 => true
  | _ => false

end NumType

/-- LD and ST register alignment (R235). -/
def MemSize.reg (sz : MemSize) (o : Operand) : Bool :=
  match sz with
  | .w64 => o.isEvenReg
  | .x4 => o.isQuadReg
  | _ => o.isReg

/-- DST of ATOM (R360). -/
def AtomOp.dst (op : AtomOp) (o : Operand) : Bool :=
  match op with
  | .add64 | .exch64 | .cas32 => o.isEvenReg
  | .cas64 => o.isQuadReg
  | _ => o.isReg

/-- DST of RED (R360): an operation without `.exch` and `.cas`, and a data register, `zero` or an inline constant. -/
def AtomOp.redDst (op : AtomOp) (o : Operand) : Bool :=
  match op with
  | .exch32 | .exch64 | .cas32 | .cas64 => false
  | .add64 => o.isEvenReg || o == Operand.zeroSpecial || o.isInline
  | _ => o.isReg || o == Operand.zeroSpecial || o.isInline

/-- The (A, B) type pairs of a matrix step, and whether `.sc` is allowed (R279). -/
def mloopTypes (ta tb : NumType) (sc : Bool) : Bool :=
  match ta, tb with
  | .bf16, .bf16 | .f16, .f16 | .i8, .i8 | .i8, .t2 => !sc
  | .e4m3, .e4m3 | .e4m3, .e5m2 | .e5m2, .e4m3 | .e5m2, .e5m2 | .e2m1, .e2m1 => true
  | _, _ => false

namespace HalfReg

/-- A register of a half (R137). -/
def wf : HalfReg → Bool
  | .v n => n < 96
  | .s n => n < 32

/-- The bank of a vector register (R139). -/
def bank : HalfReg → Option Nat
  | .v n => some (n % 4)
  | .s _ => none

end HalfReg

namespace Half

/-- The immediate field's legal values (R138). -/
def immOk (h : Half) : Bool :=
  match h.hop with
  | .movi8 | .iaddi | .andi => true
  | .shli | .shri | .sari => h.imm.toNat < 32
  | .fadd | .fmul => h.imm.toNat < 4
  | .hadd2 | .hmul2 => h.imm.toNat < 8
  | _ => h.imm == 0

/-- A legal half, taken alone (R136 to R138). -/
def wf (h : Half) : Bool :=
  h.dst.wf && h.src.wf && h.immOk && (h.hop != .movi8 || h.src == .v 0)

/-- The registers a half reads (R138). -/
def reads (h : Half) : List HalfReg :=
  match h.hop with
  | .movi8 => []
  | .mov | .iaddi | .andi | .shli | .shri | .sari => [h.src]
  | _ => [h.dst, h.src]

/-- Half-ops that only the main pipe executes (R138). -/
def mainOnly (h : Half) : Bool :=
  match h.hop with
  | .fadd | .fmul | .fmin | .fmax | .hadd2 | .hmul2 => true
  | _ => false

end Half

/-- The pairing rules of R139. -/
def pairLegal (h0 h1 : Half) : Bool :=
  let banks := (h0.reads ++ h1.reads).filterMap HalfReg.bank
  !h1.mainOnly && h0.dst != h1.dst &&
  (match h0.dst.bank, h1.dst.bank with
    | some x, some y => x != y
    | _, _ => true) &&
  [0, 1, 2, 3].all (fun k => banks.count k ≤ 2)

/-- The logic types `.n32 .n64` (R171). -/
def IntType.logic (t : IntType) : Bool := !t.signed

/-- The register or source of PMOV (R192). -/
def PmovDir.operandOk (dir : PmovDir) (n : Nat) (x : Operand) : Bool :=
  match dir with
  | .tomask => x.isReg
  | .tobool => x.isReg
  | .frommask => 1 ≤ n && x.src
  | .frombool => 1 ≤ n && x.src

/-- First and last of a range of vector registers (R195, R241). -/
def Operand.vRange (vF vL : Operand) : Bool :=
  match vF, vL with
  | .v f, .v l => f ≤ l && l < 192
  | _, _ => false

/-- DST of LDB: 2^sz uniform registers from a multiple of 2^sz (R235). -/
def Operand.ldbDst (sz : Nat) (d : Operand) : Bool :=
  match d with
  | .s n => n % (2 ^ sz) == 0 && n + 2 ^ sz ≤ 32
  | _ => false

/-- Operand a of EVARM (R378). -/
def EvKind.objectOk (k : EvKind) (a : Operand) : Bool :=
  if k == .cnt || k == .mon || k == .time then a.isEvenReg else a.src

/-- Operand b of EVARM (R378). -/
def EvKind.targetOk (k : EvKind) (t : IntType) (b : Operand) : Bool :=
  if k == .bar then b.src
  else if k == .cnt then b.isEvenReg
  else if k == .mon then if t.is64 then b.isEvenReg else b.src
  else b == Operand.zeroField

/-- The coordinate registers of a texture word: six unless the mode is `.quad` (R327). -/
def DMode.coordOk (m : DMode) (a : Operand) : Bool :=
  match a with
  | .v n => n < 192 && (m == .quad || n + 5 ≤ 191)
  | _ => false

/-- The assigned opcodes of R140; every other one is unassigned (R141). -/
def opAssigned (op : Nat) : Bool :=
  op < 0x0D || (0x10 ≤ op && op < 0x49) || (0x50 ≤ op && op < 0x59) || (0x60 ≤ op && op < 0x6A) ||
  (0x70 ≤ op && op < 0x76) || (0x80 ≤ op && op < 0x85) || (0x90 ≤ op && op < 0x9A) || (0xA0 ≤ op && op < 0xA4) ||
  (0xB0 ≤ op && op < 0xBA) || (0xC0 ≤ op && op < 0xC7)

/-- Well-formed instructions. Events have no encoding and are always well formed. -/
def Instr.wf : Instr → Bool
  | .nop g => g.wf
  | .bra g _ => g.wf
  | .brx g a => g.wf && a.isEvenReg
  | .call g d _ => g.wf && d.isEvenReg
  | .callx g d a => g.wf && d.isEvenReg && a.isEvenReg
  | .ret g a => g.wf && a.isEvenReg
  | .join | .tret | .yield => true
  | .exit g => g.wf
  | .trap _ | .brk _ => true
  | .sleep g b => g.wf && b.srcI
  | .iadd g t _ d a b | .isub g t _ d a b => g.wf && t.dst d && t.src a && t.srcI b
  | .imul g t d a b | .imulh g t d a b | .imin g t d a b | .imax g t d a b => g.wf && t.dst d && t.src a && t.srcI b
  | .imad g t d a b c => g.wf && t.dst d && t.src a && t.src b && t.src c
  | .imadw g t d a b c => g.wf && !t.is64 && d.isEvenReg && a.src && b.src && c.src64
  | .iabs g t _ d a | .ineg g t _ d a => g.wf && t.signed && t.dst d && t.src a
  | .iaddc g _ n d a b => g.wf && 1 ≤ n && n < 8 && d.isReg && a.src && b.src
  | .idot4 g _ _ _ d a b c => g.wf && d.isReg && a.src && b.src && c.src
  | .and g t d a b | .or g t d a b | .xor g t d a b | .andn g t d a b =>
      g.wf && t.logic && t.dst d && t.src a && t.srcI b
  | .shl g t d a b | .shr g t d a b => g.wf && t.logic && t.dst d && t.src a && b.srcI
  | .sar g t d a b => g.wf && t.signed && t.dst d && t.src a && b.srcI
  | .rot g t _ d a b => g.wf && t.logic && t.dst d && t.src a && b.srcI
  | .bfx g t d a b => g.wf && !t.is64 && d.isReg && a.src && b.srcI
  | .bfi g d a b c => g.wf && d.isReg && a.src && b.src && c.src
  | .popc g t d a | .clz g t d a | .ctz g t d a => g.wf && t.logic && d.isReg && t.src a
  | .brev g t d a => g.wf && t.logic && t.dst d && t.src a
  | .perm g d a b c => g.wf && d.isReg && a.src && b.src && c.src
  | .mov g t d b => g.wf && t.dst d && t.srcI b
  | .movh g d _ => g.wf && d.isReg
  | .sel g t neg n d a b =>
      g.wf && t.logic && n < 8 && t.dst d && t.src a && t.srcI b && (!b.isImm || (!neg && n == 0))
  | .icmp g t c _ n a b => g.wf && c != .un && c != .ord && 1 ≤ n && n < 8 && t.src a && t.src b
  | .lea g _ d m => g.wf && d.isEvenReg && m.wf
  | .fadd g _ d a b | .fmul g _ d a b => g.wf && d.isReg && a.src && b.srcI
  | .ffma g _ d a b c => g.wf && d.isReg && a.src && b.src && c.src
  | .fmin g d a b | .fmax g d a b => g.wf && d.isReg && a.src && b.srcI
  | .frnd g _ d a => g.wf && d.isReg && a.src
  | .fscale g _ d a b => g.wf && d.isReg && a.src && b.srcI
  | .frcp g _ d a | .frsq g _ d a | .fsqrt g _ d a | .fexp2 g _ d a | .flog2 g _ d a | .fsin g _ d a | .fcos g _ d a =>
      g.wf && d.isReg && a.src
  | .fcmp g _ _ n a b => g.wf && 1 ≤ n && n < 8 && a.src && b.src
  | .fclass g d a => g.wf && d.isReg && a.src
  | .hadd2 g _ _ d a b | .hmul2 g _ _ d a b => g.wf && d.isReg && a.src && b.srcI
  | .hfma2 g _ _ d a b c => g.wf && d.isReg && a.src && b.src && c.src
  | .hminmax2 g _ _ d a b => g.wf && d.isReg && a.src && b.srcI
  | .cvt g dt sty x sat _ d a =>
      g.wf && !dt.isPacked && !sty.isPacked && (!x || sty == .s32) && (!sat || dt.satOk) &&
      (if dt.is64 then d.isEvenReg else d.isReg) &&
      (if !x && sty.is64 then a.src64 else a.src) &&
      (!a.isInline || !(x || sty == .e4m3 || sty == .e5m2 || sty == .e2m1))
  | .pack g e k sat _ d a b c =>
      g.wf && e.packWidth != 0 && k < 8 && (2 * k + 1 < 32 / e.packWidth) && (!sat || e.packSatOk) &&
      d.isReg && a.src && b.src && c.src
  | .unpack g e k d a => g.wf && e.packWidth != 0 && k < 32 / e.packWidth && d.isReg && a.src
  | .vtest g c _ step n d a b =>
      g.wf && 1 ≤ n && n < 8 && (if step then d.isReg else d == Operand.zeroField) && a.src &&
      (if c == .dec then b == Operand.zeroField else b.src)
  | .vsel g d a b c => g.wf && d.isReg && a.src && b.src && c.src
  | .pairWord h0 h1 => h0.wf && h1.wf && pairLegal h0 h1
  | .plop g pd pa pb _ => g.wf && 1 ≤ pd && pd < 8 && pa < 8 && pb < 8
  | .pmov g dir n x =>
      g.wf && n < 8 && PmovDir.operandOk dir n x
  | .vote g _ _ n d => g.wf && n < 8 && d.isReg
  | .shfl g _ w v seg d a b =>
      g.wf && v < 8 && seg ≤ 5 && (if w then d.isEvenReg && a.src64 else d.isReg && a.src) && b.srcI &&
      (!b.isImm || (v == 0 && seg == 0))
  | .scan g op t _ r d a | .redux g op t r d a =>
      g.wf && d.isReg && a.src && (r == .rne || (t == .f32 && op == .add)) &&
      (t != .f32 || op == .add || op == .min || op == .max)
  | .matchLanes g all w n d a =>
      g.wf && n < 8 && (all || n == 0) && d.isReg && (if w then a.src64 else a.src)
  | .lread g w d a b =>
      g.wf && (if w then d.isEvenReg && a.isEvenV else d.isReg && a.isV) &&
      (b.isS || b.isUniformSpecial || b.isInline || b.isImm)
  | .regroup _ d vF vL =>
      d.isReg && ((vF == Operand.zeroSpecial && vL == Operand.zeroSpecial) || Operand.vRange vF vL)
  | .ld g _ sz acq sc d m => g.wf && sz.reg d && (acq || sc == .dflt) && m.wf
  | .st g _ sz rel sc d m =>
      g.wf && sz != .i8 && (sz.reg d || d == Operand.zeroSpecial || d.isInline) && (rel || sc == .dflt) && m.wf
  | .ldb g sz acq sc d m =>
      g.wf && sz ≤ 5 && (acq || sc == .dflt) &&
      Operand.ldbDst sz d &&
      (m.base.isEvenS || m.base == Operand.zeroSpecial) && m.index == Operand.zeroSpecial && m.scale ≤ 4
  | .pref g _ m | .cacheWb g m | .cacheWbinv g m | .cacheZero g m => g.wf && m.wf
  | .fence _ sc => sc != .dflt
  | .cacheIinv g | .cacheL1wb g => g.wf
  | .atom g op _ _ d m => g.wf && op.dst d && m.wf
  | .red g op _ _ d m => g.wf && op.redDst d && m.wf
  | .mwait g _ w _ _ d m => g.wf && (if w then d.isEvenReg else d.isReg || d.isInline) && m.wf
  | .vdrop vF vL => Operand.vRange vF vL
  | .barArrive g d a b => g.wf && d.isReg && a.src && b.srcI
  | .barDrop g d a b | .barExpect g d a b | .barTest g d a b => g.wf && d.isReg && a.src && b.src
  | .barJoin g d a => g.wf && d.isReg && a.src
  | .barWait g a b | .barSync g a b => g.wf && a.src && b.src
  | .tbarSync g t => g.wf && t < 8
  | .tbarArrive g t d => g.wf && t < 8 && d.isReg
  | .tbarWait g t b => g.wf && t < 8 && b.srcI && (!b.isImm || t == 0)
  | .tbarTest g t d b => g.wf && t < 8 && d.isReg && b.srcI && (!b.isImm || t == 0)
  | .evarm g k slot c t a b h =>
      g.wf && slot < 16 && (k == .mon || (c == .eq && t == .s32)) &&
      EvKind.objectOk k a && EvKind.targetOk k t b &&
      (h.isReg || h.isUniformSpecial || h.isInline)
  | .evdis g d b => g.wf && d.isReg && b.srcI
  | .waitany b => b.isReg || b.isInline || b.isImm
  | .mbox g _ tag d a p => g.wf && tag != 255 && d.isReg && a.src && p.isQuadReg
  | .kick g a b => g.wf && a.src && b.srcI
  | .regionRing g h d a b => g.wf && h < 16 && d.isReg && a.src && b.srcI && (!b.isImm || h == 0)
  | .regionWindow g h d a b => g.wf && h < 16 && d.isReg && a.src && b.src
  | .regionAbsent g h d | .regionPresent g h d | .regionFree g h d => g.wf && h < 16 && d.isReg
  | .racqFill g h _ d | .racqFree g h _ d => g.wf && h < 16 && d.isReg
  | .rpub g h a | .rrel g h a => g.wf && h < 16 && a.src
  | .mclaim g d a b => g.wf && d.isReg && a.uni && b.uniI
  | .mrel g a b => g.wf && a.uni && b.uniI
  | .mstage g a b => g.wf && a.isV && b.uni
  | .mread g d a => g.wf && d.isV && a.uni
  | .mzero g b => g.wf && b.uniI
  | .mloop g ta tb sc _ a b c => g.wf && mloopTypes ta tb sc && a.uni && b.uni && c.uni
  | .msca g a b c => g.wf && a.uni && b.isEvenV && c.isEvenV
  | .mdrain g op ord sc _ a b c =>
      g.wf && (!ord || op == .add) && sc != .grp && sc != .team && a.isEvenReg && b.uni && c.uni
  | .msyncWait g d b => g.wf && d.isReg && b.uniI
  | .msyncStat g d => g.wf && d.isReg
  | .vcfg g p audit reset a b =>
      g.wf && (!reset || p == .topk) && (!audit || p != .none) && a.uni &&
      (if p == .none then b == Operand.zeroSpecial else b.uni)
  | .topk g a b c => g.wf && a.uni && b.uni && c.uni
  | .topkmMerge g a b | .topkmStore g a b => g.wf && a.uni && b.isEvenReg
  | .topkr g d a b => g.wf && d.isV && a.uni && b.uniI
  | .vthr g a b => g.wf && a.uni && b.uniI
  | .trace g sn d a b c =>
      g.wf && sn < 32 && d.isV && a.pool && (b.isReg || b.isInline) && (c.isS || c.isInline)
  | .psalloc g d a | .sqpop g _ d a => g.wf && d.isReg && a.pool
  | .psfree g d a b | .sqpush g _ d a b => g.wf && d.isReg && a.pool && (b.isReg || b.isInline)
  | .tex g m d a b c =>
      g.wf && d.isV && b.isEvenS && (c.isV || c == Operand.zeroSpecial) &&
      DMode.coordOk m a
  | .texg g m ch d a b c =>
      g.wf && ch < 4 && d.isV && b.isEvenS && (c.isV || c == Operand.zeroSpecial) &&
      DMode.coordOk m a
  | .texqLod g m d a b =>
      g.wf && d.isV && b.isEvenS &&
      DMode.coordOk m a
  | .texqDims g d a b => g.wf && d.isV && (a.isReg || a.isInline) && b.isEvenS
  | .attr g n a0 d a b => g.wf && 1 ≤ n && n ≤ 16 && a0 < 16 && d.isV && a.isV && b.isEvenS
  | .fback g d a b => g.wf && d.isReg && a.isEvenS && b.isReg
  | .csrr g w d _ => g.wf && (if w == .d then d.isEvenReg else d.isReg)
  | .csrw g w _ a => g.wf && (if w == .d then a.src64 else a.src)
  | .csrx g _ w d _ a =>
      g.wf && (if w == .d then d.isEvenReg && a.src64 else d.isReg && a.src)
  | .setperf g d a b => g.wf && d.isReg && a.src && b.srcI
  | .launch g d a b => g.wf && d.isReg && a.src && b.isEvenReg
  | .tlbi g m a => g.wf && (if m == .page then a.isEvenReg else a == Operand.zeroField)
  | .trapack g d a => g.wf && d.isReg && a.src
  | .unassignedOpcode w => w.toNat / 2 ^ 60 == 0 && !opAssigned (w.toNat / 2 ^ 52)
  | .regroupTimeout _ | .tagPhaseComplete _ _ | .eventDeadline _ _ | .sleepWake _ _ | .hostForward _ _ _ _
  | .timesyncTimestamp _ | .doorbell _ _ | .progressRead _ | .prioWrite _ _ | .ctrlEnable _ | .ctrlDisable _
  | .ctrlResume _ | .ctrlSkip _ | .ctrlClear _ | .viewDoorbell _ | .ctxtabWrite _ | .permitack _ | .preemptctx _
  | .attreq _ | .attestationReport | .fwload _ | .devnumWrite _ | .timeofsWrite _ | .timerateWrite _ | .csctlArm
  | .csctlDisarm | .carveWrite _ _ | .viswaysWrite _ | .pwrlimWrite _ | .perfceilWrite _ _ | .ctxidWrite _ _
  | .walkactResume _ _ | .walkactEnd _ _ | .registerWrite _ _ _ | .cardRead _ | .queueSwitch | .dealChunk
  | .teamPlace _ | .teamStart _ | .carveConversion _ | .registerRefill _ _ | .teamComplete _ | .callSheetFire _
  | .callSheetSwap | .viewActivate | .rasterStart _ | .drawEntryRead _ | .binFlush _ | .viewSeal _ | .tileScan _
  | .binTimeout _ | .attributeWrite _ | .viewDone _ | .traversalComplete _ | .walkStepRetire _ _
  | .ringAcquireRequest _ _ | .windowCopyEnd _ _ | .matrixStep _ | .drainElement _ | .orderedContribution _
  | .atomReply _ | .translationComplete _ | .runSelect _ _ | .throttleEnd _ | .stallBreak _ _
  | .candidateDue _ _ | .strimbUpdate _ | .laneRatioChange _ | .perfStep _ | .caplvlLower | .caplvlRaise
  | .hotspotMigration _ | .heatThrottle _ | .heatThrottleEnd _ | .droopStretch _ | .droopEnd _ | .sramTrim
  | .eccUncorrectable _ _ | .sramHoldEnd | .eolRecompute | .flitReplay _ | .portRetrain _ | .portDown _
  | .deviceReset | .firmwareVerify | .permitRetry _ _ | .asyncTrapTake _ | .preemptVictim _ | .drainTimeout _
  | .retake _ | .save _ | .restore _ | .linkAccess _ _ _ _ | .loadDataArrival _ | .fetchFault => true

/-- `Instr.wf` as a proposition. -/
abbrev Instr.WellFormed (i : Instr) : Prop := i.wf = true

end Sys2Proof
end

