-- ==== Sys2Proof/Machine/Operands.lean ====
section
/-! DEFINITION. Registers, operand codes and lanes: what a word reads and how it writes its destination (R109, R110, R128 to R134,
R190, R206). -/

namespace Sys2Proof.Machine

/-! ## Registers of a group -/

/-- Lane `l` of vector register `n`; an unbound register reads zero (R109). -/
def Group.v (g : Group) (n l : Nat) : Word :=
  match tabGet? g.vregs n with
  | some r => r.lanes.getD l 0
  | none => 0

/-- Register `n` is bound (R109). -/
def Group.bound (g : Group) (n : Nat) : Bool := (tabGet? g.vregs n).isSome

/-- Uniform register `n` (R12). -/
def Group.sreg (g : Group) (n : Nat) : Word := g.sregs.getD n 0

/-- The 32 bits of predicate `n`; 0 is pT (R128). -/
def Group.pred (g : Group) (n : Nat) : Word := if n = 0 then 0xFFFFFFFF else g.preds.getD (n - 1) 0

/-- A group with uniform register `n` set. -/
def Group.setS (g : Group) (n : Nat) (x : Word) : Group :=
  { g with sregs := (List.range 32).map fun k => if k = n then x else g.sreg k }

/-- A group with all 32 bits of predicate `n`, 1 to 7, set. -/
def Group.setPred (g : Group) (n : Nat) (x : Word) : Group :=
  if n = 0 then g else { g with preds := (List.range 7).map fun k => if k + 1 = n then x else g.pred (k + 1) }

/-- The bits of predicate `n` replaced in the lanes of `X` by `f` (R174, R191). -/
def Group.putPred (g : Group) (n : Nat) (X : Word) (f : Nat → Bool) : Group :=
  g.setPred n ((g.pred n &&& ~~~X) ||| (X &&& maskOf f))

/-- Vector register `n` written in the lanes of `X`, which binds it to physical storage; no lane, no binding (R109, R111). Its stamp is
set when the step ends. -/
def Group.setV (g : Group) (n : Nat) (X : Word) (f : Nat → Word) : Group :=
  if X = 0 then g
  else { g with vregs := tabSet g.vregs n { lanes := laneList.map fun l => if X.getLsbD l then f l else g.v n l } }

/-- Registers `lo` to `hi` unbound (R198, R241). -/
def Group.unbind (g : Group) (lo hi : Nat) : Group :=
  { g with vregs := g.vregs.filter fun c => !(lo ≤ c.1 && c.1 ≤ hi) }

/-- A 32-bit destination written in the lanes of `X`; a uniform register takes the value of the lowest-numbered executing lane
(R129). -/
def Group.put32 (g : Group) (d : Operand) (X : Word) (f : Nat → Word) : Group :=
  match d with
  | .v n => g.setV n X f
  | .s n =>
    match lowLane X with
    | some l => g.setS n (f l)
    | none => g
  | _ => g

/-- The operand `k` registers after `d` (R129). -/
def Operand.next (d : Operand) (k : Nat) : Operand :=
  match d with
  | .v n => .v (n + k)
  | .s n => .s (n + k)
  | o => o

/-- A half register as an operand (R137). -/
def HalfReg.operand : HalfReg → Operand
  | .v n => .v n
  | .s n => .s n

/-- A 64-bit destination: an even register takes the low word (R129, R266). -/
def Group.put64 (g : Group) (d : Operand) (X : Word) (f : Nat → DWord) : Group :=
  (g.put32 d X fun l => lo32 (f l)).put32 (Operand.next d 1) X fun l => hi32 (f l)

/-- Consecutive registers from `d`, the k-th taking the k-th function (R236, R293, R340). -/
def Group.putMany (g : Group) (d : Operand) (X : Word) (n : Nat) (f : Nat → Nat → Word) : Group :=
  (List.range n).foldl (fun g k => g.put32 (Operand.next d k) X (f k)) g

/-! ## The word being issued -/

/-- The group, PC slot and team for which a word is executed. -/
structure Issue where
  key : Nat
  b : Bool
  grp : Group
  part : Part
  team : Team
  deriving DecidableEq, Repr

namespace Issue

/-- The core on which the group resides. -/
def core (i : Issue) : Nat := keyCore i.key

/-- Address of the word. -/
def pc (i : Issue) : DWord := i.part.pc

/-- Scratch bytes of the group's team on its core (R112). -/
def alloc (i : Issue) : Nat := i.team.allocBytes i.core

/-- The lanes that execute under a guard: active in the issuing part, predicate bit XOR GN set; a word reissued after a fault
takes the recorded lanes that have not performed (R128, R233). -/
def lanes (i : Issue) (g : Guard) : Word :=
  match i.part.reissue with
  | some m => m
  | none => i.part.mask &&& (if g.neg then ~~~(i.grp.pred g.p) else i.grp.pred g.p)

/-- A special's value in lane `l` (R24, R130). -/
def special (i : Issue) (k : Special) (l : Nat) : Word :=
  match k with
  | .zero => 0
  | .lane => BitVec.ofNat 32 l
  | .group => BitVec.ofNat 32 i.grp.gidx
  | .team => BitVec.ofNat 32 i.team.id
  | .recidx => BitVec.ofNat 32 i.team.recidx
  | .role => BitVec.ofNat 32 i.grp.role
  | .rgroup => BitVec.ofNat 32 i.grp.rgroup
  | .lorigin => i.grp.lorigin.getD l 0
  | .nactive => BitVec.ofNat 32 (popCount i.part.mask)

end Issue

/-- The integer column of R133. -/
def inlineInt (k : Nat) : Word :=
  [0, 1, 2, 3, 4, 8, 16, 32, 64, 128, 255, 0xFFFFFFFF, 0xFFFFFFFE, 0xFFFFFFFC, 0x7FFFFFFF, 0x80000000].getD k 0

/-- The FP32 column of R133, as bits. -/
def inlineF32 (k : Nat) : Word :=
  [0x00000000, 0x3F800000, 0x40000000, 0x40400000, 0x40800000, 0x41000000, 0x41800000, 0x3F000000,
   0x3E800000, 0x3E000000, 0x80000000, 0xBF800000, 0xC0000000, 0xBF000000, 0x7F800000, 0xFF800000].getD k 0

/-- The FP32 column converted to binary16 (R133). -/
def inlineF16 (k : Nat) : BitVec 16 :=
  [0x0000, 0x3C00, 0x4000, 0x4200, 0x4400, 0x4800, 0x4C00, 0x3800,
   0x3400, 0x3000, 0x8000, 0xBC00, 0xC000, 0xB800, 0x7C00, 0xFC00].getD k 0

/-- A half value in each half of a word. -/
def bothHalves (h : BitVec 16) : Word := h ++ h

namespace Issue

/-- A 32-bit integer source in lane `l`; IMM16 is extended by the source type's sign (R129, R133, R134). -/
def src32 (i : Issue) (signed : Bool) (o : Operand) (l : Nat) : Word :=
  match o with
  | .v n => i.grp.v n l
  | .s n => i.grp.sreg n
  | .special k => i.special k l
  | .imm k => if signed then k.signExtend 32 else k.setWidth 32
  | .inline k => inlineInt k

/-- A `.n32` source. -/
def srcN (i : Issue) (o : Operand) (l : Nat) : Word := i.src32 false o l

/-- A 64-bit integer source in lane `l`: an even register pair; inline constants and `.s64` immediates sign-extended; a special
zero-extended (log 11). -/
def src64 (i : Issue) (signed : Bool) (o : Operand) (l : Nat) : DWord :=
  match o with
  | .v n => join64 (i.grp.v n l) (i.grp.v (n + 1) l)
  | .s n => join64 (i.grp.sreg n) (i.grp.sreg (n + 1))
  | .special k => (i.special k l).setWidth 64
  | .imm k => if signed then k.signExtend 64 else k.setWidth 64
  | .inline k => (inlineInt k).signExtend 64

/-- An FP32 source in lane `l` (R133, R134). -/
def srcF (i : Issue) (o : Operand) (l : Nat) : Word :=
  match o with
  | .v n => i.grp.v n l
  | .s n => i.grp.sreg n
  | .special k => i.special k l
  | .imm k => k.setWidth 32 <<< 16
  | .inline k => inlineF32 k

/-- A packed-half source in lane `l` (R133, R134). -/
def srcH (i : Issue) (bf : Bool) (o : Operand) (l : Nat) : Word :=
  match o with
  | .v n => i.grp.v n l
  | .s n => i.grp.sreg n
  | .special k => i.special k l
  | .imm k => bothHalves k
  | .inline k => bothHalves (if bf then (inlineF32 k).extractLsb' 16 16 else inlineF16 k)

/-- The vector registers among destinations. -/
def vdests (ds : List Operand) : List Nat :=
  ds.filterMap fun d => match d with | .v n => some n | _ => none

/-- The register-budget trap of R110, taken before any lane is written; not enforced in supervisor handler mode (R400). -/
def budget (i : Issue) (X : Word) (ds : List Operand) : Option Trap :=
  let fresh := (vdests ds).eraseDups.countP fun n => !i.grp.bound n
  let count := i.grp.vregs.length
  if X = 0 || i.grp.mode = .supervisor || fresh = 0 || count + fresh ≤ i.team.vregs i.grp.role then none
  else some { code := 0x0A, info := BitVec.ofNat 32 count, exmask := X, tepc := i.pc }

/-- A trap of this word that reports nothing more (R393). -/
def trap (i : Issue) (code : Nat) (X : Word) (info : Word := 0) (addr : DWord := 0) (tmask : Word := 0) : Trap :=
  { code, info, addr, tmask, exmask := X, tepc := i.pc }

/-- The value in the lowest-numbered executing lane, for what acts once for the group (R206, R209). -/
def uni (X : Word) (f : Nat → Word) : Word := f ((lowLane X).getD 0)

end Issue

/-- What a word does besides its effect on the state. -/
inductive Done where
  /-- The slot continues at the next word. -/
  | next (s : State)
  /-- The word has itself set the parts of its group. -/
  | moved (s : State)
  /-- The slot parks at the word, and issues it again or goes on as the wait says (R144). -/
  | park (w : Wait) (s : State)
  /-- The word traps: `s` holds what its performed lanes did (R233, R396). -/
  | trap (t : Trap) (s : State)

end Sys2Proof.Machine
end

