-- ==== Sys2Proof/Machine/Window.lean ====
section
/-! DEFINITION. Where an access lands once it is checked, and how bytes are read and written there: device DRAM, a peer's DRAM, and
the on-chip window of a core (R3, R112, R115, R116, R156, R254, R278, R315). -/

namespace Sys2Proof.Machine

/-- The place `n` bytes on. -/
def Loc.plus : Loc → Nat → Loc
  | .dram k, n => .dram (k + n)
  | .win c o, n => .win c (o + n)

/-! ## Divergence-stack entries (R156) -/

/-- An entry's 128 bits as a number. -/
def stackBits (p : Part) : Nat :=
  let (pc, parked) := match p.park with
    | some a => (a, 1)
    | none => (p.pc, 0)
  bits pc 48 3 * 2 ^ 82 + p.mask.toNat * 2 ^ 50 + p.depth % 32 * 2 ^ 45 + parked * 2 ^ 44

/-- The part an entry's 128 bits stand for. -/
def stackPart (n : Nat) : Part :=
  let a : DWord := BitVec.ofNat 64 (n / 2 ^ 82 % 2 ^ 46 * 8)
  { pc := a, mask := BitVec.ofNat 32 (n / 2 ^ 50), depth := n / 2 ^ 45 % 32,
    park := if n / 2 ^ 44 % 2 = 1 then some a else none }

/-- Byte `k` of a number. -/
def byteOf (x k : Nat) : Byte := BitVec.ofNat 8 (x / 256 ^ k)

/-- A number with byte `k` replaced. -/
def setByte (x k : Nat) (b : Byte) : Nat := x - x / 256 ^ k % 256 * 256 ^ k + b.toNat * 256 ^ k

/-- A word with byte `k` replaced. -/
def setWordByte (x : Word) (k : Nat) (b : Byte) : Word := BitVec.ofNat 32 (setByte x.toNat k b)

/-! ## The register window of a group position (R116) -/

/-- The predicate byte of a lane: p1 to p7 in bits [7:1], pT in bit 0. -/
def Group.predByte (g : Group) (l : Nat) : Byte :=
  BitVec.ofNat 8 (1 + ((List.range 7).map fun k => if (g.pred (k + 1)).getLsbD l then 2 ^ (k + 1) else 0).sum)

/-- Byte `o` of a group's register window. -/
def Group.winByte (g : Group) (o : Nat) : Byte :=
  if o < 0x6000 then byteOf (g.v (o / 128) (o % 128 / 4)).toNat (o % 4)
  else if o < 0x6080 then byteOf (g.sreg ((o - 0x6000) / 4)).toNat (o % 4)
  else if o < 0x60A0 then g.predByte (o - 0x6080)
  else if 0x6100 ≤ o && o < 0x6300 then
    match g.stack.reverse[(o - 0x6100) / 16]? with
    | some p => byteOf (stackBits p) (o % 16)
    | none => 0
  else 0

/-- Byte `o` of a group's register window written. A register that is not bound is not written: this is none of the writes that
bind (R109; log 12). -/
def Group.setWinByte (g : Group) (o : Nat) (b : Byte) : Group :=
  if o < 0x6000 then
    let n := o / 128
    let l := o % 128 / 4
    if g.bound n then g.setV n (BitVec.twoPow 32 l) fun _ => setWordByte (g.v n l) (o % 4) b else g
  else if o < 0x6080 then
    let n := (o - 0x6000) / 4
    g.setS n (setWordByte (g.sreg n) (o % 4) b)
  else if o < 0x60A0 then
    let l := o - 0x6080
    (List.range 7).foldl (fun g k => g.putPred (k + 1) (BitVec.twoPow 32 l) fun _ => b.getLsbD (k + 1)) g
  else if 0x6100 ≤ o && o < 0x6300 then
    let e := (o - 0x6100) / 16
    let st := g.stack.reverse
    match st[e]? with
    | some p => { g with stack := (st.set e (stackPart (setByte (stackBits p) (o % 16) b))).reverse }
    | none => g
  else g

/-- Bytes written to a group's register window. A write just above the top of the divergence stack that gives an entry lanes makes
it an entry (log 12). -/
def Group.setWin (g : Group) (o : Nat) (bs : List Byte) : Group :=
  let e := (o - 0x6100) / 16
  let part := stackPart (fromBytes (List.replicate (o % 16) 0 ++ bs))
  if 0x6100 ≤ o && o < 0x6300 && e = g.stack.length && part.mask ≠ 0 then { g with stack := part :: g.stack }
  else (bs.foldl (fun (acc : Group × Nat) b => (acc.1.setWinByte acc.2 b, acc.2 + 1)) (g, o)).1

/-! ## The other rows of a core's window (R115) -/

/-- An empty entry of a top-k list (R315). -/
def emptyEntry : Word × Word := (0xFF800000, 0xFFFFFFFF)

/-- The team, team tile and quarter to which physical tile `p` of a core is bound (R277). -/
def State.tileOwner (s : State) (core p : Nat) : Option (Nat × Nat × Quarter) :=
  s.teams.findSome? fun (k, t) =>
    match t.quarterOn core with
    | some q =>
      match q.tiles.findIdx? (· == p) with
      | some j => some (k, j, q)
      | none => none
    | none => none

/-- Entry `e` of row `r` in the list area of team tile `j` (R315). -/
def Quarter.areaEntry (q : Quarter) (j r e : Nat) : Word × Word :=
  match q.lists[j]? with
  | some L =>
    if L.kcap ≠ 0 then (L.rows.getD r []).getD e emptyEntry
    else
      match (if j % 2 = 1 then q.lists[j - 1]? else none) with
      | some L' => if 32 < L'.kcap then (L'.rows.getD r []).getD (e + 32) emptyEntry else emptyEntry
      | none => emptyEntry
  | none => emptyEntry

/-- Byte of top-k memory. -/
def State.topkByte (s : State) (core o : Nat) : Byte :=
  let p := o / 16384
  let x := o % 16384
  let ent := match s.tileOwner core p with
    | some (_, j, q) => q.areaEntry j (x / 256) (x % 256 / 8)
    | none => emptyEntry
  byteOf (if x % 8 < 4 then ent.1.toNat else ent.2.toNat) (x % 4)

/-- A list with byte `k` of entry `e` of row `r` written. -/
def TopList.setByte (L : TopList) (r e k : Nat) (b : Byte) : TopList :=
  { L with rows := modifyAt (modifyAt (fun ent =>
      if k < 4 then (setWordByte ent.1 k b, ent.2) else (ent.1, setWordByte ent.2 (k - 4) b)) e) r L.rows }

/-- Byte of top-k memory written: the entry of the list whose area it is. -/
def State.setTopkByte (s : State) (core o : Nat) (b : Byte) : State :=
  let p := o / 16384
  let x := o % 16384
  let r := x / 256
  let e := x % 256 / 8
  match s.tileOwner core p with
  | some (t, j, q) =>
    match q.lists[j]? with
    | some L =>
      if L.kcap ≠ 0 then
        s.modQuarter t core fun q => { q with lists := modifyAt (fun L => L.setByte r e (x % 8) b) j q.lists }
      else if j % 2 = 1 then
        s.modQuarter t core fun q => { q with lists := modifyAt (fun L => L.setByte r (e + 32) (x % 8) b) (j - 1) q.lists }
      else s
    | none => s
  | none => s

/-- The eight doublewords 0x00 to 0x38 of a region's table entry (R254); the template record follows at 0x40. -/
def Region.words (r : Region) (team : Nat) : List Nat :=
  match r.body with
  | .ring g =>
    let st := match g.state with
      | .opened => 0
      | .closed => 1
      | .broken => 2
    [team * 2 ^ 32 + 1 * 2 ^ 28 + st * 2 ^ 24 + r.handle * 2 ^ 20 + g.owner * 2 ^ 18,
     g.base * 2 ^ 32 + g.slotSz,
     g.n * 2 ^ 56 + g.free * 2 ^ 48 + g.filled * 2 ^ 40 + g.pidx * 2 ^ 32 + g.cidx * 2 ^ 24 + g.pubf * 2 ^ 16 + g.relf * 2 ^ 8,
     g.published.toNat, g.released.toNat, 0, 0, 0]
  | .window w =>
    let st := match w.state with
      | .absent => 0
      | .copying => 1
      | .present => 2
      | .failed => 3
    [team * 2 ^ 32 + 2 * 2 ^ 28 + st * 2 ^ 24 + r.handle * 2 ^ 20, w.base * 2 ^ 32 + w.size, 0, 0, 0,
     w.advance.toNat * 2 ^ 32 + w.copies % 2 ^ 32, 0, 0] ++ w.record.map BitVec.toNat

/-- Byte of the region and ring tables; a free entry reads as zero. -/
def State.regionByte (s : State) (core o : Nat) : Byte :=
  let e := o / 128
  if 64 ≤ e then 0
  else
    match s.teams.findSome? fun (_, t) => (t.regions.find? fun r => r.core == core && r.entry == e).map fun r => (t.id, r) with
    | some (id, r) => byteOf ((r.words id).getD (o % 128 / 8) 0) (o % 8)
    | none => 0

/-- A row of R115 that is `zero`, or lies past the window. -/
def zeroRow (off : Nat) : Bool :=
  (0x0C0000 ≤ off && off < 0x100000) || (0x180000 ≤ off && off < 0x200000) || (0x248000 ≤ off && off < 0x280000) ||
  (0x2C0000 ≤ off && off < 0x300000) || 0x1000000 ≤ off

/-- Byte of a core's window. The manual gives no layout to the spill-reserve and cache ways nor to the core CSRs: they read as free
values (log 8). -/
def State.winByte (s : State) (core off : Nat) : Byte :=
  let c := s.core core
  if off < c.scratchWays * 32768 then cellGet c.chip off
  else if off < 0xC0000 then (Config.freeWord (s.fresh + off)).setWidth 8
  else if off < 0x180000 then cellGet c.chip off
  else if off < 0x240000 then byteOf (cellGet c.acc ((off - 0x200000) / 4)).toNat (off % 4)
  else if off < 0x248000 then byteOf (cellGet c.partials ((off - 0x240000) / 4)).toNat (off % 4)
  else if off < 0x2C0000 then s.topkByte core (off - 0x280000)
  else if off < 0x500000 then
    match s.group? (posKey core ((off - 0x300000) / 32768)) with
    | some g => g.winByte ((off - 0x300000) % 32768)
    | none => 0
  else if off < 0x600000 then s.regionByte core (off - 0x500000)
  else (Config.freeWord (s.fresh + off)).setWidth 8

/-- Bytes written to a core's window at `off`. Region tables ignore writes (R254); rows without a layout take none (log 8). -/
def State.setWinBytes (s : State) (core off : Nat) (bs : List Byte) : State :=
  let c := s.core core
  if off < c.scratchWays * 32768 || (0x100000 ≤ off && off < 0x180000) then
    s.setCore core { c with chip := cellsSet c.chip off bs }
  else if 0x200000 ≤ off && off < 0x248000 then
    (bs.foldl (fun (acc : State × Nat) b =>
      let o := acc.2
      (acc.1.modCore core fun c =>
        if o < 0x240000 then
          let i := (o - 0x200000) / 4
          { c with acc := cellSet c.acc i (setWordByte (cellGet c.acc i) (o % 4) b) }
        else
          let i := (o - 0x240000) / 4
          { c with partials := cellSet c.partials i (setWordByte (cellGet c.partials i) (o % 4) b) }, o + 1)) (s, off)).1
  else if 0x280000 ≤ off && off < 0x2C0000 then
    (bs.foldl (fun (acc : State × Nat) b => (acc.1.setTopkByte core (acc.2 - 0x280000) b, acc.2 + 1)) (s, off)).1
  else if 0x300000 ≤ off && off < 0x500000 then
    s.modGroup (posKey core ((off - 0x300000) / 32768)) fun g => g.setWin ((off - 0x300000) % 32768) bs
  else s

/-! ## Reading and writing at a place -/

/-- The comparison a monitor makes, on values of its width (R363, R375). -/
def MonTest.holds (t : MonTest) (wide : Bool) (m v : DWord) : Bool :=
  let m' := if wide then m else m.setWidth 32 |>.setWidth 64
  let v' := if wide then v else v.setWidth 32 |>.setWidth 64
  let sm := if wide then m.toInt else (m.setWidth 32).toInt
  let sv := if wide then v.toInt else (v.setWidth 32).toInt
  match t with
  | .eq => m' == v'
  | .ne => m' != v'
  | .geU => v'.toNat ≤ m'.toNat
  | .geS => sv ≤ sm
  | .gtU => v'.toNat < m'.toNat
  | .gtS => sv < sm

/-- The value a monitor watches. -/
def State.watched (s : State) (m : Monitor) : DWord := BitVec.ofNat 64 (readNat s.mem m.addr (if m.wide then 8 else 4))

/-- One write's effect on the monitors: the first write that satisfies one is latched (R363, R375). -/
def State.notify (s : State) (key n : Nat) : State :=
  { s with monitors := s.monitors.map fun m =>
      if m.hit = none && key < m.addr + (if m.wide then 8 else 4) && m.addr < key + n &&
          m.test.holds m.wide (s.watched m) m.value then
        { m with hit := some (s.watched m) }
      else m }

/-- `n` bytes at a place. -/
def State.readLoc (s : State) (loc : Loc) (n : Nat) : List Byte :=
  match loc with
  | .dram k => cellsGet (w := 8) s.mem k n
  | .win c o => (List.range n).map fun i => s.winByte c (o + i)

/-- The little-endian number of `n` bytes at a place. -/
def State.readLocNat (s : State) (loc : Loc) (n : Nat) : Nat := fromBytes (s.readLoc loc n)

/-- Bytes written at a place, as one write. -/
def State.writeLoc (s : State) (loc : Loc) (bs : List Byte) : State :=
  match loc with
  | .dram k => ({ s with mem := cellsSet (w := 8) s.mem k bs }).notify k bs.length
  | .win c o => s.setWinBytes c o bs

/-- The device of a key of `State.mem`; none for this device's own memory. -/
def keyDevice (key : Nat) : Option Nat := if key < Config.deviceStride then none else some (key / Config.deviceStride - 1)

/-- The peer device at which a place lies. -/
def Loc.peer? : Loc → Option Nat
  | .dram key => keyDevice key
  | .win _ _ => none

/-- Physical address of a place of this device (R3, R115). -/
def Loc.address : Loc → Nat
  | .dram key => key
  | .win c o => Config.windowBase + c * Config.windowSize + o

/-- Every L1 copy of the lines that `n` bytes at `pa` touch written back and invalidated (R229, R230). -/
def State.recall (s : State) (pa n : Nat) : State :=
  { s with cores := s.cores.map fun p : Nat × Core =>
      (p.1, { p.2 with l1 := p.2.l1.filter fun y => !(pa / 128 ≤ y.line && y.line ≤ (pa + n - 1) / 128) }) }

/-- Bytes written at their home, coherently with every L1 (R230). -/
def State.homeWrite (s : State) (loc : Loc) (bs : List Byte) : State :=
  match loc with
  | .dram k => (s.recall k bs.length).writeLoc loc bs
  | .win _ _ => s.writeLoc loc bs

/-- An `n`-byte number written little-endian at a place. -/
def State.writeLocNat (s : State) (loc : Loc) (n x : Nat) : State := s.writeLoc loc (toBytes n x)

/-- `n` bytes of device DRAM at a physical address, untranslated (R216). -/
def State.readPhys (s : State) (pa n : Nat) : Nat := readNat s.mem pa n

/-- `n` bytes of device DRAM written at a physical address, untranslated. -/
def State.writePhys (s : State) (pa n x : Nat) : State := s.homeWrite (.dram pa) (toBytes n x)

/-- Scratch byte range of a quarter: the place of offset `o` of its allocation (R112, R217). -/
def Quarter.scratch (q : Quarter) (o : Nat) : Loc := .win q.core (q.base * 1024 + o)

end Sys2Proof.Machine
end

