-- ==== Sys2Proof/Machine/Late.lean ====
section
/-! DEFINITION. The operations of atomics, and accesses that have issued and have not performed: the units of stores and atomics still to perform,
the units of loads whose values are not fixed, and the order that part order keeps among them (R234, R345 to R353, R360; log 9). -/

namespace Sys2Proof.Machine

/-! ## Operations (R360) -/

/-- Bytes of an atomic operation's operand. -/
def AtomOp.bytes : AtomOp → Nat
  | .add64 | .exch64 | .cas64 => 8
  | _ => 4

/-- Registers that hold the data of an operation. -/
def AtomOp.words (op : AtomOp) : Nat := AtomOp.bytes op / 4

/-- An FP32 operation, whose data are tested for verdict words. -/
def AtomOp.float : AtomOp → Bool
  | .addF32 | .maxF32 | .minF32 => true
  | _ => false

/-- A 32-bit number read as signed. -/
def signed32 (x : Nat) : Int := (BitVec.ofNat 32 x).toInt

/-- The new value of R360 from the old value `m`, the data `D` and, for `.cas`, the new data `N`. -/
def AtomOp.apply (op : AtomOp) (m D N : Nat) : Nat :=
  match op with
  | .add32 => (m + D) % 2 ^ 32
  | .add64 => (m + D) % 2 ^ 64
  | .addF32 => (fmt32.add .rne m D).1
  | .minS => if signed32 D < signed32 m then D else m
  | .minN => min m D
  | .maxS => if signed32 m < signed32 D then D else m
  | .maxN => max m D
  | .and => m &&& D
  | .or => m ||| D
  | .xor => m ^^^ D
  | .maxF32 => (fmt32.minMax true m D).1
  | .exch32 | .exch64 => D
  | .cas32 | .cas64 => if m = D then N else m
  | .minF32 => (fmt32.minMax false m D).1

/-! ## Outstanding values (R149, R421) -/

/-- The values of an outstanding write put in its destination. -/
def Group.receive (g : Group) (p : Pending) : Group := g.putMany p.dst p.mask p.words fun n l => (p.values.getD n []).getD l 0

/-- Every earlier load and atomic of a group has returned and every earlier store has performed: releases wait for it (R236, R240, R350). -/
def Group.quiet (g : Group) : Bool := g.outstanding.isEmpty && g.late.isEmpty

/-! ## Units (R352) -/

/-- Word k of a number. -/
def wordOf (x k : Nat) : Word := BitVec.ofNat 32 (x / 2 ^ (32 * k))

/-- The indivisible units of an access of `n` bytes, each with its offset and size: the whole, or each 8 bytes of a longer one (R352). -/
def unitsOf (n : Nat) : List (Nat × Nat) := if n ≤ 8 then [(0, n)] else (List.range (n / 8)).map fun k => (8 * k, 8)

/-- The units of the lanes of a load. -/
def loadUnits (ps : List (Nat × Loc)) (n : Nat) (signed : Bool) : List LoadUnit :=
  ps.flatMap fun p => (unitsOf n).map fun u => { lane := p.1, word := u.1 / 4, loc := p.2.plus u.1, size := u.2, signed }

/-- The units of the lanes of a store, in the order of R234. -/
def storeUnits (ps : List (Nat × Loc)) (n : Nat) (data : Nat → Nat) (part : Word) (word : Nat) : List LateOp :=
  ps.flatMap fun p => (unitsOf n).map fun u =>
    { lane := p.1, part, loc := p.2.plus u.1, size := u.2, effect := .store (data p.1 / 2 ^ (8 * u.1)), word }

/-- Two accesses have a byte in common. -/
def placesMeet (a : Loc) (n : Nat) (b : Loc) (m : Nat) : Bool := a.address < b.address + m && b.address < a.address + n

/-! ## Performing late (R345, R346) -/

/-- Two units whose parts descend one from the other have a byte in common: they perform in issue order (R234, R345). -/
def LateOp.ordered (o p : LateOp) : Bool := o.part &&& p.part ≠ 0 && placesMeet o.loc o.size p.loc p.size

/-- The units for which `sel` holds and those that must perform before one of them, and the units that stay, both oldest first. -/
def lateSplit (sel : LateOp → Bool) (l : List LateOp) : List LateOp × List LateOp :=
  l.foldr (fun o acc => if sel o || acc.1.any o.ordered then (o :: acc.1, acc.2) else (acc.1, o :: acc.2)) ([], [])

/-- The old value `m` that an atomic returns in lane `l`, kept in its outstanding entry until the reply brings it (R361, R421). -/
def Group.replied (g : Group) (d : Operand) (l m : Nat) : Group :=
  { g with outstanding := g.outstanding.map fun p =>
      if p.atomic && p.dst = d then { p with values := p.values.mapIdx fun k v => v.set l (wordOf m k) } else p }

/-- A unit performs, indivisibly (R236, R352, R361). -/
def State.performOp (s : State) (key : Nat) (o : LateOp) : State :=
  match o.effect with
  | .store x => s.writeLocNat o.loc o.size x
  | .atom op D N =>
    let m := s.readLocNat o.loc o.size
    let s := s.writeLocNat o.loc o.size (AtomOp.apply op m D N)
    match o.reply with
    | some d => s.modGroup key fun g => g.replied d o.lane m
    | none => s

/-- The units of a group for which `sel` holds perform, after those that must precede them. -/
def State.performLate (s : State) (key : Nat) (sel : LateOp → Bool) : State :=
  match s.group? key with
  | none => s
  | some g =>
    if g.late.isEmpty then s
    else
      let (now, left) := lateSplit sel g.late
      now.foldl (fun s o => s.performOp key o) (s.setGroup key { g with late := left })

/-- The n-th unit that a group has still to perform performs. -/
def State.performNth (s : State) (key n : Nat) : State :=
  match (s.group? key).bind fun g => g.late[n]? with
  | none => s
  | some o => s.performLate key (· == o)

/-! ## Loads whose values are not fixed (R348) -/

/-- A unit's value put among the values of its outstanding load (R236). -/
def Pending.fill (p : Pending) (u : LoadUnit) (x : Nat) : Pending :=
  { p with values := p.values.mapIdx fun k v =>
      if u.word ≤ k && 4 * (k - u.word) < u.size then
        v.set u.lane (if u.signed then (BitVec.ofNat 8 x).signExtend 32 else wordOf x (k - u.word))
      else v }

/-- A unit of the n-th outstanding load of a group takes the value that its bytes hold now. -/
def State.reload (s : State) (key n u : Nat) : State :=
  match s.group? key with
  | none => s
  | some g =>
    match g.outstanding[n]? with
    | none => s
    | some p =>
      match p.units[u]? with
      | none => s
      | some x =>
        let p := p.fill x (s.readLocNat x.loc x.size)
        s.setGroup key ({ g with outstanding := g.outstanding.set n p }.receive p)

/-- The values of outstanding loads fixed, in the units for which `hit` holds. -/
def Group.fixLoads (g : Group) (hit : Pending → LoadUnit → Bool) : Group :=
  { g with outstanding := g.outstanding.map fun p => { p with units := p.units.filter fun u => !hit p u } }

/-- Acquires complete: their values are in their registers (R240, R350). The old value of an atomic has been returned before. -/
def Group.completeAcquires (g : Group) : Group :=
  (g.outstanding.filter Pending.acq).foldl Group.receive { g with outstanding := g.outstanding.filter fun p => !p.acq }

/-- Every outstanding load and atomic becomes one that no later access precedes: FENCE.acq (R240). -/
def Group.acquireAll (g : Group) : Group :=
  { g with outstanding := g.outstanding.map fun p => if p.part = 0 then p else { p with acq := true } }

/-- The parts that descend from a part of the lanes `M` follow what it follows (R345): an access of the group that precedes some lane of the
part precedes all of them. -/
def Group.descend (g : Group) (M : Word) : Group :=
  let widen (p : Word) : Word := if p &&& M = 0 then p else p ||| M
  { g with late := g.late.map fun o => { o with part := widen o.part },
           outstanding := g.outstanding.map fun p => { p with part := widen p.part } }

end Sys2Proof.Machine
end

