-- ==== Sys2Proof/Machine/Parts.lean ====
section
/-! DEFINITION. The parts of a group: splits, joins, exits, release and the filling of the PC slots (R152 to R156). -/

namespace Sys2Proof.Machine

/-- A part that goes on at `pc`: what belonged to the word at its old PC is over. -/
def Part.goTo (p : Part) (pc : DWord) : Part := { p with pc, wait := none, reissue := none, rows := 0, turn := false, cont := none, delay := false }

/-- What the scheduler keeps of a slot. -/
def Group.cand (g : Group) (b : Bool) : Cand := if b then g.candB else g.candA

/-- A group with the scheduler's record of a slot replaced. -/
def Group.setCand (g : Group) (b : Bool) (c : Cand) : Group := if b then { g with candB := c } else { g with candA := c }

/-- Entries of the divergence stack that a frame keeps frozen below the handler's (R156, R396). -/
def Group.frozen (g : Group) : Nat :=
  match g.mode with
  | .normal => 0
  | .user => g.uframe.stackDepth
  | .supervisor => g.sframe.stackDepth

/-- The entries of the divergence stack that belong to the running mode, top first. -/
def Group.own (g : Group) : List Part := g.stack.take (g.stack.length - g.frozen)

/-- A group with the entries of the running mode replaced. -/
def Group.setOwn (g : Group) (l : List Part) : Group := { g with stack := l ++ g.stack.drop (g.stack.length - g.frozen) }

/-- The parts of the running mode (R152). -/
def Group.parts (g : Group) : List Part := g.slotA.toList ++ g.slotB.toList ++ g.own

/-- Number of parts (R196, R382, R400). -/
def Group.partCount (g : Group) : Nat := g.parts.length

/-- Every part of the running mode changed by `f`. -/
def Group.mapParts (g : Group) (f : Part → Part) : Group :=
  { g with slotA := g.slotA.map f, slotB := g.slotB.map f }.setOwn (g.own.map f)

/-- First rule of R155: empty slots take the top entries, slot A first. -/
def Group.refill (g : Group) : Group :=
  let g := match g.slotA, g.own with
    | none, p :: rest => { g.setOwn rest with slotA := some p }
    | _, _ => g
  match g.slotB, g.own with
  | none, p :: rest => { g.setOwn rest with slotB := some p }
  | _, _ => g

/-- Second rule of R155: with both slots parked at a JOIN, the unparked entry nearest the top is exchanged with the slot part of
lower depth, slot B on a tie. -/
def Group.exchange (g : Group) : Group :=
  match g.slotA, g.slotB with
  | some a, some b =>
    if a.park.isSome && b.park.isSome then
      match g.own.findIdx? fun p => p.park.isNone with
      | some k =>
        match g.own[k]? with
        | some p =>
          if a.depth < b.depth then { g.setOwn (g.own.set k a) with slotA := some p }
          else { g.setOwn (g.own.set k b) with slotB := some p }
        | none => g
      | none => g
    else g
  | _, _ => g

/-- fill_slots() of R155. -/
def Group.fillSlots (g : Group) : Group := g.refill.exchange

/-- A parked part released at the word after its JOIN (R154). -/
def Part.release (p : Part) : Part :=
  match p.park with
  | some j => { p with pc := j + 8, park := none, depth := p.depth - 1 }
  | none => p

/-- One round of settle(): the parked part of greatest depth is released when no other part is as deep (R154). -/
def Group.releaseOne (g : Group) : Option Group :=
  let top := (g.parts.map Part.depth).foldl max 0
  match g.parts.filter fun p => p.depth == top with
  | [p] => if p.park.isSome then some (g.mapParts fun q => if q.depth = top then q.release else q) else none
  | _ => none

/-- The loop of settle(); a part is released at most once in it. -/
def Group.releaseAll : Nat → Group → Group
  | 0, g => g
  | n + 1, g =>
    match g.releaseOne with
    | some g' => Group.releaseAll n g'
    | none => g

/-- settle() of R154: the group, or none when every part is parked (the reconvergence trap). -/
def Group.settleParts (g : Group) : Option Group :=
  let g := (Group.releaseAll g.partCount g).fillSlots
  if g.parts.all fun p => p.park.isSome then none else some g

/-- The first part parked at `j` with depth `d` that is not the issuing slot's, removed (R154). -/
def Group.takeParked (g : Group) (b : Bool) (j : DWord) (d : Nat) : Option (Part × Group) :=
  let at_ (p : Part) : Bool := p.park == some j && p.depth == d
  match (g.slot (!b)) with
  | some p =>
    if at_ p then some (p, g.setSlot (!b) none)
    else
      match g.own.findIdx? at_ with
      | some k => (g.own[k]?).map fun p => (p, g.setOwn (g.own.eraseIdx k))
      | none => none
  | none =>
    match g.own.findIdx? at_ with
    | some k => (g.own[k]?).map fun p => (p, g.setOwn (g.own.eraseIdx k))
    | none => none

/-- JOIN at the part's pc (R154): the group after it; none raises the reconvergence trap. -/
def Group.join (g : Group) (b : Bool) : Option Group :=
  match g.slot b with
  | none => some g
  | some x =>
    if x.depth = 0 then some (g.setSlot b (some (x.goTo (x.pc + 8))))
    else
      match g.takeParked b x.pc x.depth with
      | some (y, g') => (g'.setSlot b (some { x.goTo x.pc with mask := x.mask ||| y.mask, park := some x.pc })).settleParts
      | none => (g.setSlot b (some { x.goTo x.pc with park := some x.pc })).settleParts

/-- EXIT of the lanes `X` (R154, R201): lanes that stay go on at the next word; with the whole part gone the rest settles. `none`
raises the reconvergence trap; a group without parts has exited. -/
def Group.exitLanes (g : Group) (b : Bool) (X : Word) : Option Group :=
  match g.slot b with
  | none => some g
  | some x =>
    let left := x.mask &&& ~~~X
    if left ≠ 0 then some (g.setSlot b (some { x.goTo (x.pc + 8) with mask := left }))
    else
      let g := g.setSlot b none
      if g.parts.isEmpty then some g else g.settleParts

/-- The distinct next PCs of a part's lanes, ascending (R153). -/
def distinctPcs (pcs : List (Nat × DWord)) : List DWord :=
  sortBy BitVec.toNat (pcs.map fun p => p.2).eraseDups

/-- A transfer that gives each lane of the issuing part its next PC (R153): agreement moves the part, disagreement splits it. `none`
raises the divergence-overflow trap (R156). -/
def Group.transfer (g : Group) (b : Bool) (next : Nat → DWord) : Option Group :=
  match g.slot b with
  | none => some g
  | some x =>
    let pcs := (lanesOf x.mask).map fun l => (l, next l)
    match distinctPcs pcs with
    | [] => some (g.setSlot b (some (x.goTo (x.pc + 8))))
    | [pc] => some (g.setSlot b (some (x.goTo pc)))
    | first :: second :: rest =>
      let mk (pc : DWord) : Part :=
        { pc, mask := maskOf fun l => x.mask.getLsbD l && next l == pc, depth := x.depth + 1 }
      let g := g.setSlot b (some (mk first))
      let (g, pushed) := match g.slot (!b) with
        | none => (g.setSlot (!b) (some (mk second)), rest.map mk)
        | some _ => (g, (second :: rest).map mk)
      if 32 < g.stack.length + pushed.length then none
      else some (g.setOwn (pushed ++ g.own)).fillSlots

end Sys2Proof.Machine
end

