-- ==== Sys2Proof/Machine/Translate.lean ====
section
/-! DEFINITION. From a virtual address to a place: contexts, page tables, TLBs, permissions, routes, range locks and demand windows,
and the order in which an access is checked (R217 to R226, R232, R233, R253, R256). -/

namespace Sys2Proof.Machine

/-! ## Contexts and page tables -/

/-- Physical address of a context's table entry (R219). -/
def State.ctxEntry (s : State) (ctx : Nat) : Nat := s.csr.ctxtab.toNat + ctx * 32

/-- Physical address of the level-0 table of a context (R219). -/
def State.ctxRoot (s : State) (ctx : Nat) : Nat := bits (read64 s.mem (s.ctxEntry ctx)) 45 12 * 4096

/-- ASID of a context (R219). -/
def State.ctxAsid (s : State) (ctx : Nat) : Nat := bits (read64 s.mem (s.ctxEntry ctx + 8)) 15 0

/-- The four levels: shift of the index, its bits, the level's number (R221). -/
def ptLevels : List (Nat × Nat × Nat) := [(40, 9, 0), (31, 9, 1), (25, 6, 2), (19, 6, 3)]

/-- Level of the leaf of a page of 2^shift bytes (R221). -/
def leafLevel (shift : Nat) : Nat := if shift = 31 then 1 else if shift = 25 then 2 else 3

/-- A leaf entry that breaks R222, at the level whose pages are 2^shift bytes. -/
def leafBad (e : DWord) (shift : Nat) : Bool :=
  bits e 63 60 ≠ 0 || bits e 50 46 ≠ 0 || bits e 18 12 ≠ 0 || bit e 9 || bit e 7 || bits e 3 2 ≠ 0 ||
  2 ≤ bits e 11 10 || (bit e 59 && 143 < bits e 58 51) || (19 < shift && bits e (shift - 1) 19 ≠ 0)

/-- Cause codes of the checks of R232. -/
def accessFault : Nat := 0x19
def alignFault : Nat := 0x06
def pageFault : Nat := 0x1A
def tableFault : Nat := 0x1B
def protFault : Nat := 0x1C

/-- The walk of R223 from the table at `tbl`: the leaf and the shift of its page, or the cause and the level at which it ended. -/
def walkFrom (mem : Memory) (va : Nat) : List (Nat × Nat × Nat) → Nat → Except (Nat × Nat) (DWord × Nat)
  | [], _ => .error (tableFault, 3)
  | (shift, nb, lv) :: rest, tbl =>
    let e := read64 mem (tbl + va / 2 ^ shift % 2 ^ nb * 8)
    if !bit e 0 then .error (pageFault, lv)
    else if bit e 1 then
      if lv = 0 || leafBad e shift then .error (tableFault, lv) else .ok (e, shift)
    else if bits e 63 46 ≠ 0 || bits e 8 2 ≠ 0 || lv = 3 || (lv = 0 && bits e 11 9 ≠ 0) then .error (tableFault, lv)
    else walkFrom mem va rest (bits e 45 9 * 512)

/-- The entry a TLB holds for an address (R224). -/
def tlbFind (l : List TlbEntry) (asid va : Nat) : Option TlbEntry :=
  l.find? fun e => e.asid == asid && e.vpn == va / 2 ^ e.shift

/-- Translation of an address under a context by a core's TLB, the second-level TLB, or a walk (R223, R224). Before CTXTAB has been
written the walk ends at level 0 (log 13). -/
def State.leafOf (s : State) (core : Option Nat) (ctx va : Nat) : Except (Nat × Nat) (DWord × Nat) :=
  let asid := s.ctxAsid ctx
  let l1 := match core with
    | some c => (s.core c).tlb
    | none => []
  match tlbFind l1 asid va with
  | some e => .ok (e.leaf, e.shift)
  | none =>
    match tlbFind s.tlb2 asid va with
    | some e => .ok (e.leaf, e.shift)
    | none => if s.csr.ctxtabSet then walkFrom s.mem va ptLevels (s.ctxRoot ctx) else .error (pageFault, 0)

/-- The TLBs after a translation that passed (R224): the most recently used entry first, the least recently used dropped. -/
def tlbTouch (l : List TlbEntry) (cap : Nat) (e : TlbEntry) : List TlbEntry := (e :: l.filter (· ≠ e)).take cap

/-- A state whose TLBs hold the translation of `va`. -/
def State.fillTlb (s : State) (core : Option Nat) (ctx va : Nat) : State :=
  match s.leafOf core ctx va with
  | .error _ => s
  | .ok (leaf, shift) =>
    let e : TlbEntry := { asid := s.ctxAsid ctx, shift, vpn := va / 2 ^ shift, leaf }
    let s := { s with tlb2 := tlbTouch s.tlb2 32768 e }
    match core with
    | some c => s.modCore c fun k => { k with tlb := tlbTouch k.tlb 192 e }
    | none => s

/-- What an access needs of a page: loads, stores and fetches allowed (R222, R223). -/
structure Need where
  r : Bool := false
  w : Bool := false
  x : Bool := false
  /-- The access is made in supervisor handler mode. -/
  sup : Bool := false

/-- The permission check of R223. -/
def Need.allowed (n : Need) (leaf : DWord) : Bool :=
  (!n.r || bit leaf 4) && (!n.w || bit leaf 5) && (!n.x || bit leaf 6) && (n.sup || !bit leaf 8)

/-- A device that is reached from here (R225, R226): `none` when this device's own memory serves the page. -/
def State.route (s : State) (dev : Nat) : Except Unit (Option Nat) :=
  if !bit s.csr.devnum 8 then .error ()
  else if dev = bits s.csr.devnum 7 0 then .ok none
  else if dev ∈ s.routes then .ok (some dev)
  else .error ()

/-- A physical address of this device as a place (R3, R115); `priv` says the mapping has the privileged attribute. Programs do not
reach the doorbell aperture (R57). -/
def localLoc (pa : Nat) (priv : Bool) : Option Loc :=
  if pa < Config.dramBytes then some (.dram pa)
  else if Config.windowBase ≤ pa && pa < Config.windowBase + Config.numCores * Config.windowSize then
    let off := (pa - Config.windowBase) % Config.windowSize
    if zeroRow off || (0x600000 ≤ off && !priv) then none
    else some (.win ((pa - Config.windowBase) / Config.windowSize) off)
  else none

/-- Check 6 of R232: the place of an address on a page, or none. A page of a peer reaches that device's DRAM (log 13). -/
def State.pageLoc (s : State) (leaf : DWord) (shift va : Nat) : Option Loc :=
  let pa := bits leaf 45 19 * 2 ^ 19 + va % 2 ^ shift
  if bit leaf 59 then
    match s.route (bits leaf 58 51) with
    | .error _ => none
    | .ok none => localLoc pa (bit leaf 8)
    | .ok (some d) => if pa < Config.dramBytes then some (.dram (Config.deviceStride * (d + 1) + pa)) else none
  else localLoc pa (bit leaf 8)

/-! ## Range locks (R255, R256) -/

/-- Two byte ranges, inclusive, overlap. -/
def overlaps (lo hi lo' hi' : Nat) : Bool := lo ≤ hi' && lo' ≤ hi

/-- A plain access to bytes [lo, lo + n) of a space meets the lock table of the core: a load traps on destination ranges, a store
on both (R256). -/
def Core.lockHit (c : Core) (sp : LockSpace) (lo n : Nat) (store : Bool) : Bool :=
  c.locks.any fun e => e.ranges.any fun r => r.space == sp && (store || r.dest) && overlaps lo (lo + n - 1) r.lo r.hi

/-! ## Demand windows (R253) -/

/-- The demand windows of a team on a core of which [o, o + n) touches a byte, the lowest first. -/
def Team.windowsAt (t : Team) (core o n : Nat) : List (Region × Window) :=
  sortBy (fun p => p.2.base) (t.regions.filterMap fun r =>
    match r.body with
    | .window w => if r.core = core && overlaps o (o + n - 1) w.base (w.base + w.size - 1) then some (r, w) else none
    | .ring _ => none)

/-! ## The checks of an access (R232, R253, R256) -/

/-- What kind of access is checked. -/
structure Access where
  /-- Bytes accessed and the alignment required. -/
  size : Nat
  align : Nat
  need : Need
  /-- ACC of TINFO (R395). -/
  acc : Nat
  /-- Range locks and demand windows treat it as a store; `plain` says that range locks apply at all. -/
  store : Bool := false
  plain : Bool := true
  /-- Demand windows apply (R253); the loads of texture, attribute and ray words meet them and no range lock (log 14). -/
  demand : Bool := plain
  /-- The scratch aperture and the on-chip windows are legal places for it. -/
  aperture : Bool := true
  windows : Bool := true

/-- A check that fails: its place in the order, the cause, LEVEL, and for a demand window its handle. Cause 0 is a suspension
(R253). -/
structure CheckFail where
  order : Nat
  code : Nat
  level : Nat := 0
  handle : Nat := 0
  /-- Bytes of the access, where a word makes accesses of several sizes. -/
  size : Nat := 0

/-- Offset of an address in the scratch aperture (R217). -/
def apertureOff (va : Nat) : Option Nat :=
  if Config.scrBase ≤ va && va < Config.vaLimit then some (va - Config.scrBase) else none

/-- The lock check of a place: scratch offsets of the team, virtual addresses under its ASID, and window addresses that a loop of its context locks
(R255, R256, R284). -/
def State.locked (s : State) (i : Issue) (a : Access) (va : Nat) (loc : Loc) : Bool :=
  let c := s.core i.core
  let virt := match apertureOff va with
    | some o => c.lockHit (.scratch i.grp.team) o a.size a.store
    | none => c.lockHit (.virt (s.ctxAsid i.team.ctx)) va a.size a.store
  let win := match loc with
    | .win k off => k == i.core && c.lockHit (.window i.team.ctx) off a.size a.store
    | .dram _ => false
  virt || win

/-- The demand-window check of a scratch range (R253). Of several windows a FAILED one counts first, then the lowest that is not PRESENT
(log 14). -/
def windowCheck (i : Issue) (a : Access) (o : Nat) : Option CheckFail :=
  let ws := i.team.windowsAt i.core o a.size
  if ws.any fun p => p.2.state = .failed then some { order := 8, code := accessFault }
  else (ws.find? fun p => p.2.state ≠ .present).map fun p =>
    if a.store then { order := 8, code := 0x09, handle := p.1.handle } else { order := 8, code := 0 }

/-- A read meets the data that ECC_UNCORRECTABLE names (R393). -/
def State.spoils (s : State) (a : Access) (loc : Loc) : Bool :=
  match s.badData with
  | some pa => a.need.r && loc.address ≤ pa && pa < loc.address + a.size
  | none => false

/-- The end of the checks: a read whose data come back bad fails after every other (R393, R395). -/
def State.arrived (s : State) (a : Access) (level : Nat) (loc : Loc) : Except CheckFail Loc :=
  if s.spoils a loc then .error { order := 9, code := 0x1D, level } else .ok loc

/-- The checks of one address by a group, in order: the place, or the check that fails (R232, then R256 and R253; log 14). -/
def State.check (s : State) (i : Issue) (a : Access) (va : DWord) : Except CheckFail Loc :=
  let n := va.toNat
  if Config.vaLimit ≤ n then .error { order := 1, code := accessFault }
  else if n % a.align ≠ 0 then .error { order := 2, code := alignFault }
  else
    match apertureOff n with
    | some o =>
      if !a.aperture || i.alloc < o + a.size then .error { order := 3, code := accessFault }
      else
        match i.team.quarterOn i.core with
        | none => .error { order := 3, code := accessFault }
        | some q =>
          if a.plain && s.locked i a n (q.scratch o) then .error { order := 7, code := 0x08 }
          else
            match (if a.demand then windowCheck i a o else none) with
            | some f => .error f
            | none => s.arrived a 0 (q.scratch o)
    | none =>
      match s.leafOf (some i.core) i.team.ctx n with
      | .error (code, level) => .error { order := 4, code, level }
      | .ok (leaf, shift) =>
        if !a.need.allowed leaf then .error { order := 5, code := protFault, level := leafLevel shift }
        else
          match s.pageLoc leaf shift n with
          | none => .error { order := 6, code := accessFault, level := leafLevel shift }
          | some loc =>
            match loc, a.windows with
            | .win _ _, false => .error { order := 6, code := accessFault, level := leafLevel shift }
            | _, _ =>
              if a.plain && s.locked i a n loc then .error { order := 7, code := 0x08, level := leafLevel shift }
              else s.arrived a (leafLevel shift) loc

/-- TINFO of a failing access (R395): LEVEL of a walk, and ACC; the handle for a demand window (R393). -/
def CheckFail.info (f : CheckFail) (acc : Nat) : Word :=
  if f.code = 0x09 then BitVec.ofNat 32 f.handle else BitVec.ofNat 32 (f.level * 64 + acc)

/-- What the checks of a word's lanes come to (R232, R233): the lanes that perform with their places, the trap of the first failing
check, and whether the word is suspended at a demand window. -/
structure Checked where
  perform : List (Nat × Loc)
  trap : Option Trap
  suspend : Bool

/-- The lanes of `X` checked, each at its address. Checks 1 and 2 stop every lane; a failure at a later one lets the lanes that
pass perform. -/
def State.checkLanes (s : State) (i : Issue) (a : Access) (X : Word) (va : Nat → DWord) : Checked :=
  let rs := (lanesOf X).map fun l => (l, s.check i a (va l))
  let fails := rs.filterMap fun (l, r) =>
    match r with
    | .error f => some (l, f)
    | .ok _ => none
  let oks := rs.filterMap fun (l, r) =>
    match r with
    | .ok loc => some (l, loc)
    | .error _ => none
  let hard := fails.filter fun (_, f) => f.code ≠ 0
  match argMin (fun p : Nat × CheckFail => p.2.order) hard with
  | none => if fails.isEmpty then { perform := oks, trap := none, suspend := false }
            else { perform := [], trap := none, suspend := true }
  | some (l, f) =>
    let done := if f.order ≤ 2 then [] else oks
    { perform := done, suspend := false
      trap := some { code := f.code, addr := va l, info := f.info a.acc, tepc := i.pc, exmask := X,
                     tmask := maskOf fun j => done.any fun p => p.1 == j } }

/-- The TLB fills of a word's lanes (R224). -/
def State.fillLanes (s : State) (i : Issue) (X : Word) (va : Nat → DWord) : State :=
  (lanesOf X).foldl (fun s l =>
    if (va l).toNat < Config.vaLimit && (apertureOff (va l).toNat).isNone then s.fillTlb (some i.core) i.team.ctx (va l).toNat
    else s) s

/-! ## Accesses by engines -/

/-- An engine's access to a virtual address of a context: no range lock and no demand window; `sup` is false (R232, R256). The
failure gives the cause and the level. -/
def State.engineLoc (s : State) (core : Option Nat) (ctx : Nat) (need : Need) (va align : Nat) : Except (Nat × Nat) Loc :=
  if Config.vaLimit ≤ va then .error (accessFault, 0)
  else if va % align ≠ 0 then .error (alignFault, 0)
  else if (apertureOff va).isSome then .error (accessFault, 0)
  else
    match s.leafOf core ctx va with
    | .error e => .error e
    | .ok (leaf, shift) =>
      if !need.allowed leaf then .error (protFault, leafLevel shift)
      else
        match s.pageLoc leaf shift va with
        | none => .error (accessFault, leafLevel shift)
        | some loc => .ok loc

end Sys2Proof.Machine
end

