-- ==== Sys2Proof/Machine/BarrierOps.lean ====
section
/-! DEFINITION. The steps on a barrier object (R366 to R368) and on a ring (R251, R252): each is indivisible. -/

namespace Sys2Proof.Machine

/-! ## Barrier objects -/

/-- A barrier object (R366). DELTA is signed. -/
structure BarObj where
  expected : Nat
  arrived : Nat
  delta : Int
  phase : Nat
  pending : DWord
  deriving DecidableEq, Repr

/-- The object in 16 bytes of scratch (R366). -/
def BarObj.ofBytes (bs : List Byte) : BarObj :=
  let n := fromBytes bs
  { arrived := n % 2 ^ 16, expected := n / 2 ^ 16 % 2 ^ 16, phase := n / 2 ^ 32 % 2 ^ 16,
    delta := (BitVec.ofNat 16 (n / 2 ^ 48)).toInt, pending := BitVec.ofNat 64 (n / 2 ^ 64) }

/-- The object's 16 bytes. -/
def BarObj.toBytes (o : BarObj) : List Byte :=
  Machine.toBytes 16 (o.arrived + o.expected * 2 ^ 16 + o.phase * 2 ^ 32 + (BitVec.ofInt 16 o.delta).toNat * 2 ^ 48 +
    o.pending.toNat * 2 ^ 64)

/-- The flip check that ends every step (R367). -/
def BarObj.flip (o : BarObj) : BarObj :=
  if 0 < o.expected && o.arrived = o.expected && o.pending = 0 then
    { o with phase := (o.phase + 1) % 2 ^ 16, arrived := 0, expected := ((o.expected : Int) + o.delta).toNat % 2 ^ 16, delta := 0 }
  else o

/-- arrive(n) (R367). -/
def BarObj.arrive (o : BarObj) (n : DWord) : Option BarObj :=
  if o.arrived < o.expected then some { o with arrived := o.arrived + 1, pending := o.pending + n }.flip else none

/-- drop(n) (R367). -/
def BarObj.drop (o : BarObj) (n : DWord) : Option BarObj :=
  if o.arrived < o.expected && 1 ≤ (o.expected : Int) + o.delta then
    some { o with arrived := o.arrived + 1, pending := o.pending + n, delta := o.delta - 1 }.flip
  else none

/-- join (R367). -/
def BarObj.join (o : BarObj) : Option BarObj :=
  if o.expected = 0 then some { o with expected := 1 }.flip
  else if (o.expected : Int) + o.delta < 65535 && o.delta < 32767 then some { o with delta := o.delta + 1 }.flip
  else none

/-- expect(n) (R367). -/
def BarObj.expect (o : BarObj) (n : DWord) : Option BarObj := some { o with pending := o.pending + n }.flip

/-- post(n) (R367). -/
def BarObj.post (o : BarObj) (n : DWord) : Option BarObj := some { o with pending := o.pending - n }.flip

/-- The object at a scratch offset of a quarter. -/
def State.barGet (s : State) (q : Quarter) (off : Nat) : BarObj := BarObj.ofBytes (s.readLoc (q.scratch off) 16)

/-- The object at a scratch offset of a quarter written. -/
def State.barSet (s : State) (q : Quarter) (off : Nat) (o : BarObj) : State := s.writeLoc (q.scratch off) o.toBytes

/-- One step on an object; a step whose requirement fails leaves it unchanged. -/
def State.barStep (s : State) (q : Quarter) (off : Nat) (f : BarObj → Option BarObj) : State :=
  match f (s.barGet q off) with
  | some o => s.barSet q off o
  | none => s

/-- An object entered in a group's record, with the phase in which the group arrived: it is then the latest entered, and of five the least
recently entered is forgotten (R368). -/
def barEnter (l : List (Nat × Option Nat)) (off : Nat) (arrived : Option Nat) : List (Nat × Option Nat) :=
  let before : Option Nat := (l.find? fun p => p.1 == off).bind Prod.snd
  let rest := l.filter fun p => p.1 ≠ off
  rest.drop (rest.length - 3) ++ [(off, if arrived.isSome then arrived else before)]

/-- A group's exit from the objects in its record (R368). -/
def State.barLeave (s : State) (q : Quarter) (l : List (Nat × Option Nat)) : State :=
  l.foldl (fun s p =>
    let o := s.barGet q p.1
    if p.2 = some o.phase then s.barSet q p.1 { o with delta := o.delta - 1 }.flip
    else s.barStep q p.1 fun o => o.drop 0) s

/-! ## Rings (R251, R252) -/

/-- free-acquire: the slot, held for writing by `who` (R251). -/
def Ring.freeAcquire (r : Ring) (who : Acquirer) : Nat × Ring :=
  (r.pidx, { r with pidx := (r.pidx + 1) % r.n, free := r.free - 1, writing := r.writing ++ [(r.pidx, who)],
                    waiters := r.waiters.filter (· ≠ who) })

/-- The loop of publish. -/
def Ring.publishLoop : Nat → Ring → Ring
  | 0, r => r
  | k + 1, r =>
    if r.published.getLsbD r.pubf then
      Ring.publishLoop k { r with published := r.published &&& ~~~(BitVec.twoPow 64 r.pubf), pubf := (r.pubf + 1) % r.n,
                                  filled := r.filled + 1 }
    else r

/-- publish of slot `x` (R251). -/
def Ring.publish (r : Ring) (x : Nat) : Ring :=
  Ring.publishLoop 64 { r with writing := r.writing.filter fun p => p.1 ≠ x, published := r.published ||| BitVec.twoPow 64 x }

/-- fill-acquire: the slot, held for reading (R251). -/
def Ring.fillAcquire (r : Ring) : Nat × Ring :=
  (r.cidx, { r with cidx := (r.cidx + 1) % r.n, filled := r.filled - 1, reading := r.reading ++ [r.cidx] })

/-- The loop of release. -/
def Ring.releaseLoop : Nat → Ring → Ring
  | 0, r => r
  | k + 1, r =>
    if r.released.getLsbD r.relf then
      Ring.releaseLoop k { r with released := r.released &&& ~~~(BitVec.twoPow 64 r.relf), relf := (r.relf + 1) % r.n,
                                  free := r.free + 1 }
    else r

/-- release of slot `x` (R251). -/
def Ring.release (r : Ring) (x : Nat) : Ring :=
  Ring.releaseLoop 64 { r with reading := r.reading.filter (· ≠ x), released := r.released ||| BitVec.twoPow 64 x }

/-- The region a handle names (R254). -/
def Team.region? (t : Team) (h : Nat) : Option Region := t.regions.find? fun r => r.handle == h

/-- The ring a handle names. -/
def Team.ring? (t : Team) (h : Nat) : Option Ring :=
  match t.region? h with
  | some r =>
    match r.body with
    | .ring g => some g
    | .window _ => none
  | none => none

/-- The window a handle names. -/
def Team.window? (t : Team) (h : Nat) : Option Window :=
  match t.region? h with
  | some r =>
    match r.body with
    | .window w => some w
    | .ring _ => none
  | none => none

/-- A team with the body of a handle changed. -/
def Team.modRegion (t : Team) (h : Nat) (f : RegionBody → RegionBody) : Team :=
  { t with regions := t.regions.map fun r => if r.handle = h then { r with body := f r.body } else r }

/-- A team with the ring of a handle replaced. -/
def Team.setRing (t : Team) (h : Nat) (r : Ring) : Team := t.modRegion h fun _ => .ring r

/-- A team with the window of a handle replaced. -/
def Team.setWindow (t : Team) (h : Nat) (w : Window) : Team := t.modRegion h fun _ => .window w

/-- Walk requests of a core that target a ring of a team (R252, R259). -/
def Core.ringRequests (c : Core) (team h : Nat) : List Request :=
  c.requests.filter fun r => r.team == team && bits (dwordAt r.record 0) 61 59 == 4 && (dwordAt r.record 1).toNat % 16 == h

/-- The rings of a team after a group's fate changed: an owner role all of whose groups have exited, with no slot held for writing and
no request queued, closes its ring (R252). `roleOf` gives each group's role. -/
def closeRings (s : State) (t : Team) (k : Nat) (roleDone : Nat → Bool) : Team :=
  { t with regions := t.regions.map fun r =>
      match r.body with
      | .ring g =>
        if g.state = .opened && roleDone g.owner && g.writing.isEmpty &&
            t.quarters.all (fun q => ((s.core q.core).ringRequests k r.handle).isEmpty) then
          { r with body := .ring { g with state := .closed } }
        else r
      | .window _ => r }

end Sys2Proof.Machine
end

