-- ==== Sys2Proof/Machine/Reports.lean ====
section
/-! DEFINITION. The fault ring, trap permits, and the reads, writes and adds that engines make under a context
(R25, R80, R246, R393, R403, R406 to R408). -/

namespace Sys2Proof.Machine

/-! ## Accesses of engines by virtual address -/

/-- An engine's naturally aligned read of `n` bytes; the failure carries cause, level and address. -/
def State.engineRead (s : State) (core : Option Nat) (ctx va n : Nat) : Except (Nat × Nat × Nat) Nat :=
  match s.engineLoc core ctx { r := true } va n with
  | .ok loc => .ok (s.readLocNat loc n)
  | .error (code, level) => .error (code, level, va)

/-- `k` doublewords read from `va` on. -/
def State.engineReads (s : State) (core : Option Nat) (ctx va : Nat) : Nat → Except (Nat × Nat × Nat) (List DWord)
  | 0 => .ok []
  | k + 1 =>
    match s.engineRead core ctx va 8, s.engineReads core ctx (va + 8) k with
    | .ok x, .ok xs => .ok (BitVec.ofNat 64 x :: xs)
    | .error e, _ => .error e
    | _, .error e => .error e

/-- The word at an address of card `j` of queue `q`: as the device took it, where it has taken it already (R22, R61). -/
def State.takenWord (s : State) (q j va : Nat) (x : Word) : Word :=
  ((s.ahead.find? fun a => a.queue = q && a.card = j && a.va = va).map Ahead.word).getD x

/-- `k` doublewords of a card or of its records read from `va` on. -/
def State.readCardWords (s : State) (core : Option Nat) (q j va k : Nat) : Except (Nat × Nat × Nat) (List DWord) :=
  (s.engineReads core q va k).map fun ws => ws.mapIdx fun n (w : DWord) =>
    join64 (s.takenWord q j (va + 8 * n) (lo32 w)) (s.takenWord q j (va + 8 * n + 4) (hi32 w))

/-- An engine's naturally aligned write of `n` bytes. -/
def State.engineWrite (s : State) (core : Option Nat) (ctx va n x : Nat) : Except (Nat × Nat × Nat) State :=
  match s.engineLoc core ctx { w := true } va n with
  | .ok loc => .ok (s.homeWrite loc (toBytes n x))
  | .error (code, level) => .error (code, level, va)

/-- Doublewords written from `va` on. -/
def State.engineWrites (s : State) (core : Option Nat) (ctx va : Nat) : List Nat → Except (Nat × Nat × Nat) State
  | [] => .ok s
  | x :: xs =>
    match s.engineWrite core ctx va 8 x with
    | .ok s' => s'.engineWrites core ctx (va + 8) xs
    | .error e => .error e

/-- A far atomic add to a 64-bit counter (R25, R80, R246). -/
def State.engineAdd (s : State) (core : Option Nat) (ctx va x : Nat) : Except (Nat × Nat × Nat) State :=
  match s.engineLoc core ctx { r := true, w := true } va 8 with
  | .ok loc => .ok (s.homeWrite loc (toBytes 8 (s.readLocNat loc 8 + x)))
  | .error (code, level) => .error (code, level, va)

/-! ## The fault ring (R406 to R408) -/

/-- A report (R407); `token` 0xFFFF means none. -/
structure Report where
  code : Nat
  src : Nat
  token : Nat := 0xFFFF
  ctx : Nat := 0
  addr : DWord := 0
  pc : DWord := 0
  info : Word := 0
  tmask : Word := 0
  team : Nat := 0
  core : Nat := 0
  group : Nat := 0xFF
  exmask : Word := 0
  deriving DecidableEq, Repr

/-- The eight doublewords of a report written at TIME `t` (R407). -/
def Report.words (r : Report) (t : DWord) : List Nat :=
  [r.code * 2 ^ 56 + r.src * 2 ^ 52 + r.token * 2 ^ 32 + r.ctx * 2 ^ 16, r.addr.toNat, r.pc.toNat,
   r.info.toNat * 2 ^ 32 + r.tmask.toNat, r.team % 2 ^ 32 * 2 ^ 32 + r.core * 2 ^ 24 + r.group * 2 ^ 16, t.toNat,
   r.exmask.toNat, 0]

/-- LOG2N of a well-formed fault-ring header; none when reports are discarded (R406). -/
def State.ringLog (s : State) : Option Nat :=
  let b := s.csr.frbase.toNat
  let w := s.readPhys (b + 0x10) 8
  let tail := (List.range 5).all fun k => s.readPhys (b + 0x18 + 8 * k) 8 == 0
  if b = 0 || b % 64 ≠ 0 || Config.dramBytes < b + 0x40 || w < 11 || 20 < w || !tail ||
      Config.dramBytes < b + 0x40 + 64 * 2 ^ w then none
  else some w

/-- Reports in the ring: WR minus RD (R406). -/
def State.ringUsed (s : State) : Nat :=
  let b := s.csr.frbase.toNat
  (s.readPhys b 8 + 2 ^ 64 - s.readPhys (b + 8) 8) % 2 ^ 64

/-- The fault ring has room for a core's report (R406). -/
def State.ringRoom (s : State) : Bool :=
  match s.ringLog with
  | some n => s.ringUsed < 2 ^ n
  | none => true

/-- FLTDROP counts a discarded report. -/
def State.dropReport (s : State) : State := { s with csr := { s.csr with fltdrop := s.csr.fltdrop + 1 } }

/-- A report appended, its bytes before WR moves past it; discarded without a well-formed ring (R406). -/
def State.appendReport (s : State) (r : Report) : State :=
  match s.ringLog with
  | none => s.dropReport
  | some n =>
    let b := s.csr.frbase.toNat
    let wr := s.readPhys b 8
    let a := b + 0x40 + 64 * (wr % 2 ^ n)
    let s := ((r.words s.time).foldl (fun (acc : State × Nat) w => (acc.1.writePhys acc.2 8 w, acc.2 + 8)) (s, a)).1
    s.writePhys b 8 ((wr + 1) % 2 ^ 64)

/-- A device report, under the room rule of R408. -/
def State.deviceReport (s : State) (r : Report) : State :=
  match s.ringLog with
  | none => s.dropReport
  | some n => if s.ringUsed + 1080 < 2 ^ n then s.appendReport r else s.dropReport

/-! ## Trap permits (R403) -/

/-- The lowest free permit among 0 to 3. -/
def Core.freePermit (c : Core) : Option Nat := (List.range 4).find? fun k => !(c.permits.getD k false)

/-- A core's permit taken or returned. -/
def State.setPermit (s : State) (core k : Nat) (held : Bool) : State :=
  s.modCore core fun c => { c with permits := c.permits.set k held }

/-- Return of a permit by token: whether it was held, and the state (R211, R405). No group, resident or saved, holds it any more. -/
def State.returnPermit (s : State) (token : Nat) : Bool × State :=
  let core := token / 8
  let k := token % 8
  if core < Config.numCores && k < 5 && (s.core core).permits.getD k false then
    let drop (g : Group) : Group := { g with tokens := g.tokens.filter (· ≠ token) }
    (true, { s.setPermit core k false with
      groups := s.groups.map fun p : Nat × Group => (p.1, drop p.2)
      images := s.images.map fun m => { m with groups := m.groups.map drop } })
  else (false, s)

/-! ## Views: counters and records (R71, R80, R94) -/

/-- The picture context (R219). -/
def pictureCtx : Nat := 4096

/-- A view fault (R71): cause 0x23. -/
def State.viewFault (s : State) (src va : Nat) : State :=
  s.deviceReport { code := 0x23, src, ctx := pictureCtx, addr := BitVec.ofNat 64 va }

/-- One of a view's counters incremented, when it is non-zero (R80); a failing check loses the add and is reported. -/
def State.bumpCounter (s : State) (va : DWord) : State :=
  if va = 0 then s
  else
    match s.engineAdd none pictureCtx va.toNat 1 with
    | .ok s' => s'
    | .error (_, _, a) => s.viewFault 4 a

/-- A record of a view written; a failing check loses it and is reported (R80). -/
def State.writeViewRecord (s : State) (va : Nat) (words : List Nat) : State :=
  match s.engineWrites none pictureCtx va words with
  | .ok s' => s'
  | .error (_, _, a) => s.viewFault 4 a

/-- The statistics record of a view (R80). -/
def View.statsWords (v : View) (status : Nat) : List Nat :=
  [status, v.flushes, v.spills, v.dlyadd, v.dlydrop, v.proxy, v.skipped, v.badtri]

/-- The shading record of a view (R94). -/
def View.shadingWords (v : View) : List Nat :=
  [v.launched, v.pixlanes, v.helpers, v.vacant, v.partialCount, v.badmat, v.attrshort, 0]

/-- A view replaced in the list. -/
def State.setView (s : State) (v : View) : State :=
  { s with views := s.views.map fun w => if w.id = v.id then v else w }

/-- A view by its number. -/
def State.view? (s : State) (id : Nat) : Option View := s.views.find? fun v => v.id == id

/-- A view is active: it counts among the sixteen of R70, and holds back VISWAYS (R77). An aborted view is not, though tiles of it may still be
held (log 80). -/
def View.active (v : View) : Bool := v.phase = .active || v.phase = .drawing || v.phase = .sealed

/-- VISWAYS takes its new value when no view is active (R77). -/
def State.takeVisways (s : State) : State :=
  if s.views.any View.active then s else { s with csr := { s.csr with visways := s.csr.viswaysNew } }

/-- A view leaves the device. -/
def State.dropView (s : State) (id : Nat) : State := ({ s with views := s.views.filter fun v => v.id ≠ id } : State).takeVisways

/-- Pixels of a tile that wait in launched teams for their inputs (R93). -/
def State.heldPixels (s : State) (id tile : Nat) : Nat :=
  (s.launches.map fun p : Nat × Launch =>
    if p.2.source = .view id && !p.2.released then
      p.2.entries.countP fun e =>
        match e with
        | .pixel t _ _ _ helper => t == tile && !helper
        | .slot _ _ => false
    else 0).sum

/-- The abort of a view (R71): no further entry, records in its bins discarded, tiles released but for those held by launched
teams, both records and SEALCTR written; DONECTR waits for the held tiles. -/
def State.abortView (s : State) (v : View) : State :=
  let stats := (dwordAt v.desc 20).toNat
  let sealedYet := v.sealDone
  let kept := (v.tiles.map fun t : VTile => { t with refs := s.heldPixels v.id t.idx }).filter fun t => t.refs ≠ 0
  let v := { v with phase := .ended, aborted := true, binned := [], tiles := kept, sealDone := true }
  let s := { s.setView v with bins := s.bins.filter fun b => b.source ≠ BinSource.view v.id }
  let s := s.writeViewRecord stats (v.statsWords 2)
  let s := s.writeViewRecord (stats + 0x40) v.shadingWords
  let s := if sealedYet then s else s.bumpCounter (dwordAt v.desc 18)
  if kept.isEmpty then (s.bumpCounter (dwordAt v.desc 19)).dropView v.id else s.takeVisways

/-- A view fault and the abort it causes (R71). -/
def State.faultView (s : State) (v : View) (src va : Nat) : State := ((s.setView v).viewFault src va).abortView v

end Sys2Proof.Machine
end

