-- ==== Sys2Proof/Machine/Ops.lean ====
section
/-! DEFINITION. The operations the meanings share: the word being issued, parking and going on, the early end of walk requests and
loops, the end of a group, taking an exception, returning from one, and a fatal context
(R144, R201, R247, R289, R368, R390 to R412). -/

namespace Sys2Proof.Machine

/-! ## Groups and teams -/

/-- Key of the resident group `g` of a team. -/
def State.groupKey (s : State) (team g : Nat) : Option Nat :=
  s.groups.findSome? fun (k, x) => if x.team = team && x.gidx = g then some k else none

/-- Group `g` of a team is live (R25). -/
def Team.live (t : Team) (g : Nat) : Bool := t.fates.getD g .exited == .live

/-- The live groups of a team, ascending. -/
def Team.liveGroups (t : Team) : List Nat := (List.range t.fates.length).filter t.live

/-- A may-fault word whose checks are under way suspends its group's issue (R233). -/
def State.suspend (s : State) (key : Nat) : State := s.modGroup key fun g => { g with suspended := true }

/-- Role of group `g` (R10). -/
def roleOf (card : List DWord) (g : Nat) : Nat :=
  let n0 := cardGroups card 0
  let n1 := n0 + cardGroups card 1
  let n2 := n1 + cardGroups card 2
  if g < n0 then 0 else if g < n1 then 1 else if g < n2 then 2 else 3

/-- Group index of the first group of a role (R10). -/
def roleBase (card : List DWord) (k : Nat) : Nat := ((List.range k).map (cardGroups card)).sum

/-- Every group of a role has executed EXIT (R252). -/
def Team.roleExited (t : Team) (k : Nat) : Bool :=
  (List.range t.fates.length).all fun g => roleOf t.card g != k || t.fates.getD g .exited == .exited

/-- The parts a group's slots hold are gone once it has exited or ended. -/
def Group.ended (g : Group) : Bool := g.slotA.isNone && g.slotB.isNone

/-! ## Early ends of walk requests (R247, R251, R253) -/

/-- The STATUS and DONE of a request that ends early, written back to its record in scratch (R247). -/
def State.writeBack (s : State) (core : Nat) (r : Request) (status : Nat) : State :=
  match s.team? r.team with
  | none => s
  | some t =>
    match t.quarterOn core with
    | none => s
    | some q =>
      let a := q.scratch r.recOff
      let b := q.scratch (r.recOff + 0x38)
      let w := s.readLocNat a 8
      let s := s.writeLocNat a 8 (w - w / 2 ^ 52 % 16 * 2 ^ 52 + status * 2 ^ 52)
      let x := s.readLocNat b 8
      s.writeLocNat b 8 (x - x % 2 ^ 24 + r.done % 2 ^ 24)

/-- A core without request `id` and its range locks (R255). -/
def Core.dropRequest (c : Core) (id : Nat) : Core :=
  { c with requests := c.requests.filter fun r => r.id ≠ id,
           locks := c.locks.filter fun l => l.owner ≠ .request id }

/-- What becomes of the ring of a DKIND 4 request that ends early: `keep` says that its slot passes to the issuing group, or is
published when that group has exited (R251); and the ring may close (R252). -/
def State.leaveRing (s : State) (core : Nat) (r : Request) (keep : Bool) : State :=
  if bits (dwordAt r.record 0) 61 59 ≠ 4 then s
  else
    let h := (dwordAt r.record 1).toNat % 16
    match s.team? r.team with
    | none => s
    | some t =>
      match t.ring? h with
      | none => s
      | some g =>
        let g := { g with waiters := g.waiters.filter (· ≠ .request core r.id) }
        let g := match r.slot with
          | some x =>
            if !keep then g
            else if t.live r.gidx then
              { g with writing := g.writing.map fun p => if p.1 = x then (x, .group r.gidx) else p }
            else g.publish x
          | none => g
        let t := t.setRing h g
        s.setTeam r.team (closeRings s t r.team t.roleExited)

/-- A request ended early with a STATUS (R247); a window's copy makes its window FAILED (R253). -/
def State.endRequest (s : State) (core : Nat) (r : Request) (status : Nat) (keep : Bool := true) : State :=
  let s := s.modCore core fun c => c.dropRequest r.id
  match r.window with
  | some h =>
    s.modTeam r.team fun t =>
      match t.window? h with
      | some w => t.setWindow h { w with state := .failed }
      | none => t
  | none => (s.writeBack core r status).leaveRing core r keep

/-- Every request of a core that `p` picks, ended early. -/
def State.endRequests (s : State) (core status : Nat) (keep : Bool) (p : Request → Bool) : State :=
  ((s.core core).requests.filter p).foldl (fun s r => s.endRequest core r status keep) s

/-! ## Ends of loops (R281, R289, R304) -/

/-- A loop ended: its entry of the lock table freed and its steps done recorded for its tile (R284, R304). -/
def State.endLoop (s : State) (core : Nat) (l : Loop) : State :=
  let s := s.modCore core fun c =>
    { c with loops := c.loops.filter fun x => x.id ≠ l.id, locks := c.locks.filter fun e => e.owner ≠ .loop l.id }
  s.modQuarter l.team core fun q => { q with steps := q.steps.set l.tile (l.early.getD l.done) }

/-! ## Events and mailboxes of a group that ends (R390) -/

/-- Monitors that serve a group, or one event slot of it, freed. -/
def State.freeMonitors (s : State) (team gidx : Nat) (p : MonTarget → Bool) : State :=
  { s with monitors := s.monitors.filter fun m => !(m.team = team && m.gidx = gidx && p m.target) }

/-! ## Asynchronous traps (R286, R399, R410) -/

/-- The group that takes an asynchronous trap of a team's work: its own, or the lowest live one. -/
def Team.takerOf (t : Team) (gidx : Nat) : Option Nat := if t.live gidx then some gidx else t.liveGroups.head?

/-- A trap held for a group; none when it is not resident. -/
def State.holdTrap (s : State) (team gidx : Nat) (t : Trap) : State :=
  match s.groupKey team gidx with
  | some k => s.modGroup k fun g => { g with heldTraps := g.heldTraps ++ [t] }
  | none => s

/-- The stopped request of a team on a core that a held walk-fault trap speaks of (R410). -/
def State.stoppedBy (s : State) (core team : Nat) (t : Trap) : Option Request :=
  (s.core core).requests.find? fun r => r.team == team && (match r.phase with
    | .stopped a i => a == t.addr && i == t.info
    | _ => false)

/-- An asynchronous trap raised at the group that owns the work, or at the team's lowest live group; with none live a bound audit is over,
and of the others the report alone is made, after a walk-fault's request is cancelled with STATUS 4 (R286, R314, R410). -/
def State.raiseHeld (s : State) (core team gidx : Nat) (t : Trap) : State :=
  match s.team? team with
  | none => s
  | some x =>
    match x.takerOf gidx with
    | some g => s.holdTrap team g { t with core }
    | none =>
      let report (s : State) : State := s.deviceReport
        { code := t.code, src := if t.code = 0x20 then 1 else 0, ctx := x.ctx, addr := t.addr, info := t.info, team := x.id, core }
      if t.code = 0x0E then s
      else if t.code = 0x20 then
        match s.stoppedBy core team t with
        | some r => report (s.endRequest core r 4)
        | none => s
      else report s

/-- The traps held for a group that has ended, each of the core whose engine raised it: they pass on, but for those of a request that ended with it
(R286, R410, R412). -/
def State.passHeld (s : State) (team gidx : Nat) (ts : List Trap) : State :=
  ts.foldl (fun s t => if t.code = 0x20 && (s.stoppedBy t.core team t).isNone then s else s.raiseHeld t.core team gidx t) s

/-! ## The end of a group (R201, R252, R368, R371, R390, R412) -/

/-- A team whose route tags are checked at front cycle `now`: a phase in which every live group has arrived completes 40 front cycles
later (R371). -/
def Team.tagCheck (t : Team) (now : Nat) : Team :=
  { t with tags := t.tags.map fun x =>
      if x.due.isNone && !t.liveGroups.isEmpty && t.liveGroups.all (fun g => x.arrived.contains g) then { x with due := some (now + 40) }
      else x }

/-- A team whose group `g` no longer waits for a free slot of any ring. -/
def Team.leaveQueues (t : Team) (g : Nat) : Team :=
  { t with regions := t.regions.map fun r =>
      match r.body with
      | .ring x => { r with body := .ring { x with waiters := x.waiters.filter (· ≠ .group g) } }
      | .window _ => r }

/-- A team whose retake eligibility is revoked (R417). -/
def State.revoke (s : State) (team : Nat) : State := s.modTeam team fun t => { t with revoked := true }

/-- What an exit and an abnormal end share: slots disarmed, monitors freed, tokens discarded, barrier participation left, the fate
recorded, rings closed, held traps passed on, and loops stopped: its loops with scales, and with the team's last group every loop of the
team (R289). `fate` is how it ends. -/
def State.endGroup (s : State) (key : Nat) (fate : Fate) : State :=
  let s := s.performLate key fun _ => true
  match s.group? key with
  | none => s
  | some g =>
    match s.team? g.team with
    | none => s
    | some t =>
      let core := keyCore key
      let s := s.freeMonitors g.team g.gidx fun _ => true
      let s := match t.quarterOn core with
        | some q => s.barLeave q g.barriers
        | none => s
      let s := s.setGroup key { g with slotA := none, slotB := none, stack := [], events := List.replicate 16 {}, mailbox := [],
                                       barriers := [], perfReq := none, heldTraps := [], heldUntil := none, entering := none, suspended := false,
                                       outstanding := [], mode := .normal }
      let t' : Team := { t with fates := t.fates.set g.gidx fate }
      let last := t'.liveGroups.isEmpty
      let stops (l : Loop) : Bool := l.team == g.team && (last || (l.gidx == g.gidx && l.sc))
      let s := (t.quarters.map Quarter.core).foldl (fun s k => s.modCore k fun c =>
        { c with loops := c.loops.map fun l => if stops l then { l with stopReq := true } else l }) s
      let s := s.modTeam g.team fun t => ({ t with fates := t.fates.set g.gidx fate }).tagCheck (s.core core).cycle
      let s := s.modTeam g.team fun t => closeRings s (t.leaveQueues g.gidx) g.team t.roleExited
      s.passHeld g.team g.gidx g.heldTraps

/-- A group that has executed EXIT, or left as a REGROUP donor (R25, R198, R201). -/
def State.exitGroup (s : State) (key : Nat) : State := s.endGroup key .exited

/-- The rings of a role become BROKEN: the requests into them are cancelled at their step boundary, with nothing left to publish
(R251, R252). -/
def State.breakRings (s : State) (team role : Nat) : State :=
  match s.team? team with
  | none => s
  | some t =>
    let owned (h : Nat) : Bool := match t.ring? h with
      | some g => g.owner == role
      | none => false
    let s := s.setTeam team
      { t with regions := t.regions.map fun r =>
          match r.body with
          | .ring g => if g.owner = role then { r with body := .ring { g with state := .broken } } else r
          | .window _ => r }
    t.quarters.foldl (fun s q =>
      s.endRequests q.core 4 false fun r =>
        r.team == team && bits (dwordAt r.record 0) 61 59 == 4 && owned ((dwordAt r.record 1).toNat % 16)) s

/-- The abnormal end of a group (R412). -/
def State.abendGroup (s : State) (key : Nat) : State :=
  match s.group? key with
  | none => s
  | some g =>
    let live := match s.team? g.team with
      | some t => t.live g.gidx
      | none => false
    if !live then s
    else
      let s := s.modTeam g.team fun t => { t with abend := (t.abend + 1) % 2 ^ 32, lastAbend := g.gidx }
      let s := s.breakRings g.team g.role
      let s := s.endRequests (keyCore key) 4 true fun r => r.team == g.team && r.gidx == g.gidx
      s.endGroup key .abnormal

/-- Every group of a team that `p` picks ends abnormally. -/
def State.abendTeams (s : State) (p : Nat → Team → Bool) : State :=
  let picked := s.teams.filter fun (k, t) => p k t
  let keys := (s.groups.filter fun (_, g) => picked.any fun (k, _) => k == g.team).map fun (k, _) => k
  keys.foldl (fun s k => s.abendGroup k) s

/-- A team that is not resident, dealt or saved, ends with every group it has (R411, R412). -/
def State.abendAway (s : State) (k : Nat) (t : Team) : State :=
  let left : Nat := match t.phase with
    | .saved _ => t.liveGroups.length
    | _ => cardGroupSum t.card
  let s := s.setTeam k { t with phase := .ended, fates := t.fates.map fun f => if f = .live then .abnormal else f,
                                abend := (t.abend + left) % 2 ^ 32 }
  { s with pending := s.pending.filter (· ≠ k), images := s.images.filter fun m => m.team ≠ k,
           monitors := s.monitors.filter fun m => m.team ≠ k }

/-- Every team of a context that is not resident ends. -/
def State.abendAbsent (s : State) (ctx : Nat) : State :=
  (s.teams.filter fun p : Nat × Team => p.2.ctx = ctx && (match p.2.phase with | .dealt | .saved _ => true | _ => false)).foldl
    (fun (s : State) (p : Nat × Team) => s.abendAway p.1 p.2) s

/-! ## Queue records (R50) -/

/-- Physical address of a queue's state record (R50). -/
def State.queueRec (s : State) (q : Nat) : Nat := s.csr.qtbase.toNat + q * 64

/-- Doubleword `k` of a queue's record. -/
def State.queueWord (s : State) (q k : Nat) : DWord := BitVec.ofNat 64 (s.readPhys (s.queueRec q + 8 * k) 8)

/-- Doubleword `k` of a queue's record written. -/
def State.setQueueWord (s : State) (q k : Nat) (x : DWord) : State := s.writePhys (s.queueRec q + 8 * k) 8 x.toNat

/-- A field of a doubleword replaced. -/
def setField (x : DWord) (hi lo v : Nat) : DWord :=
  BitVec.ofNat 64 (x.toNat - bits x hi lo * 2 ^ lo + v % 2 ^ (hi + 1 - lo) * 2 ^ lo)

/-- A queue stopped with a STOPCODE (R50). -/
def State.stopQueue (s : State) (q code : Nat) : State :=
  let w := s.queueWord q 1
  s.setQueueWord q 1 (setField (setField w 23 23 1) 31 28 code)

/-- A failed grid of a queue: FAIL, and FAILIDX if FAIL was 0 (R26, R52). -/
def State.failGrid (s : State) (q idx : Nat) : State :=
  if 4096 ≤ q then s
  else
    let w := s.queueWord q 1
    let w' := if bit w 22 then w else setField w 63 32 idx
    s.setQueueWord q 1 (setField w' 22 22 1)

/-! ## A fatal context (R411) -/

/-- The report of a fatal context, waiting for permit 4 of its core when that is held (R411). -/
def State.fatalReport (s : State) (core : Nat) (ctx : Nat) (t : Trap) (team gidx : Nat) : State :=
  match s.ringLog with
  | none => s.dropReport
  | some _ =>
    if (s.core core).permits.getD 4 false || !s.ringRoom then
      s.modCore core fun c => { c with fatalWaiting := c.fatalWaiting ++ [(ctx, t, team, gidx)] }
    else
      (s.setPermit core 4 true).appendReport
        { code := 0x30, src := 0, token := core * 8 + 4, ctx, addr := t.addr, pc := t.tepc, info := BitVec.ofNat 32 t.code,
          tmask := t.tmask, team, core, group := gidx, exmask := t.exmask }

/-- A grid of a context that has become fatal fails: a team of it has ended abnormally, or it has undealt records (R26, R55). -/
def State.gridFails (s : State) (ctx : Nat) (g : Grid) : Bool :=
  g.ctx = ctx && (decide (g.dealt < cardArgCount g.card) ||
    s.teams.any fun p : Nat × Team => p.2.ctx = ctx && p.2.cardIdx = g.cardIdx && p.2.abend ≠ 0)

/-- The grids of a fatal context that fail; the first of them is the card that FAILIDX names (R26, R50, R52, R55). -/
def State.failGrids (s : State) (ctx : Nat) : State :=
  let fails := s.gridFails ctx
  let s := match s.grids.find? fails with
    | none => s
    | some g => s.failGrid ctx g.cardIdx
  { s with grids := s.grids.map fun g => if fails g then { g with failed := true } else g }

/-- A context becomes fatal (R411): every group of every team of it ends abnormally, the grids of those teams and those with undealt records fail, its queue
stops with code 10 and FAIL, the picture context aborts every active view, parked contributions of its teams are discarded (R288), and
the report is made. -/
def State.contextFatal (s : State) (key : Nat) (t : Trap) : State :=
  match s.group? key with
  | none => s
  | some g =>
    match s.team? g.team with
    | none => s
    | some team =>
      let ctx := team.ctx
      let ofCtx (id : Nat) : Bool := match s.team? id with
        | some x => x.ctx == ctx
        | none => false
      let lost := (s.drains.filter fun d => d.parked && ofCtx d.team).map fun d => d.team
      let s := { s with drains := s.drains.filter fun d => !(d.parked && ofCtx d.team),
                        teams := s.teams.map fun p : Nat × Team => if p.1 ∈ lost then (p.1, { p.2 with discarded := true }) else p }
      let s := (s.abendTeams fun _ x => x.ctx == ctx).abendAbsent ctx
      let s := if ctx < 4096 then
          let s := (s.failGrids ctx).stopQueue ctx 10
          s.setQueueWord ctx 1 (setField (s.queueWord ctx 1) 22 22 1)
        else (s.views.filter View.active).foldl
          (fun s v => s.abortView v) s
      s.fatalReport (keyCore key) ctx t team.id g.gidx

/-! ## Taking an exception (R393 to R402, R404) -/

/-- A cause taken at the user vector (R393). -/
def userVector (code : Nat) : Bool :=
  code ∈ [0x01, 0x02, 0x03, 0x05, 0x06, 0x07, 0x08, 0x09, 0x0A, 0x0B, 0x0C, 0x0E, 0x10, 0x19]

/-- A cause that is reported and takes a permit (R393). -/
def reportedCause (code : Nat) : Bool := code ∈ [0x0D, 0x18, 0x1A, 0x1B, 0x1C, 0x1D, 0x20]

/-- TCAUSE (R394). -/
def tcauseOf (esc : Bool) (permit : Option Nat) (code : Nat) : Word :=
  BitVec.ofNat 32 (esc.toNat * 2 ^ 15 + (match permit with | some k => 2 ^ 14 + k * 2 ^ 11 | none => 0) + code)

/-- The check of R120 on a computed target. -/
def targetBad (a : DWord) : Bool := a.toNat % 64 ≠ 0 || Config.vaLimit ≤ a.toNat

/-- The frame a trap writes (R396). -/
def Group.frameOf (g : Group) (b : Bool) (t : Trap) (cause : Word) : Frame :=
  let g := g.setSlot b ((g.slot b).map fun p => { p with cont := none })
  { slotA := g.slotA, slotB := g.slotB, inB := b, stackDepth := g.stack.length, tepc := t.tepc, tmask := t.tmask,
    exmask := t.exmask, tcause := cause, taddr := t.addr, tinfo := t.info, mode := g.mode }

/-- The lanes of the part that trapped: the issuing part, or slot A's for an asynchronous cause (R396). -/
def Group.trapLanes (g : Group) (b : Bool) : Word :=
  match g.slot b with
  | some p => p.mask
  | none => match g.slot (!b) with
    | some p => p.mask
    | none => 0

/-- A group in a handler: one part of depth 0 in slot A with the trapping part's active lanes (R396). TACTION is 0 (R400). -/
def Group.enter (g : Group) (m : Mode) (pc : DWord) (lanes : Word) : Group :=
  { g with mode := m, slotA := some { pc, mask := lanes, depth := 0 }, slotB := none, taction := 0, suspended := false }

/-- Entry at the supervisor vector, once any permit is held (R396). A group that enters a handler leaves the ring queues in which its
parts waited; they arrive again when their words are issued again (R251). An SVEC of 0 or misaligned is context fatal (R411). -/
def State.enterSupervisor (s : State) (key : Nat) (b : Bool) (t : Trap) (esc : Bool) (permit : Option Nat) : State :=
  match s.group? key with
  | none => s
  | some g =>
    let svec := (s.core (keyCore key)).svec
    let g' := { g with sframe := g.frameOf b t (tcauseOf esc permit t.code), lastS := true }
    let s := s.modTeam g.team fun t => t.leaveQueues g.gidx
    let s := s.setGroup key (g'.enter .supervisor svec (g.trapLanes b))
    if svec = 0 || targetBad svec then s.contextFatal key t else s

/-- Entry at the user vector (R396). A misaligned TRAPVEC is a branch-alignment trap taken from user handler mode; the TEPC of its frame
is checked when TRET returns there. -/
def State.enterUser (s : State) (key : Nat) (b : Bool) (t : Trap) : State :=
  match s.group? key with
  | none => s
  | some g =>
    let g' := { g with uframe := g.frameOf b t (tcauseOf false none t.code), lastS := false }
    let s := s.modTeam g.team fun t => t.leaveQueues g.gidx
    let s := s.setGroup key (g'.enter .user g.trapvec (g.trapLanes b))
    if targetBad g.trapvec then
      (s.enterSupervisor key false { code := 0x05, addr := g.trapvec, tepc := g.trapvec, exmask := 0, tmask := 0 } true none).modGroup key
        fun g => { g with sframe := { g.sframe with rewritten := true } }
    else s

/-- The report of a trap that holds permit `k` (R396, R407); no word trapped for an asynchronous cause. -/
def State.trapReport (s : State) (key : Nat) (t : Trap) (k : Nat) : State :=
  match s.group? key with
  | none => s
  | some g =>
    let (id, ctx) := match s.team? g.team with
      | some x => (x.id, x.ctx)
      | none => (0, 0)
    s.appendReport
      { code := t.code, src := if t.code = 0x20 then 1 else 0, token := keyCore key * 8 + k, ctx, addr := t.addr,
        pc := if t.code = 0x0D || t.code = 0x20 then 0 else t.tepc, info := t.info, tmask := t.tmask, team := id, core := keyCore key, group := g.gidx, exmask := t.exmask }

/-- The next back-off of a group that found no permit: it doubles up to 8,192 front cycles (R404). -/
def nextBackoff (n : Nat) : Nat := min (2 * n) 8192

/-- The slot parks for want of a permit, or of room in the fault ring, with none of its word's lanes performed (R404, R406). -/
def State.awaitPermit (s : State) (key : Nat) (b : Bool) : State :=
  let now := (s.core (keyCore key)).cycle
  s.modGroup key fun g =>
    { (g.setSlot b ((g.slot b).map fun p => { p with wait := some (.permit (now + g.backoff)) })) with
      backoff := nextBackoff g.backoff }

/-- No group at a higher position has taken a permit in the present front cycle, so this one may take the next (R447). -/
def State.permitAllows (s : State) (key : Nat) : Bool := (s.core (keyCore key)).permitPos ≤ keyPos key + 1

/-- TAKING AN EXCEPTION (R396, R402, R404). `before` is the state before the word, in which its slot parks when a reported cause
finds no permit; `s` holds what its performed lanes did. -/
def State.takeTrap (before s : State) (key : Nat) (b : Bool) (t : Trap) : State :=
  match s.group? key with
  | none => s
  | some g =>
    let user := userVector t.code
    let esc := user && (g.mode = .user || g.trapvec = 0)
    if g.mode = .supervisor then s.contextFatal key t
    else if reportedCause t.code && s.ringLog.isSome then
      match (s.core (keyCore key)).freePermit with
      | none => before.awaitPermit key b
      | some k =>
        let s := ((s.setPermit (keyCore key) k true).modCore (keyCore key) fun c => { c with permitPos := keyPos key + 1 }).modGroup key fun g =>
          { g with backoff := 256, tokens := (keyCore key * 8 + k) :: g.tokens }
        if s.ringRoom && !s.groups.any (fun p => keyCore p.1 == keyCore key && p.2.entering.isSome) then (s.trapReport key t k).enterSupervisor key b t esc (some k)
        else { s.modGroup key fun g => { g with entering := some { trap := t, slotB := b, esc, permit := k, since := s.fresh } } with
          fresh := s.fresh + 1 }
    else
      let s := if reportedCause t.code then s.dropReport else s
      if user && !esc then s.enterUser key b t else s.enterSupervisor key b t esc none

/-- A permit that a group took and gives back unused. -/
def State.giveBack (s : State) (key k : Nat) : State :=
  (s.setPermit (keyCore key) k false).modGroup key fun g => { g with tokens := g.tokens.filter (· ≠ keyCore key * 8 + k) }

/-- The handler entry that has waited for room in the fault ring; with the ring gone its report is discarded and takes no permit (R406). -/
def State.finishEntry (s : State) (key : Nat) : State :=
  match s.group? key with
  | none => s
  | some g =>
    match g.entering with
    | none => s
    | some e =>
      let s' := s.setGroup key { g with entering := none }
      if s.ringLog.isNone then (s'.giveBack key e.permit).dropReport.enterSupervisor key e.slotB e.trap e.esc none
      else if s.ringRoom then (s'.trapReport key e.trap e.permit).enterSupervisor key e.slotB e.trap e.esc (some e.permit)
      else s

/-! ## Returning from an exception (R400, R402, R203) -/

/-- A cause of the checks of R232, R253 and R256, whose word is reissued in EXMASK minus TMASK (R233, R400, R413). A word that could
not be fetched has not evaluated its guard, and is fetched again like any other (log 15). -/
def faultCause (code : Nat) : Bool := code ∈ [0x06, 0x08, 0x09, 0x19, 0x1A, 0x1B, 0x1C, 0x1D]

/-- The trapping part restored at TEPC: a fault's word is reissued in the lanes that did not perform, unless software moved TEPC;
a part whose wait still stands at TEPC waits on (R400). -/
def Frame.resume (f : Frame) (p : Part) : Part :=
  let code := f.tcause.toNat % 256
  if faultCause code && p.pc = f.tepc then { p with reissue := some (f.exmask &&& ~~~f.tmask), rows := f.tinfo.toNat }
  else if p.pc = f.tepc then p
  else p.goTo f.tepc

/-- The frame's parts, mode and stack depth restored (R400). -/
def Group.restore (g : Group) (f : Frame) : Group :=
  let (a, b) := if f.inB then (f.slotA, f.slotB.map f.resume) else (f.slotA.map f.resume, f.slotB)
  { g with slotA := a, slotB := b, mode := f.mode, stack := g.stack.drop (g.stack.length - f.stackDepth), ctxid := none }

/-! ## Held asynchronous traps (R399) -/

/-- The group is at a word boundary at which a held trap may be taken: in normal mode and not waiting for a permit (R399). -/
def Group.mayTakeHeld (g : Group) : Bool :=
  g.mode = .normal && !g.suspended && g.entering.isNone && !g.ended &&
  [g.slotA, g.slotB].all fun p => match p with
    | some x => (match x.wait with | some (.permit _) => false | _ => true)
    | none => true

/-- A held trap falls due at the group's next word boundary, so no further word issues before it is taken (R286, R399). -/
def Group.trapDue (g : Group) : Bool := !g.heldTraps.isEmpty && g.mayTakeHeld

/-! ## Words (R144, R146) -/

/-- The group, slot and team for which `exec` performs a word. -/
def State.issuing (s : State) : Option Issue :=
  match s.group? s.issuer with
  | none => none
  | some grp =>
    match grp.slot s.slotB, s.team? grp.team with
    | some part, some team => some { key := s.issuer, b := s.slotB, grp, part, team }
    | _, _ => none

/-- The state in which the word of a slot is performed. -/
def State.asIssuer (s : State) (key : Nat) (b : Bool) : State := { s with issuer := key, slotB := b }

/-- The issuing slot goes on at the next word. -/
def Group.advance (g : Group) (b : Bool) : Group :=
  g.setSlot b ((g.slot b).map fun p => p.goTo (p.pc + 8))

/-- The end of a word: the slot goes on, parks, or traps. -/
def State.commit (before : State) (i : Issue) : Done → State
  | .next s => s.modGroup i.key fun g => g.advance i.b
  | .moved s => s
  | .park w s => s.modGroup i.key fun g => g.setSlot i.b ((g.slot i.b).map fun p => { p with wait := some w })
  | .trap t s => before.takeTrap s i.key i.b t

/-- A program word: its meaning for the issuing group, then its end. -/
def onIssue (s : State) (f : Issue → Done) : Host.Outcome State Fault Refusal :=
  match s.issuing with
  | none => .fault .noIssuer
  | some i => .next (s.commit i (f i))

/-- An event of the table: it acts when it may occur; where it may not, nothing happens (log 7). -/
def onEvent (s : State) (f : Option State) : Host.Outcome State Fault Refusal := .next (f.getD s)

end Sys2Proof.Machine
end

