-- ==== Sys2Proof/Machine/Flags.lean ====
section
/-! DEFINITION. Flags, predicates and comparisons, and the shared shapes of words that compute in each lane
(R162, R163, R165, R174, R175, R180, R187). -/

namespace Sys2Proof.Machine

/-! ## Destinations under a type (R163) -/

/-- The registers a destination of a type writes. -/
def typeDests (wide : Bool) (d : Operand) : List Operand := if wide then [d, Operand.next d 1] else [d]

/-- An integer source under its type (R163, R169). -/
def Issue.int (i : Issue) (t : IntType) (o : Operand) (l : Nat) : Int :=
  match t with
  | .s32 => (i.src32 true o l).toInt
  | .n32 => (i.src32 false o l).toNat
  | .s64 => (i.src64 true o l).toInt
  | .n64 => (i.src64 false o l).toNat

/-- MIN and MAX of a type (R8). -/
def IntType.lo (t : IntType) : Int :=
  match t with
  | .s32 => -(2 ^ 31)
  | .s64 => -(2 ^ 63)
  | _ => 0

def IntType.hi (t : IntType) : Int :=
  match t with
  | .s32 => 2 ^ 31 - 1
  | .n32 => 2 ^ 32 - 1
  | .s64 => 2 ^ 63 - 1
  | .n64 => 2 ^ 64 - 1

/-- wrapsat of R169, before the result is stored modulo 2^w. -/
def wrapSat (t : IntType) (sat : Bool) (x : Int) : Int := if sat then clampInt (IntType.lo t) (IntType.hi t) x else x

/-- An integer stored in the lanes of `X` under a type, modulo 2^w. -/
def Group.putInt (g : Group) (wide : Bool) (d : Operand) (X : Word) (f : Nat → Int) : Group :=
  if wide then g.put64 d X fun l => BitVec.ofInt 64 (f l) else g.put32 d X fun l => BitVec.ofInt 32 (f l)

/-! ## Words that compute lane by lane -/

/-- A word that writes `ds` by `put`: the budget is checked before any lane is written (R110, R162). -/
def laneWord (s : State) (g : Guard) (ds : List Operand) (put : Issue → Word → Group → Group) :
    Host.Outcome State Fault Refusal :=
  onIssue s fun i =>
    let X := i.lanes g
    match i.budget X ds with
    | some t => .trap t s
    | none => .next (s.modGroup i.key (put i X))

/-- A word whose result is an integer under a type. -/
def intWord (s : State) (g : Guard) (wide : Bool) (d : Operand) (f : Issue → Nat → Int) : Host.Outcome State Fault Refusal :=
  laneWord s g (typeDests wide d) fun i X gr => gr.putInt wide d X (f i)

/-- A word whose result is 32 bits. -/
def wordWord (s : State) (g : Guard) (d : Operand) (f : Issue → Nat → Word) : Host.Outcome State Fault Refusal :=
  laneWord s g [d] fun i X gr => gr.put32 d X (f i)

/-- A word whose result is a bit pattern of the type's width. -/
def bitWord (s : State) (g : Guard) (t : IntType) (d : Operand) (f : Issue → Nat → Word) (f' : Issue → Nat → DWord) :
    Host.Outcome State Fault Refusal :=
  laneWord s g (typeDests t.is64 d) fun i X gr => if t.is64 then gr.put64 d X (f' i) else gr.put32 d X (f i)

/-! ## FFLAGS (R165) -/

/-- The flags signalled by the lanes of `X`, ORed. -/
def orFlags (X : Word) (f : Nat → Nat) : Nat := (lanesOf X).foldl (fun a l => a ||| f l) 0

/-- FFLAGS with flags ORed in. -/
def Group.addFlags (g : Group) (fl : Nat) : Group := { g with fflags := g.fflags ||| BitVec.ofNat 32 fl }

/-! ## Verdict operands (R166) -/

/-- The verdict-operand trap of the lowest executing lane in which `bad` holds (R166, R393). -/
def Issue.verdictTrap (i : Issue) (X : Word) (bad : Nat → Bool) : Option Trap :=
  match (lanesOf X).find? bad with
  | some l => some (i.trap 0x07 X (BitVec.ofNat 32 l))
  | none => none

/-- Some source of `os` read as FP32 is a verdict word in lane `l`. -/
def Issue.anyVerdict (i : Issue) (os : List Operand) (l : Nat) : Bool := os.any fun o => isVerdict (i.srcF o l)

/-- A word that computes a 32-bit value and flags in each lane: `os` are the operands tested for verdict words. -/
def floatWord (s : State) (g : Guard) (d : Operand) (os : List Operand) (f : Issue → Nat → Nat × Nat) :
    Host.Outcome State Fault Refusal :=
  onIssue s fun i =>
    let X := i.lanes g
    match i.verdictTrap X (i.anyVerdict os), i.budget X [d] with
    | some t, _ => .trap t s
    | none, some t => .trap t s
    | none, none =>
      .next (s.modGroup i.key fun gr =>
        (gr.put32 d X fun l => BitVec.ofNat 32 (f i l).1).addFlags (orFlags X fun l => (f i l).2))

/-! ## Comparisons and combination (R174, R175, R180) -/

/-- The combination of a predicate bit with a test. -/
def Comb.apply (c : Comb) (old t : Bool) : Bool :=
  match c with
  | .set => t
  | .and => old && t
  | .or => old || t

/-- The relation between two integers (R175). -/
def condInt (c : Cond) (a b : Int) : Bool :=
  match c with
  | .eq => a = b
  | .ne => a ≠ b
  | .lt => a < b
  | .le => a ≤ b
  | .gt => b < a
  | .ge => b ≤ a
  | .un => false
  | .ord => true

/-- The relation between two FP32 values (R180). -/
def condFloat (c : Cond) (a b : FVal) : Bool :=
  let un := a.isNan || b.isNan
  let lt := a.below false b
  let gt := b.below false a
  match c with
  | .eq => !un && !lt && !gt
  | .ne => un || lt || gt
  | .lt => lt
  | .le => !un && !gt
  | .gt => gt
  | .ge => !un && !lt
  | .un => un
  | .ord => !un

/-- The flags of FCMP (R180). -/
def condFlags (c : Cond) (a b : Word) : Nat :=
  let snan (x : Word) : Bool := (fmt32.read x.toNat).isSnan && !isVerdict x
  let qnan (x : Word) : Bool := (fmt32.read x.toNat).isNan && !(fmt32.read x.toNat).isSnan
  let order := match c with
    | .lt | .le | .gt | .ge => true
    | _ => false
  nvIf (snan a || snan b || (order && (qnan a || qnan b)))

/-- A predicate's bits combined with a test in the lanes of `X` (R175). -/
def Group.combPred (g : Group) (n : Nat) (cb : Comb) (X : Word) (t : Nat → Bool) : Group :=
  g.putPred n X fun l => Comb.apply cb ((g.pred n).getLsbD l) (t l)

end Sys2Proof.Machine
end

