-- ==== Sys2Proof/Machine/WalkOps.lean ====
section
/-! DEFINITION. Walk requests: the fields of a record and its checks, the elements of a tile, requests queued with their range
locks, and the start of a demand window's copy (R242 to R245, R250, R253, R255, R258). -/

namespace Sys2Proof.Machine

/-! ## A record (R243) -/

def recEsz (d : List DWord) : Nat := 2 ^ bits (dwordAt d 0) 63 62
def recDkind (d : List DWord) : Nat := bits (dwordAt d 0) 61 59
def recCkind (d : List DWord) : Nat := bits (dwordAt d 0) 58 57
def recMc (d : List DWord) : Bool := bit (dwordAt d 0) 56
def recSrc (d : List DWord) : Nat := bits (dwordAt d 0) 48 0
def recDst (d : List DWord) : Nat := bits (dwordAt d 1) 48 0
def recComp (d : List DWord) : Nat := bits (dwordAt d 2) 48 0

/-- The strides of dimensions 0 to 3 in bytes. -/
def recStride (d : List DWord) (k : Nat) : Int :=
  match k with
  | 0 => recEsz d
  | 1 => (hi32 (dwordAt d 3)).toInt
  | 2 => (lo32 (dwordAt d 3)).toInt
  | _ => (hi32 (dwordAt d 4)).toInt

/-- Field k of a doubleword of four 10-bit fields. -/
def quadField (x : DWord) (k : Nat) : Nat := bits x (63 - 10 * k) (54 - 10 * k)

def recExt (d : List DWord) (k : Nat) : Nat := quadField (dwordAt d 5) k
def recLo (d : List DWord) (k : Nat) : Nat := quadField (dwordAt d 6) k
def recHi (d : List DWord) (k : Nat) : Nat := quadField (dwordAt d 7) k
def recMcMask (d : List DWord) : Nat := bits (dwordAt d 5) 23 8
def recMcBase (d : List DWord) : Nat := bits (dwordAt d 5) 7 0
def recMcSeq (d : List DWord) : Nat := bits (dwordAt d 6) 23 8

/-- T, the request's byte count. -/
def recBytes (d : List DWord) : Nat := recExt d 0 * recExt d 1 * recExt d 2 * recExt d 3 * recEsz d

/-- The fill of one element (R244). -/
def recFill (d : List DWord) : List Byte :=
  let f := (lo32 (dwordAt d 4)).toNat
  toBytes (recEsz d) (f + f * 2 ^ 32)

/-- Members of a multicast set: their cores, ascending (R250). -/
def mcCores (d : List DWord) : List Nat :=
  ((List.range 16).filter fun i => (recMcMask d).testBit i).map fun i => recMcBase d + i

/-- The record at a scratch offset of a quarter. -/
def State.readRecord (s : State) (q : Quarter) (off : Nat) : List DWord :=
  (List.range 8).map fun k => BitVec.ofNat 64 (s.readLocNat (q.scratch (off + 8 * k)) 8)

/-! ## Elements (R244) -/

/-- Index k of the element at dense place `x`. -/
def recIndex (d : List DWord) (x k : Nat) : Nat :=
  let below := ((List.range k).map (recExt d)).foldl (· * ·) 1
  x / below % recExt d k

/-- Virtual address of the element at dense place `x`, modulo 2^64; none outside the bounds. -/
def recElement (d : List DWord) (x : Nat) : Option Nat :=
  if [0, 1, 2, 3].all fun k => recLo d k ≤ recIndex d x k && recIndex d x k < recHi d k then
    some (((recSrc d : Int) + ([0, 1, 2, 3].map fun k => (recIndex d x k : Int) * recStride d k).sum) % 2 ^ 64).toNat
  else none

/-! ## Operand slots of a team (R277) -/

/-- Physical slot that backs logical slot `j`. -/
def Quarter.slot? (q : Quarter) (j : Nat) : Option Nat := (q.claims.find? fun c => c.1 == j).map fun c => c.2

/-- Window offset of a byte of operand memory at a logical offset (R115, R277). -/
def Quarter.opOffset (q : Quarter) (a : Nat) : Option Nat := (q.slot? (a / 8192)).map fun p => 0x100000 + p * 8192 + a % 8192

/-! ## Checks of a record (R258) -/

/-- The DKIND conditions of R245 and R250. -/
def destBad (s : State) (i : Issue) (d : List DWord) : Bool :=
  let dst := recDst d
  let T := recBytes d
  match recDkind d with
  | 0 => Config.scrBase ≤ dst
  | 1 => i.alloc < dst + T
  | 2 =>
    match i.team.quarterOn i.core with
    | some q => 2 ^ 19 ≤ dst || !((List.range ((dst + T - 1) / 8192 + 1 - dst / 8192)).all fun k => (q.slot? (dst / 8192 + k)).isSome)
    | none => true
  | 3 =>
    let here := match s.groupKey i.grp.team (dst % 64) with
      | some k => keyCore k == i.core
      | none => false
    (dst / 64 % 4 ≠ 0) || 2 ^ 16 ≤ dst || !here || 192 < dst / 256 % 256 + ceilDiv T 128
  | _ =>
    match i.team.ring? dst with
    | some r => r.slotSz < T
    | none => true

/-- A record that breaks R243 to R245 or R250 (R258). -/
def recordBad (s : State) (i : Issue) (d : List DWord) : Bool :=
  let esz := recEsz d
  let w (k hi lo : Nat) : Bool := bits (dwordAt d k) hi lo ≠ 0
  let dims := [0, 1, 2, 3]
  w 0 55 49 || w 1 63 49 || w 2 63 49 || w 6 7 0 || w 7 23 0 || 5 ≤ recDkind d || recCkind d = 3 ||
  (recCkind d = 0 && recComp d ≠ 0) || recSrc d % esz ≠ 0 || (recDkind d < 3 && recDst d % esz ≠ 0) ||
  dims.any (fun k => recStride d k % (esz : Int) ≠ 0) || dims.any (fun k => recExt d k = 0) ||
  dims.any (fun k => recHi d k < recLo d k || recExt d k < recHi d k) || 8388608 < recBytes d || destBad s i d ||
  (recCkind d = 1 && (recComp d % 16 ≠ 0 || i.alloc < recComp d + 16)) || (recCkind d = 2 && recComp d % 8 ≠ 0) ||
  (recMc d && ((recDkind d ≠ 1 && recDkind d ≠ 2) || i.core ∉ mcCores d || (mcCores d).any fun c => 215 < c))

/-! ## Range locks of a request (R255) -/

/-- The virtual range [lo, hi] of a source: its scratch offsets, and its virtual addresses below and above the aperture (R217, R255). -/
def splitRange (asid team lo hi : Nat) : List LockRange :=
  let part (space : LockSpace) (base a b : Nat) : List LockRange :=
    if max lo a ≤ min hi b then [{ space, lo := max lo a - base, hi := min hi b - base, dest := false }] else []
  part (.virt asid) 0 0 (Config.scrBase - 1) ++ part (.scratch team) Config.scrBase Config.scrBase (Config.vaLimit - 1) ++
    part (.virt asid) 0 Config.vaLimit (max hi Config.vaLimit)

/-- The source range, when some element lies inside the bounds: from the least to the greatest element address modulo 2^64, plus esz - 1. -/
def sourceRange (s : State) (team : Nat) (t : Team) (d : List DWord) : List LockRange :=
  if [0, 1, 2, 3].any fun k => recHi d k ≤ recLo d k then []
  else
    let span (k : Nat) : Int × Int :=
      let a := (recLo d k : Int) * recStride d k
      let b := ((recHi d k : Int) - 1) * recStride d k
      (min a b, max a b)
    let first := (recSrc d : Int) + ([0, 1, 2, 3].map fun k => (span k).1).sum
    let last := (recSrc d : Int) + ([0, 1, 2, 3].map fun k => (span k).2).sum
    let p : Nat × Nat :=
      if first / 2 ^ 64 = last / 2 ^ 64 then ((first % 2 ^ 64).toNat, (last % 2 ^ 64).toNat)
      else
        let l := (List.range (recBytes d / recEsz d)).filterMap (recElement d)
        (l.foldl min (2 ^ 64), l.foldl max 0)
    splitRange (s.ctxAsid t.ctx) team p.1 (p.2 + recEsz d - 1)

/-- The destination range; that of DKIND 4 is added when its slot is acquired. -/
def destRange (s : State) (team : Nat) (t : Team) (d : List DWord) : List LockRange :=
  let hi := recDst d + recBytes d - 1
  match recDkind d with
  | 0 => [{ space := .virt (s.ctxAsid t.ctx), lo := recDst d, hi, dest := true }]
  | 1 => [{ space := .scratch team, lo := recDst d, hi, dest := true }]
  | _ => []

/-- A request takes an entry of the lock table. -/
def takesLock (s : State) (team : Nat) (t : Team) (d : List DWord) : Bool :=
  recDkind d = 4 || !(destRange s team t d ++ sourceRange s team t d).isEmpty

/-- A request to a group's register window writes some register of [a, b]: an outstanding write until it ends (R245). -/
def Request.fills (r : Request) (g : Group) (a b : Nat) : Bool :=
  let f := recDst r.record / 256 % 256
  r.team == g.team && r.window.isNone && recDkind r.record == 3 && recDst r.record % 64 == g.gidx &&
    overlaps a b f (f + ceilDiv (recBytes r.record) 128 - 1)

/-! ## Queuing -/

/-- The lowest free request number of a core. -/
def Core.freeRequest (c : Core) : Nat := ((List.range 256).find? fun n => c.requests.all fun r => r.id ≠ n).getD 256

/-- The lowest number that names no request of a core (R410). -/
def Core.freeNumber (c : Core) : Nat := ((List.range 256).find? fun n => c.requests.all fun r => r.num ≠ n).getD 256

/-- A request queued, with its locks and, for DKIND 4, its place among the ring's free-acquires (R251, R255, R257). -/
def State.queueRequest (s : State) (core team gidx off : Nat) (d : List DWord) (done : Nat) : State :=
  match s.team? team with
  | none => s
  | some t =>
    let id := (s.core core).freeRequest
    let lock : Lock := { owner := .request id, ranges := destRange s team t d ++ sourceRange s team t d }
    let s := s.modCore core fun c =>
      { c with requests := c.requests ++ [{ id, num := c.freeNumber, team, gidx, recOff := off, record := d, done, member := core }],
               locks := if takesLock s team t d then c.locks ++ [lock] else c.locks }
    if recDkind d = 4 then
      let h := recDst d % 16
      s.modTeam team fun t =>
        match t.ring? h with
        | some r => t.setRing h { r with waiters := r.waiters ++ [.request core id] }
        | none => t
    else s

/-- A demand window's copy starts (R253): it registers no lock, and waits for a place in the engine. -/
def State.startCopy (s : State) (core team gidx h : Nat) : State :=
  match s.team? team with
  | none => s
  | some t =>
    match t.window? h with
    | none => s
    | some w =>
      let c := s.core core
      if w.state ≠ .absent || 256 ≤ c.requests.length then s
      else
        let s := s.setTeam team (t.setWindow h { w with state := .copying, copies := w.copies + 1 })
        s.modCore core fun c =>
          { c with requests := c.requests ++ [{ id := c.freeRequest, num := c.freeNumber, team, gidx, recOff := 0, record := w.record, window := some h }] }

/-- The demand windows that loads of a word touch start their copies (R253): `va` gives a lane's address. -/
def State.startCopies (s : State) (i : Issue) (X : Word) (n : Nat) (va : Nat → DWord) : State :=
  (lanesOf X).foldl (fun s l =>
    match apertureOff (va l).toNat, s.team? i.grp.team with
    | some o, some t => (t.windowsAt i.core o n).foldl (fun s p => s.startCopy i.core i.grp.team i.grp.gidx p.1.handle) s
    | _, _ => s) s

end Sys2Proof.Machine
end

