-- ==== Sys2Proof/Machine/Cache.lean ====
section
/-! DEFINITION. The L1 lines of the cores: which words each holds valid and dirty. `State.mem` is always the coherent contents, so a
line changes no result (R112, R227 to R231, R239, R357). -/

namespace Sys2Proof.Machine

/-- Cache ways of a core (R112): what scratch and the spill reserve leave of its 24. -/
def Core.cacheWays (c : Core) : Nat := 24 - c.scratchWays - c.spillWays

/-- The words of a line that `n` bytes at physical address `pa` touch. -/
def lineWords (pa n : Nat) : Word := maskOf fun w => pa % 128 / 4 ≤ w && w ≤ (pa % 128 + n - 1) / 4

/-- A line put in front of a core's lines; its set keeps as many as there are cache ways, the least recently used dropped (R227). -/
def Core.putLine (c : Core) (x : L1Line) : Core :=
  let rest := c.l1.filter fun y => y.line ≠ x.line
  let same := rest.filter fun y => y.line % 256 = x.line % 256
  let keep := same.take (c.cacheWays - 1)
  let kept := rest.filter fun y => y.line % 256 ≠ x.line % 256 || keep.contains y
  { c with l1 := if c.cacheWays = 0 then c.l1 else x :: kept }

/-- A core's line. -/
def Core.line? (c : Core) (line : Nat) : Option L1Line := c.l1.find? fun y => y.line == line

/-- Every other core's copy of a line changed; `f` answers none to invalidate it (R230). -/
def State.snoop (s : State) (core line : Nat) (f : L1Line → Option L1Line) : State :=
  { s with cores := s.cores.map fun p : Nat × Core =>
      if p.1 = core then p
      else (p.1, { p.2 with l1 := p.2.l1.filterMap fun y => if y.line = line then f y else some y }) }

/-- Ways of an L2 set, and sets of a slice: 2 MiB of 128-byte lines, 16-way (R2). -/
def l2Ways : Nat := 16
def l2Sets : Nat := 1024

/-- The home of a line among the 256 L2 slices (R230). -/
def homeSlice (line : Nat) : Nat := Config.l2Slice line % 256

/-- The slice and the set in which a line is held (R2, R230; log 86). -/
def l2Place (line : Nat) : Nat × Nat := (homeSlice line, Config.l2Set line % l2Sets)

/-- A line brought into its set of its home slice; the least recently used beyond the set's ways leaves (R2, R230; log 86). -/
def State.fillL2 (s : State) (line : Nat) : State :=
  let rest := s.l2.filter (· ≠ line)
  let keep := (rest.filter fun y => l2Place y = l2Place line).take (l2Ways - 1)
  { s with l2 := line :: rest.filter fun y => keep.contains y || l2Place y ≠ l2Place line }

/-- States of the directory's protocol (R230). -/
inductive Moesi where
  | modified | owned | exclusive | shared | invalid
  deriving DecidableEq, Repr

/-- What the directory at a line's home records of a core's copy: the snoop filter tracks every copy that an L1 holds (R230). -/
def State.directory (s : State) (line core : Nat) : Moesi :=
  let other := s.cores.any fun p : Nat × Core => p.1 ≠ core && p.2.l1.any fun y => y.line = line
  match (s.core core).l1.find? fun y => y.line == line with
  | none => .invalid
  | some y => if y.dirty ≠ 0 then if other then .owned else .modified else if other then .shared else .exclusive

/-- A line leaves the snoop filter: it is first written back and invalidated in its L1 (R230). -/
def State.evictLine (s : State) (line : Nat) : State := s.recall (128 * line) 128

/-- A line written back: its dirty words merged at the home (R229). -/
def L1Line.written (y : L1Line) : L1Line := { y with dirty := 0 }

/-- A load of `n` bytes at `pa` (R228): a merging fill makes every word valid; a load that does not allocate leaves the core's lines. -/
def State.l1Load (s : State) (core pa n : Nat) (alloc : Bool) : State :=
  let line := pa / 128
  let s := (s.snoop core line fun y => some y.written).fillL2 line
  if !alloc then s
  else
    s.modCore core fun c =>
      match c.line? line with
      | some y => c.putLine (if y.valid &&& lineWords pa n = lineWords pa n then y else { y with valid := 0xFFFFFFFF })
      | none => c.putLine { line, valid := 0xFFFFFFFF, dirty := 0 }

/-- A store of `n` bytes at `pa` (R227, R228): ownership leaves every other core; the written words become valid and dirty. A store that
does not allocate updates a line that is present and is written through. -/
def State.l1Store (s : State) (core pa n : Nat) (alloc : Bool) : State :=
  let line := pa / 128
  let m := lineWords pa n
  let s := s.snoop core line fun _ => none
  s.modCore core fun c =>
    match c.line? line with
    | some y =>
      let valid := if n < 4 && y.valid &&& m ≠ m then 0xFFFFFFFF else y.valid ||| m
      if alloc then c.putLine { y with valid, dirty := y.dirty ||| m } else c.putLine { y with valid := if n < 4 then y.valid else valid }
    | none => if alloc then c.putLine { line, valid := if n < 4 then 0xFFFFFFFF else m, dirty := m } else c

/-- Before a far atomic the issuer's copy is written back and invalidated (R357). -/
def State.l1Far (s : State) (core pa : Nat) : State :=
  let s := s.snoop core (pa / 128) fun _ => none
  s.modCore core fun c => { c with l1 := c.l1.filter fun y => y.line ≠ pa / 128 }

/-- MEMT of the page of an address: true when it is cached in L1 (R222, R227). -/
def State.cachedPage (s : State) (core ctx va : Nat) : Bool :=
  match s.leafOf (some core) ctx va with
  | .ok (leaf, _) => bits leaf 11 10 = 0
  | .error _ => false

/-- A place in this device's DRAM, which the L1s may hold. -/
def Loc.physical? : Loc → Option Nat
  | .dram k => if k < Config.dramBytes then some k else none
  | .win _ _ => none

/-- The lines after a word's performed loads. -/
def State.cacheLoads (s : State) (i : Issue) (ps : List (Nat × Loc)) (n : Nat) (nl1 : Bool) (va : Nat → DWord) : State :=
  ps.foldl (fun s p =>
    match p.2.physical? with
    | some pa => s.l1Load i.core pa n (!nl1 && s.cachedPage i.core i.team.ctx (va p.1).toNat)
    | none => s) s

/-- The lines after a word's performed stores. -/
def State.cacheStores (s : State) (i : Issue) (ps : List (Nat × Loc)) (n : Nat) (nl1 : Bool) (va : Nat → DWord) : State :=
  ps.foldl (fun s p =>
    match p.2.physical? with
    | some pa => s.l1Store i.core pa n (!nl1 && s.cachedPage i.core i.team.ctx (va p.1).toNat)
    | none => s) s

end Sys2Proof.Machine
end

