-- ==== Sys2Proof/Decode.lean ====
section
/-! DEFINITION. Decoding of 64-bit instruction words (R124 to R142) and their encoding.
`parse` reads the fields of a word into a term; `decode` accepts the term when it is well formed and encodes to the word
again, so that every `zero` field is checked (R5, R142 checks 3 to 6). -/

namespace Sys2Proof

/-- Why a word is no instruction (R142 checks 3 to 6). -/
inductive DecodeError where
  /-- Checks 3 to 5: the illegal-instruction trap. -/
  | illegalInstruction
  /-- Check 6: the illegal-pair trap of R139. -/
  | illegalPair
  deriving DecidableEq, Repr

/-- The fields of a full word below its header (R127). -/
structure Fields where
  op : Nat
  gn : Nat
  gp : Nat
  d : Nat
  a : Nat
  b : Nat
  x : Nat
  deriving DecidableEq, Repr

/-- The fields of the word whose value is `n` (R127). -/
def Fields.ofNat (n : Nat) : Fields :=
  { op := n / 2 ^ 52 % 256, gn := n / 2 ^ 51 % 2, gp := n / 2 ^ 48 % 8, d := n / 2 ^ 40 % 256,
    a := n / 2 ^ 32 % 256, b := n / 2 ^ 24 % 256, x := n % 2 ^ 24 }

/-- The word of the fields, with a zero header (R127). -/
def Fields.toNat (f : Fields) : Nat :=
  f.op * 2 ^ 52 + f.gn * 2 ^ 51 + f.gp * 2 ^ 48 + f.d * 2 ^ 40 + f.a * 2 ^ 32 + f.b * 2 ^ 24 + f.x

/-! ## Operand codes and enumerations -/

namespace Special

def ofCode : Nat → Option Special
  | 0 => some .zero | 1 => some .lane | 2 => some .group | 3 => some .team | 4 => some .recidx
  | 5 => some .role | 6 => some .rgroup | 7 => some .lorigin | 8 => some .nactive
  | _ => none

def toNat : Special → Nat
  | .zero => 0 | .lane => 1 | .group => 2 | .team => 3 | .recidx => 4 | .role => 5 | .rgroup => 6 | .lorigin => 7
  | .nactive => 8

end Special

namespace Operand

/-- The operand of an 8-bit code other than IMM (R129). -/
def ofCode (c : Nat) : Option Operand :=
  if c < 0xC0 then some (.v c)
  else if c < 0xE0 then some (.s (c - 0xC0))
  else if c < 0xE9 then (Special.ofCode (c - 0xE0)).map .special
  else if c < 0xF0 then none
  else some (.inline (c - 0xF0))

/-- The 8-bit code of an operand (R129). -/
def code : Operand → Nat
  | .v n => n
  | .s n => 0xC0 + n
  | .special k => 0xE0 + k.toNat
  | .imm _ => 0xEF
  | .inline k => 0xF0 + k

end Operand

def IntType.ofCode : Nat → Option IntType
  | 0 => some .s32 | 1 => some .n32 | 2 => some .s64 | 3 => some .n64 | _ => none

def IntType.toNat : IntType → Nat
  | .s32 => 0 | .n32 => 1 | .s64 => 2 | .n64 => 3

def Rnd.ofCode : Nat → Rnd
  | 0 => .rne | 1 => .rz | 2 => .rdn | _ => .rup

def Rnd.toNat : Rnd → Nat
  | .rne => 0 | .rz => 1 | .rdn => 2 | .rup => 3

def NumType.ofCode : Nat → NumType
  | 0 => .s32 | 1 => .n32 | 2 => .s64 | 3 => .n64 | 4 => .f32 | 5 => .f16 | 6 => .bf16 | 7 => .f16x2 | 8 => .bf16x2
  | 9 => .e4m3 | 10 => .e5m2 | 11 => .e2m1 | 12 => .i8 | 13 => .n8 | 14 => .t2 | _ => .bs20

def NumType.toNat : NumType → Nat
  | .s32 => 0 | .n32 => 1 | .s64 => 2 | .n64 => 3 | .f32 => 4 | .f16 => 5 | .bf16 => 6 | .f16x2 => 7 | .bf16x2 => 8
  | .e4m3 => 9 | .e5m2 => 10 | .e2m1 => 11 | .i8 => 12 | .n8 => 13 | .t2 => 14 | .bs20 => 15

def Scope.ofCode : Nat → Option Scope
  | 0 => some .dflt | 1 => some .grp | 2 => some .team | 3 => some .dev | 4 => some .pod | 5 => some .sys | _ => none

def Scope.toNat : Scope → Nat
  | .dflt => 0 | .grp => 1 | .team => 2 | .dev => 3 | .pod => 4 | .sys => 5

def Ord.ofCode : Nat → Ord
  | 0 => .none | 1 => .acq | 2 => .rel | _ => .ar

def Ord.toNat : Ord → Nat
  | .none => 0 | .acq => 1 | .rel => 2 | .ar => 3

def Cond.ofCode : Nat → Cond
  | 0 => .eq | 1 => .ne | 2 => .lt | 3 => .le | 4 => .gt | 5 => .ge | 6 => .un | _ => .ord

def Cond.toNat : Cond → Nat
  | .eq => 0 | .ne => 1 | .lt => 2 | .le => 3 | .gt => 4 | .ge => 5 | .un => 6 | .ord => 7

def Comb.ofCode : Nat → Option Comb
  | 0 => some .set | 1 => some .and | 2 => some .or | _ => none

def Comb.toNat : Comb → Nat
  | .set => 0 | .and => 1 | .or => 2

def MonCond.ofCode : Nat → Option MonCond
  | 0 => some .eq | 1 => some .ne | 2 => some .geU | 3 => some .geS | 4 => some .gtU | 5 => some .gtS | _ => none

def MonCond.toNat : MonCond → Nat
  | .eq => 0 | .ne => 1 | .geU => 2 | .geS => 3 | .gtU => 4 | .gtS => 5

def MemSize.ofCode : Nat → Option MemSize
  | 0 => some .n8 | 1 => some .i8 | 2 => some .h16 | 3 => some .w32 | 4 => some .w64 | 5 => some .x4 | _ => none

def MemSize.toNat : MemSize → Nat
  | .n8 => 0 | .i8 => 1 | .h16 => 2 | .w32 => 3 | .w64 => 4 | .x4 => 5

def AtomOp.ofCode : Nat → AtomOp
  | 0 => .add32 | 1 => .add64 | 2 => .addF32 | 3 => .minS | 4 => .minN | 5 => .maxS | 6 => .maxN | 7 => .and
  | 8 => .or | 9 => .xor | 10 => .maxF32 | 11 => .exch32 | 12 => .exch64 | 13 => .cas32 | 14 => .cas64 | _ => .minF32

def AtomOp.toNat : AtomOp → Nat
  | .add32 => 0 | .add64 => 1 | .addF32 => 2 | .minS => 3 | .minN => 4 | .maxS => 5 | .maxN => 6 | .and => 7
  | .or => 8 | .xor => 9 | .maxF32 => 10 | .exch32 => 11 | .exch64 => 12 | .cas32 => 13 | .cas64 => 14 | .minF32 => 15

def PmovDir.ofCode : Nat → PmovDir
  | 0 => .tomask | 1 => .frommask | 2 => .tobool | _ => .frombool

def PmovDir.toNat : PmovDir → Nat
  | .tomask => 0 | .frommask => 1 | .tobool => 2 | .frombool => 3

def VoteMode.ofCode : Nat → VoteMode
  | 0 => .ballot | 1 => .any | 2 => .all | _ => .uni

def VoteMode.toNat : VoteMode → Nat
  | .ballot => 0 | .any => 1 | .all => 2 | .uni => 3

def ShflMode.ofCode : Nat → ShflMode
  | 0 => .idx | 1 => .up | 2 => .down | _ => .xor

def ShflMode.toNat : ShflMode → Nat
  | .idx => 0 | .up => 1 | .down => 2 | .xor => 3

def ScanOp.ofCode : Nat → Option ScanOp
  | 0 => some .add | 1 => some .min | 2 => some .max | 3 => some .and | 4 => some .or | 5 => some .xor | _ => none

def ScanOp.toNat : ScanOp → Nat
  | .add => 0 | .min => 1 | .max => 2 | .and => 3 | .or => 4 | .xor => 5

def ScanType.ofCode : Nat → Option ScanType
  | 0 => some .s32 | 1 => some .n32 | 4 => some .f32 | _ => none

def ScanType.toNat : ScanType → Nat
  | .s32 => 0 | .n32 => 1 | .f32 => 4

def VCond.ofCode : Nat → Option VCond
  | 0 => some .dec | 1 => some .above | 2 => some .below | _ => none

def VCond.toNat : VCond → Nat
  | .dec => 0 | .above => 1 | .below => 2

def EvKind.ofCode : Nat → Option EvKind
  | 0 => some .bar | 1 => some .cnt | 2 => some .mon | 3 => some .mbx | 4 => some .rfill | 5 => some .rfree
  | 6 => some .pipe | 7 => some .time | 8 => some .peer | _ => none

def EvKind.toNat : EvKind → Nat
  | .bar => 0 | .cnt => 1 | .mon => 2 | .mbx => 3 | .rfill => 4 | .rfree => 5 | .pipe => 6 | .time => 7 | .peer => 8

def EvCond.ofCode : Nat → EvCond
  | 0 => .eq | 1 => .ne | 2 => .ge | _ => .gt

def EvCond.toNat : EvCond → Nat
  | .eq => 0 | .ne => 1 | .ge => 2 | .gt => 3

def FenceKind.ofCode : Nat → Option FenceKind
  | 1 => some .acq | 2 => some .rel | 3 => some .ar | _ => none

def FenceKind.toNat : FenceKind → Nat
  | .acq => 1 | .rel => 2 | .ar => 3

def PrefLevel.ofCode : Nat → Option PrefLevel
  | 0 => some .l1 | 1 => some .l2 | 2 => some .l1x | _ => none

def PrefLevel.toNat : PrefLevel → Nat
  | .l1 => 0 | .l2 => 1 | .l1x => 2

def DrainOp.ofCode : Nat → Option DrainOp
  | 0 => some .st | 1 => some .add | 2 => some .max | _ => none

def DrainOp.toNat : DrainOp → Nat
  | .st => 0 | .add => 1 | .max => 2

def VPred.ofCode : Nat → Option VPred
  | 0 => some .none | 1 => some .sign | 2 => some .rowthr | 3 => some .colthr | 4 => some .topk | _ => Option.none

def VPred.toNat : VPred → Nat
  | .none => 0 | .sign => 1 | .rowthr => 2 | .colthr => 3 | .topk => 4

def StageQ.ofCode : Nat → Option StageQ
  | 1 => some .miss | 2 => some .depth | _ => none

def StageQ.toNat : StageQ → Nat
  | .miss => 1 | .depth => 2

def DMode.ofCode : Nat → Option DMode
  | 0 => some .grad | 1 => some .quad | 2 => some .lod | _ => none

def DMode.toNat : DMode → Nat
  | .grad => 0 | .quad => 1 | .lod => 2

def CsrWidth.ofCode : Nat → Option CsrWidth
  | 0 => some .lo | 1 => some .hi | 2 => some .d | _ => none

def CsrWidth.toNat : CsrWidth → Nat
  | .lo => 0 | .hi => 1 | .d => 2

def CsrOp.ofCode : Nat → Option CsrOp
  | 0 => some .swap | 1 => some .set | 2 => some .clr | _ => none

def CsrOp.toNat : CsrOp → Nat
  | .swap => 0 | .set => 1 | .clr => 2

def TlbiMode.ofCode : Nat → Option TlbiMode
  | 0 => some .page | 1 => some .ctx | 2 => some .all | _ => none

def TlbiMode.toNat : TlbiMode → Nat
  | .page => 0 | .ctx => 1 | .all => 2

def HalfGuard.ofCode : Nat → HalfGuard
  | 0 => .always | 1 => .p1 | 2 => .p2 | _ => .notP1

def HalfGuard.toNat : HalfGuard → Nat
  | .always => 0 | .p1 => 1 | .p2 => 2 | .notP1 => 3

def HalfReg.ofNat (c : Nat) : HalfReg := if c < 0x60 then .v c else .s (c - 0x60)

def HalfReg.toNat : HalfReg → Nat
  | .v n => n
  | .s n => 0x60 + n

def Hop.ofCode : Nat → Option Hop
  | 0 => some .iadd | 1 => some .isub | 2 => some .imin | 3 => some .imax | 4 => some .and | 5 => some .or
  | 6 => some .xor | 7 => some .andn | 8 => some .shl | 9 => some .shr | 10 => some .sar | 11 => some .mov
  | 12 => some .movi8 | 13 => some .iaddi | 14 => some .andi | 15 => some .shli | 16 => some .shri | 17 => some .sari
  | 18 => some .fadd | 19 => some .fmul | 20 => some .fmin | 21 => some .fmax | 22 => some .hadd2 | 23 => some .hmul2
  | _ => none

def Hop.toNat : Hop → Nat
  | .iadd => 0 | .isub => 1 | .imin => 2 | .imax => 3 | .and => 4 | .or => 5 | .xor => 6 | .andn => 7 | .shl => 8
  | .shr => 9 | .sar => 10 | .mov => 11 | .movi8 => 12 | .iaddi => 13 | .andi => 14 | .shli => 15 | .shri => 16
  | .sari => 17 | .fadd => 18 | .fmul => 19 | .fmin => 20 | .fmax => 21 | .hadd2 => 22 | .hmul2 => 23

/-! ## Reading the fields -/

namespace Fields

/-- The guard of a full word (R127). -/
def guard (f : Fields) : Guard := ⟨f.gn == 1, f.gp⟩

/-- BSRC names IMM (R134). -/
def hasImm (f : Fields) : Bool := f.b == 0xEF

/-- MOD of form R: X[15:0], or X[7:0] with OPX zero when BSRC is IMM (R132, R134). -/
def mod (f : Fields) : Nat := if f.hasImm then f.x % 256 else f.x % 65536

def ty (f : Fields) : Nat := f.mod % 16
def rnd (f : Fields) : Rnd := Rnd.ofCode (f.mod / 16 % 4)
def ops (f : Fields) : Nat := f.mod / 64 % 4
def opx (f : Fields) : Nat := f.mod / 256

/-- MOD[6], the `.sat`, `.max`, `.r`, `.step` or `.excl` bit. -/
def bit6 (f : Fields) : Bool := f.mod / 64 % 2 == 1

def dst (f : Fields) : Option Operand := Operand.ofCode f.d
def srcA (f : Fields) : Option Operand := Operand.ofCode f.a
/-- BSRC of form R, where 0xEF is the immediate of R134. -/
def srcB (f : Fields) : Option Operand :=
  if f.hasImm then some (.imm (BitVec.ofNat 16 (f.x / 256))) else Operand.ofCode f.b
/-- The c operand of form R (R131). -/
def srcC (f : Fields) : Option Operand := Operand.ofCode (f.x / 65536)

def scope (f : Fields) : Option Scope := Scope.ofCode (f.x / 64 % 8)
def ord (f : Fields) : Ord := Ord.ofCode (f.x / 16 % 4)
def mop (f : Fields) : Nat := f.x % 16

/-- The memory operand of form M (R131). -/
def mem (f : Fields) : Option MemArg := do
  let base ← Operand.ofCode f.a
  let index ← Operand.ofCode f.b
  return ⟨base, index, f.x / 512 % 8, BitVec.ofNat 12 (f.x / 4096)⟩

def intTy (f : Fields) : Option IntType := IntType.ofCode f.ty
/-- The packed half type of R182: TYPE 8 is `.bf16x2`. -/
def isBf (f : Fields) : Bool := f.ty == 8
/-- A 64-bit lane type (TYPE 3, `.n64`). -/
def isW64 (f : Fields) : Bool := f.ty == 3

end Fields

open Fields in
/-- Row 0 of the opcode map (R140, R199). -/
def parse0 (f : Fields) : Option Instr :=
  match f.op % 16 with
  | 0x0 => some (.nop f.guard)
  | 0x1 => some (.bra f.guard (BitVec.ofNat 24 f.x))
  | 0x2 => do return .brx f.guard (← f.srcA)
  | 0x3 => do return .call f.guard (← f.dst) (BitVec.ofNat 24 f.x)
  | 0x4 => do return .callx f.guard (← f.dst) (← f.srcA)
  | 0x5 => do return .ret f.guard (← f.srcA)
  | 0x6 => some .join
  | 0x7 => some (.exit f.guard)
  | 0x8 => some (.trap (BitVec.ofNat 8 f.x))
  | 0x9 => some .tret
  | 0xA => some .yield
  | 0xB => do return .sleep f.guard (← f.srcB)
  | 0xC => some (.brk (BitVec.ofNat 16 f.x))
  | _ => none

/-- Row 1 of the opcode map (R140, R168, R171). -/
def parse1 (f : Fields) : Option Instr :=
  match f.op % 16 with
  | 0x0 => do return .iadd f.guard (← f.intTy) f.bit6 (← f.dst) (← f.srcA) (← f.srcB)
  | 0x1 => do return .isub f.guard (← f.intTy) f.bit6 (← f.dst) (← f.srcA) (← f.srcB)
  | 0x2 => do return .imul f.guard (← f.intTy) (← f.dst) (← f.srcA) (← f.srcB)
  | 0x3 => do return .imulh f.guard (← f.intTy) (← f.dst) (← f.srcA) (← f.srcB)
  | 0x4 => do return .imad f.guard (← f.intTy) (← f.dst) (← f.srcA) (← f.srcB) (← f.srcC)
  | 0x5 => do return .imadw f.guard (← f.intTy) (← f.dst) (← f.srcA) (← f.srcB) (← f.srcC)
  | 0x6 => do return .imin f.guard (← f.intTy) (← f.dst) (← f.srcA) (← f.srcB)
  | 0x7 => do return .imax f.guard (← f.intTy) (← f.dst) (← f.srcA) (← f.srcB)
  | 0x8 => do return .iabs f.guard (← f.intTy) f.bit6 (← f.dst) (← f.srcA)
  | 0x9 => do return .ineg f.guard (← f.intTy) f.bit6 (← f.dst) (← f.srcA)
  | 0xA => do return .and f.guard (← f.intTy) (← f.dst) (← f.srcA) (← f.srcB)
  | 0xB => do return .or f.guard (← f.intTy) (← f.dst) (← f.srcA) (← f.srcB)
  | 0xC => do return .xor f.guard (← f.intTy) (← f.dst) (← f.srcA) (← f.srcB)
  | 0xD => do return .andn f.guard (← f.intTy) (← f.dst) (← f.srcA) (← f.srcB)
  | 0xE => do return .shl f.guard (← f.intTy) (← f.dst) (← f.srcA) (← f.srcB)
  | _ => do return .shr f.guard (← f.intTy) (← f.dst) (← f.srcA) (← f.srcB)

/-- Row 2 of the opcode map (R140, R168, R171, R174). -/
def parse2 (f : Fields) : Option Instr :=
  match f.op % 16 with
  | 0x0 => do return .sar f.guard (← f.intTy) (← f.dst) (← f.srcA) (← f.srcB)
  | 0x1 => do return .rot f.guard (← f.intTy) f.bit6 (← f.dst) (← f.srcA) (← f.srcB)
  | 0x2 => do return .bfx f.guard (← f.intTy) (← f.dst) (← f.srcA) (← f.srcB)
  | 0x3 => do return .bfi f.guard (← f.dst) (← f.srcA) (← f.srcB) (← f.srcC)
  | 0x4 => do return .popc f.guard (← f.intTy) (← f.dst) (← f.srcA)
  | 0x5 => do return .clz f.guard (← f.intTy) (← f.dst) (← f.srcA)
  | 0x6 => do return .ctz f.guard (← f.intTy) (← f.dst) (← f.srcA)
  | 0x7 => do return .brev f.guard (← f.intTy) (← f.dst) (← f.srcA)
  | 0x8 => do return .lea f.guard (f.mop % 2 == 1) (← f.dst) (← f.mem)
  | 0x9 => do
      return .icmp f.guard (← f.intTy) (Cond.ofCode (f.opx / 32)) (← Comb.ofCode (f.opx / 8 % 4)) (f.opx % 8)
        (← f.srcA) (← f.srcB)
  | 0xA => do
      return .sel f.guard (← f.intTy) (f.opx / 8 % 2 == 1) (f.opx % 8) (← f.dst) (← f.srcA) (← f.srcB)
  | 0xB => do return .mov f.guard (← f.intTy) (← f.dst) (← f.srcB)
  | 0xC => do return .movh f.guard (← f.dst) (BitVec.ofNat 16 f.x)
  | 0xD => do return .iaddc f.guard (f.opx / 8 % 2 == 1) (f.opx % 8) (← f.dst) (← f.srcA) (← f.srcB)
  | 0xE => do return .perm f.guard (← f.dst) (← f.srcA) (← f.srcB) (← f.srcC)
  | _ => do
      return .idot4 f.guard (f.opx % 2 == 1) (f.ops / 2 == 1) (f.ops % 2 == 1) (← f.dst) (← f.srcA) (← f.srcB) (← f.srcC)

/-- Row 3 of the opcode map (R140, R177, R179 to R181). -/
def parse3 (f : Fields) : Option Instr :=
  match f.op % 16 with
  | 0x0 => do return .fadd f.guard f.rnd (← f.dst) (← f.srcA) (← f.srcB)
  | 0x1 => do return .fmul f.guard f.rnd (← f.dst) (← f.srcA) (← f.srcB)
  | 0x2 => do return .ffma f.guard f.rnd (← f.dst) (← f.srcA) (← f.srcB) (← f.srcC)
  | 0x3 => do return .fmin f.guard (← f.dst) (← f.srcA) (← f.srcB)
  | 0x4 => do return .fmax f.guard (← f.dst) (← f.srcA) (← f.srcB)
  | 0x5 => do
      return .fcmp f.guard (Cond.ofCode (f.opx / 32)) (← Comb.ofCode (f.opx / 8 % 4)) (f.opx % 8) (← f.srcA) (← f.srcB)
  | 0x6 => do return .fclass f.guard (← f.dst) (← f.srcA)
  | 0x7 => do return .frnd f.guard f.rnd (← f.dst) (← f.srcA)
  | 0x8 => do return .frcp f.guard f.rnd (← f.dst) (← f.srcA)
  | 0x9 => do return .frsq f.guard f.rnd (← f.dst) (← f.srcA)
  | 0xA => do return .fsqrt f.guard f.rnd (← f.dst) (← f.srcA)
  | 0xB => do return .fexp2 f.guard f.rnd (← f.dst) (← f.srcA)
  | 0xC => do return .flog2 f.guard f.rnd (← f.dst) (← f.srcA)
  | 0xD => do return .fsin f.guard f.rnd (← f.dst) (← f.srcA)
  | 0xE => do return .fcos f.guard f.rnd (← f.dst) (← f.srcA)
  | _ => do return .fscale f.guard f.rnd (← f.dst) (← f.srcA) (← f.srcB)

/-- Row 4 of the opcode map (R140, R182 to R188). -/
def parse4 (f : Fields) : Option Instr :=
  match f.op % 16 with
  | 0x0 => do return .hadd2 f.guard f.isBf f.rnd (← f.dst) (← f.srcA) (← f.srcB)
  | 0x1 => do return .hmul2 f.guard f.isBf f.rnd (← f.dst) (← f.srcA) (← f.srcB)
  | 0x2 => do return .hfma2 f.guard f.isBf f.rnd (← f.dst) (← f.srcA) (← f.srcB) (← f.srcC)
  | 0x3 => do return .hminmax2 f.guard f.isBf f.bit6 (← f.dst) (← f.srcA) (← f.srcB)
  | 0x4 => do
      return .cvt f.guard (NumType.ofCode f.ty) (NumType.ofCode (f.opx % 16)) (f.opx / 16 % 2 == 1) f.bit6 f.rnd
        (← f.dst) (← f.srcA)
  | 0x5 => do
      return .pack f.guard (NumType.ofCode f.ty) (f.opx % 8) f.bit6 f.rnd (← f.dst) (← f.srcA) (← f.srcB) (← f.srcC)
  | 0x6 => do return .unpack f.guard (NumType.ofCode f.ty) (f.opx % 16) (← f.dst) (← f.srcA)
  | 0x7 => do
      return .vtest f.guard (← VCond.ofCode (f.opx / 32)) (← Comb.ofCode (f.opx / 8 % 4)) f.bit6 (f.opx % 8)
        (← f.dst) (← f.srcA) (← f.srcB)
  | 0x8 => do return .vsel f.guard (← f.dst) (← f.srcA) (← f.srcB) (← f.srcC)
  | _ => none

/-- Row 5 of the opcode map (R140, R191 to R195). -/
def parse5 (f : Fields) : Option Instr :=
  match f.op % 16 with
  | 0x0 =>
      let k := f.x / 256
      some (.plop f.guard (k / 8192) (k / 1024 % 8) (k / 128 % 8) (BitVec.ofNat 4 (k / 8)))
  | 0x1 => do
      let dir := PmovDir.ofCode f.ops
      return .pmov f.guard dir (f.opx % 8) (← match dir with
        | .tomask | .tobool => f.dst
        | .frommask | .frombool => f.srcA)
  | 0x2 => do return .vote f.guard (VoteMode.ofCode f.ops) (f.opx / 8 % 2 == 1) (f.opx % 8) (← f.dst)
  | 0x3 => do
      return .shfl f.guard (ShflMode.ofCode f.ops) f.isW64 (f.opx / 16 % 8) (f.opx % 8) (← f.dst) (← f.srcA) (← f.srcB)
  | 0x4 => do
      return .scan f.guard (← ScanOp.ofCode (f.opx % 8)) (← ScanType.ofCode f.ty) f.bit6 f.rnd (← f.dst) (← f.srcA)
  | 0x5 => do return .redux f.guard (← ScanOp.ofCode (f.opx % 8)) (← ScanType.ofCode f.ty) f.rnd (← f.dst) (← f.srcA)
  | 0x6 => do return .matchLanes f.guard f.bit6 f.isW64 (f.opx % 8) (← f.dst) (← f.srcA)
  | 0x7 => do return .regroup f.bit6 (← f.dst) (← f.srcA) (← f.srcB)
  | 0x8 => do return .lread f.guard f.isW64 (← f.dst) (← f.srcA) (← f.srcB)
  | _ => none

/-- Row 6 of the opcode map (R140, R235 to R241, R360, R363). -/
def parse6 (f : Fields) : Option Instr :=
  match f.op % 16 with
  | 0x0 => do
      return .ld f.guard (f.mop / 8 == 1) (← MemSize.ofCode (f.mop % 8)) (f.ord == .acq) (← f.scope) (← f.dst) (← f.mem)
  | 0x1 => do
      return .st f.guard (f.mop / 8 == 1) (← MemSize.ofCode (f.mop % 8)) (f.ord == .rel) (← f.scope) (← f.dst) (← f.mem)
  | 0x2 => do return .ldb f.guard f.mop (f.ord == .acq) (← f.scope) (← f.dst) (← f.mem)
  | 0x3 => do return .pref f.guard (← PrefLevel.ofCode f.mop) (← f.mem)
  | 0x4 => do return .fence (← FenceKind.ofCode f.ops) (← Scope.ofCode (f.opx % 8))
  | 0x5 =>
      match f.mop with
      | 0 => do return .cacheWb f.guard (← f.mem)
      | 1 => do return .cacheWbinv f.guard (← f.mem)
      | 2 => do return .cacheZero f.guard (← f.mem)
      | 3 => some (.cacheIinv f.guard)
      | 4 => some (.cacheL1wb f.guard)
      | _ => none
  | 0x6 => do return .atom f.guard (AtomOp.ofCode f.mop) f.ord (← f.scope) (← f.dst) (← f.mem)
  | 0x7 => do return .red f.guard (AtomOp.ofCode f.mop) (f.ord == .rel) (← f.scope) (← f.dst) (← f.mem)
  | 0x8 => do
      return .mwait f.guard (← MonCond.ofCode (f.mop % 8)) (f.mop / 8 == 1) (f.ord == .acq) (← f.scope) (← f.dst) (← f.mem)
  | 0x9 => do return .vdrop (← f.srcA) (← f.srcB)
  | _ => none

/-- Row 7 of the opcode map (R140, R369, R372, R378 to R386). -/
def parse7 (f : Fields) : Option Instr :=
  match f.op % 16 with
  | 0x0 =>
      match f.opx % 8 with
      | 0 => do return .barArrive f.guard (← f.dst) (← f.srcA) (← f.srcB)
      | 1 => do return .barDrop f.guard (← f.dst) (← f.srcA) (← f.srcB)
      | 2 => do return .barJoin f.guard (← f.dst) (← f.srcA)
      | 3 => do return .barExpect f.guard (← f.dst) (← f.srcA) (← f.srcB)
      | 4 => do return .barWait f.guard (← f.srcA) (← f.srcB)
      | 5 => do return .barSync f.guard (← f.srcA) (← f.srcB)
      | 6 => do return .barTest f.guard (← f.dst) (← f.srcA) (← f.srcB)
      | _ => none
  | 0x1 =>
      match f.ops with
      | 0 => some (.tbarSync f.guard (f.opx % 8))
      | 1 => do return .tbarArrive f.guard (f.opx % 8) (← f.dst)
      | 2 => do return .tbarWait f.guard (f.opx % 8) (← f.srcB)
      | _ => do return .tbarTest f.guard (f.opx % 8) (← f.dst) (← f.srcB)
  | 0x2 => do
      return .evarm f.guard (← EvKind.ofCode (f.opx / 16)) (f.opx % 16) (EvCond.ofCode f.ops) (← f.intTy)
        (← f.srcA) (← f.srcB) (← f.srcC)
  | 0x3 => do return .evdis f.guard (← f.dst) (← f.srcB)
  | 0x4 => do return .waitany (← f.srcB)
  | 0x5 => do return .mbox f.guard (f.ops / 2 == 1) (BitVec.ofNat 8 f.opx) (← f.dst) (← f.srcA) (← f.srcB)
  | _ => none

/-- Row 8 of the opcode map (R140, R257 to R261). -/
def parse8 (f : Fields) : Option Instr :=
  match f.op % 16 with
  | 0x0 => do return .kick f.guard (← f.srcA) (← f.srcB)
  | 0x1 =>
      match f.opx / 16 with
      | 0 => do return .regionRing f.guard (f.opx % 16) (← f.dst) (← f.srcA) (← f.srcB)
      | 1 => do return .regionWindow f.guard (f.opx % 16) (← f.dst) (← f.srcA) (← f.srcB)
      | 2 => do return .regionAbsent f.guard (f.opx % 16) (← f.dst)
      | 3 => do return .regionPresent f.guard (f.opx % 16) (← f.dst)
      | 4 => do return .regionFree f.guard (f.opx % 16) (← f.dst)
      | _ => none
  | 0x2 =>
      if f.bit6 then do return .racqFree f.guard (f.opx % 16) (f.ops / 2 == 1) (← f.dst)
      else do return .racqFill f.guard (f.opx % 16) (f.ops / 2 == 1) (← f.dst)
  | 0x3 => do return .rrel f.guard (f.opx % 16) (← f.srcA)
  | 0x4 => do return .rpub f.guard (f.opx % 16) (← f.srcA)
  | _ => none

/-- Row 9 of the opcode map (R140, R291 to R304, R319). -/
def parse9 (f : Fields) : Option Instr :=
  match f.op % 16 with
  | 0x0 => do return .mclaim f.guard (← f.dst) (← f.srcA) (← f.srcB)
  | 0x1 => do return .mrel f.guard (← f.srcA) (← f.srcB)
  | 0x2 => do return .mstage f.guard (← f.srcA) (← f.srcB)
  | 0x3 => do
      return .mloop f.guard (NumType.ofCode f.ty) (NumType.ofCode (f.opx % 16)) (f.opx / 16 % 2 == 1) (f.opx / 32 % 2 == 1)
        (← f.srcA) (← f.srcB) (← f.srcC)
  | 0x4 => do return .msca f.guard (← f.srcA) (← f.srcB) (← f.srcC)
  | 0x5 => do return .mread f.guard (← f.dst) (← f.srcA)
  | 0x6 => do return .mzero f.guard (← f.srcB)
  | 0x7 => do
      return .mdrain f.guard (← DrainOp.ofCode (f.opx % 4)) (f.opx / 4 % 2 == 1) (← Scope.ofCode (f.opx / 8 % 8)) (f.ty == 4)
        (← f.srcA) (← f.srcB) (← f.srcC)
  | 0x8 =>
      match f.ops with
      | 0 => do return .msyncWait f.guard (← f.dst) (← f.srcB)
      | 1 => do return .msyncStat f.guard (← f.dst)
      | _ => none
  | 0x9 => do
      return .vcfg f.guard (← VPred.ofCode (f.opx / 32)) (f.opx / 16 % 2 == 1) (f.opx / 8 % 2 == 1) (← f.srcA) (← f.srcB)
  | _ => none

/-- Row A of the opcode map (R140, R319). -/
def parseA (f : Fields) : Option Instr :=
  match f.op % 16 with
  | 0x0 => do return .topk f.guard (← f.srcA) (← f.srcB) (← f.srcC)
  | 0x1 =>
      if f.bit6 then do return .topkmStore f.guard (← f.srcA) (← f.srcB)
      else do return .topkmMerge f.guard (← f.srcA) (← f.srcB)
  | 0x2 => do return .topkr f.guard (← f.dst) (← f.srcA) (← f.srcB)
  | 0x3 => do return .vthr f.guard (← f.srcA) (← f.srcB)
  | _ => none

/-- Row B of the opcode map (R140, R327). -/
def parseB (f : Fields) : Option Instr :=
  match f.op % 16 with
  | 0x0 => do return .trace f.guard (f.opx % 32) (← f.dst) (← f.srcA) (← f.srcB) (← f.srcC)
  | 0x1 => do return .psalloc f.guard (← f.dst) (← f.srcA)
  | 0x2 => do return .psfree f.guard (← f.dst) (← f.srcA) (← f.srcB)
  | 0x3 => do return .sqpush f.guard (← StageQ.ofCode f.ops) (← f.dst) (← f.srcA) (← f.srcB)
  | 0x4 => do return .sqpop f.guard (← StageQ.ofCode f.ops) (← f.dst) (← f.srcA)
  | 0x5 => do return .tex f.guard (← DMode.ofCode f.ops) (← f.dst) (← f.srcA) (← f.srcB) (← f.srcC)
  | 0x6 => do return .texg f.guard (← DMode.ofCode f.ops) (f.opx % 4) (← f.dst) (← f.srcA) (← f.srcB) (← f.srcC)
  | 0x7 =>
      if f.opx % 2 == 1 then do return .texqDims f.guard (← f.dst) (← f.srcA) (← f.srcB)
      else do return .texqLod f.guard (← DMode.ofCode f.ops) (← f.dst) (← f.srcA) (← f.srcB)
  | 0x8 => do return .attr f.guard (f.opx / 16 + 1) (f.opx % 16) (← f.dst) (← f.srcA) (← f.srcB)
  | 0x9 => do return .fback f.guard (← f.dst) (← f.srcA) (← f.srcB)
  | _ => none

/-- Row C of the opcode map (R140, R205 to R211). -/
def parseC (f : Fields) : Option Instr :=
  let csr : BitVec 12 := BitVec.ofNat 12 f.x
  match f.op % 16 with
  | 0x0 => do return .csrr f.guard (← CsrWidth.ofCode (f.x / 4096 % 4)) (← f.dst) csr
  | 0x1 => do return .csrw f.guard (← CsrWidth.ofCode (f.x / 4096 % 4)) csr (← f.srcA)
  | 0x2 => do
      return .csrx f.guard (← CsrOp.ofCode (f.x / 16384 % 4)) (← CsrWidth.ofCode (f.x / 4096 % 4)) (← f.dst) csr (← f.srcA)
  | 0x3 => do return .setperf f.guard (← f.dst) (← f.srcA) (← f.srcB)
  | 0x4 => do return .launch f.guard (← f.dst) (← f.srcA) (← f.srcB)
  | 0x5 => do return .tlbi f.guard (← TlbiMode.ofCode f.ops) (← f.srcA)
  | 0x6 => do return .trapack f.guard (← f.dst) (← f.srcA)
  | _ => none

/-- The instruction a full word's fields name, if any (R140). -/
def parse (f : Fields) : Option Instr :=
  match f.op / 16 with
  | 0x0 => parse0 f
  | 0x1 => parse1 f
  | 0x2 => parse2 f
  | 0x3 => parse3 f
  | 0x4 => parse4 f
  | 0x5 => parse5 f
  | 0x6 => parse6 f
  | 0x7 => parse7 f
  | 0x8 => parse8 f
  | 0x9 => parse9 f
  | 0xA => parseA f
  | 0xB => parseB f
  | 0xC => parseC f
  | _ => none

/-- A half of a pair word (R136). -/
def parseHalf (n : Nat) : Option Half := do
  let hop ← Hop.ofCode (n / 2 ^ 24 % 64)
  return ⟨hop, HalfGuard.ofCode (n / 2 ^ 22 % 4), HalfReg.ofNat (n / 2 ^ 15 % 128), HalfReg.ofNat (n / 2 ^ 8 % 128),
    BitVec.ofNat 8 n⟩

/-! ## Encoding -/

/-- MOD from TYPE, RND, OPS and OPX (R132). -/
def modWord (ty rnd ops opx : Nat) : Nat := ty + 16 * rnd + 64 * ops + 256 * opx

/-- A form-R word (R131, R134). -/
def formR (op : Nat) (g : Guard) (d a b : Operand) (c m : Nat) : Fields :=
  { op, gn := g.neg.toNat, gp := g.p, d := d.code, a := a.code, b := b.code,
    x := match b with
      | .imm k => k.toNat * 256 + m % 256
      | _ => c * 65536 + m }

/-- A form-M word (R131). -/
def formM (op : Nat) (g : Guard) (d : Nat) (m : MemArg) (sc : Nat) (ord mop : Nat) : Fields :=
  { op, gn := g.neg.toNat, gp := g.p, d, a := m.base.code, b := m.index.code,
    x := m.disp.toNat * 4096 + m.scale * 512 + sc * 64 + ord * 16 + mop }

/-- A word of form B, I or N (R131). -/
def formX (op : Nat) (g : Guard) (d a x : Nat) : Fields :=
  { op, gn := g.neg.toNat, gp := g.p, d, a, b := 0, x }

/-- A memory operand field of CACHE `.iinv` and `.l1wb` (R239). -/
def noMem : MemArg := ⟨Operand.zeroSpecial, Operand.zeroSpecial, 0, 0⟩

/-- MOD of a predicate-writing comparison (R174). -/
def cmpMod (ty cond : Nat) (cb : Comb) (n : Nat) : Nat := modWord ty 0 0 (cond * 32 + cb.toNat * 8 + n)

/-- The operand of a `zero` field (R129). -/
abbrev Z : Operand := Operand.zeroField

/-- The fields of a full word; `none` for pair words, for unassigned opcodes and for events (R127, R131). -/
def Instr.fields : Instr → Option Fields
  | .nop g => some (formX 0x00 g 0 0 0)
  | .bra g o => some (formX 0x01 g 0 0 o.toNat)
  | .brx g a => some (formR 0x02 g Z a Z 0 0)
  | .call g d o => some (formX 0x03 g d.code 0 o.toNat)
  | .callx g d a => some (formR 0x04 g d a Z 0 0)
  | .ret g a => some (formX 0x05 g 0 a.code 0)
  | .join => some (formX 0x06 .always 0 0 0)
  | .exit g => some (formX 0x07 g 0 0 0)
  | .trap k => some (formX 0x08 .always 0 0 k.toNat)
  | .tret => some (formX 0x09 .always 0 0 0)
  | .yield => some (formX 0x0A .always 0 0 0)
  | .sleep g b => some (formR 0x0B g Z Z b 0 1)
  | .brk k => some (formX 0x0C .always 0 0 k.toNat)
  | .iadd g t s d a b => some (formR 0x10 g d a b 0 (modWord t.toNat 0 s.toNat 0))
  | .isub g t s d a b => some (formR 0x11 g d a b 0 (modWord t.toNat 0 s.toNat 0))
  | .imul g t d a b => some (formR 0x12 g d a b 0 t.toNat)
  | .imulh g t d a b => some (formR 0x13 g d a b 0 t.toNat)
  | .imad g t d a b c => some (formR 0x14 g d a b c.code t.toNat)
  | .imadw g t d a b c => some (formR 0x15 g d a b c.code t.toNat)
  | .imin g t d a b => some (formR 0x16 g d a b 0 t.toNat)
  | .imax g t d a b => some (formR 0x17 g d a b 0 t.toNat)
  | .iabs g t s d a => some (formR 0x18 g d a Z 0 (modWord t.toNat 0 s.toNat 0))
  | .ineg g t s d a => some (formR 0x19 g d a Z 0 (modWord t.toNat 0 s.toNat 0))
  | .and g t d a b => some (formR 0x1A g d a b 0 t.toNat)
  | .or g t d a b => some (formR 0x1B g d a b 0 t.toNat)
  | .xor g t d a b => some (formR 0x1C g d a b 0 t.toNat)
  | .andn g t d a b => some (formR 0x1D g d a b 0 t.toNat)
  | .shl g t d a b => some (formR 0x1E g d a b 0 t.toNat)
  | .shr g t d a b => some (formR 0x1F g d a b 0 t.toNat)
  | .sar g t d a b => some (formR 0x20 g d a b 0 t.toNat)
  | .rot g t r d a b => some (formR 0x21 g d a b 0 (modWord t.toNat 0 r.toNat 0))
  | .bfx g t d a b => some (formR 0x22 g d a b 0 t.toNat)
  | .bfi g d a b c => some (formR 0x23 g d a b c.code 1)
  | .popc g t d a => some (formR 0x24 g d a Z 0 t.toNat)
  | .clz g t d a => some (formR 0x25 g d a Z 0 t.toNat)
  | .ctz g t d a => some (formR 0x26 g d a Z 0 t.toNat)
  | .brev g t d a => some (formR 0x27 g d a Z 0 t.toNat)
  | .lea g ux d m => some (formM 0x28 g d.code m 0 0 ux.toNat)
  | .icmp g t c cb n a b => some (formR 0x29 g Z a b 0 (cmpMod t.toNat c.toNat cb n))
  | .sel g t neg n d a b => some (formR 0x2A g d a b 0 (modWord t.toNat 0 0 (neg.toNat * 8 + n)))
  | .mov g t d b => some (formR 0x2B g d Z b 0 t.toNat)
  | .movh g d k => some (formX 0x2C g d.code 0 k.toNat)
  | .iaddc g sub n d a b => some (formR 0x2D g d a b 0 (modWord 1 0 0 (sub.toNat * 8 + n)))
  | .perm g d a b c => some (formR 0x2E g d a b c.code 1)
  | .idot4 g s ua ub d a b c => some (formR 0x2F g d a b c.code (modWord 0 0 (ua.toNat * 2 + ub.toNat) s.toNat))
  | .fadd g r d a b => some (formR 0x30 g d a b 0 (modWord 4 r.toNat 0 0))
  | .fmul g r d a b => some (formR 0x31 g d a b 0 (modWord 4 r.toNat 0 0))
  | .ffma g r d a b c => some (formR 0x32 g d a b c.code (modWord 4 r.toNat 0 0))
  | .fmin g d a b => some (formR 0x33 g d a b 0 4)
  | .fmax g d a b => some (formR 0x34 g d a b 0 4)
  | .fcmp g c cb n a b => some (formR 0x35 g Z a b 0 (cmpMod 4 c.toNat cb n))
  | .fclass g d a => some (formR 0x36 g d a Z 0 4)
  | .frnd g r d a => some (formR 0x37 g d a Z 0 (modWord 4 r.toNat 0 0))
  | .frcp g r d a => some (formR 0x38 g d a Z 0 (modWord 4 r.toNat 0 0))
  | .frsq g r d a => some (formR 0x39 g d a Z 0 (modWord 4 r.toNat 0 0))
  | .fsqrt g r d a => some (formR 0x3A g d a Z 0 (modWord 4 r.toNat 0 0))
  | .fexp2 g r d a => some (formR 0x3B g d a Z 0 (modWord 4 r.toNat 0 0))
  | .flog2 g r d a => some (formR 0x3C g d a Z 0 (modWord 4 r.toNat 0 0))
  | .fsin g r d a => some (formR 0x3D g d a Z 0 (modWord 4 r.toNat 0 0))
  | .fcos g r d a => some (formR 0x3E g d a Z 0 (modWord 4 r.toNat 0 0))
  | .fscale g r d a b => some (formR 0x3F g d a b 0 (modWord 4 r.toNat 0 0))
  | .hadd2 g bf r d a b => some (formR 0x40 g d a b 0 (modWord (7 + bf.toNat) r.toNat 0 0))
  | .hmul2 g bf r d a b => some (formR 0x41 g d a b 0 (modWord (7 + bf.toNat) r.toNat 0 0))
  | .hfma2 g bf r d a b c => some (formR 0x42 g d a b c.code (modWord (7 + bf.toNat) r.toNat 0 0))
  | .hminmax2 g bf mx d a b => some (formR 0x43 g d a b 0 (modWord (7 + bf.toNat) 0 mx.toNat 0))
  | .cvt g dt ty x s r d a =>
      some (formR 0x44 g d a Z 0 (modWord dt.toNat r.toNat s.toNat (x.toNat * 16 + ty.toNat)))
  | .pack g e k s r d a b c => some (formR 0x45 g d a b c.code (modWord e.toNat r.toNat s.toNat k))
  | .unpack g e k d a => some (formR 0x46 g d a Z 0 (modWord e.toNat 0 0 k))
  | .vtest g c cb s n d a b =>
      some (formR 0x47 g d a b 0 (modWord 4 0 s.toNat (c.toNat * 32 + cb.toNat * 8 + n)))
  | .vsel g d a b c => some (formR 0x48 g d a b c.code 4)
  | .plop g pd pa pb lut =>
      some (formR 0x50 g Z Z (.imm (BitVec.ofNat 16 (pd * 8192 + pa * 1024 + pb * 128 + lut.toNat * 8))) 0 0)
  | .pmov g dir n x =>
      match dir with
      | .tomask | .tobool => some (formR 0x51 g x Z Z 0 (modWord 0 0 dir.toNat n))
      | .frommask | .frombool => some (formR 0x51 g Z x Z 0 (modWord 0 0 dir.toNat n))
  | .vote g m neg n d => some (formR 0x52 g d Z Z 0 (modWord 1 0 m.toNat (neg.toNat * 8 + n)))
  | .shfl g m w v s d a b => some (formR 0x53 g d a b 0 (modWord (1 + 2 * w.toNat) 0 m.toNat (v * 16 + s)))
  | .scan g op t e r d a => some (formR 0x54 g d a Z 0 (modWord t.toNat r.toNat e.toNat op.toNat))
  | .redux g op t r d a => some (formR 0x55 g d a Z 0 (modWord t.toNat r.toNat 0 op.toNat))
  | .matchLanes g all w n d a => some (formR 0x56 g d a Z 0 (modWord (1 + 2 * w.toNat) 0 all.toNat n))
  | .regroup buddy d f l => some (formR 0x57 .always d f l 0 (modWord 1 0 buddy.toNat 0))
  | .lread g w d a b => some (formR 0x58 g d a b 0 (1 + 2 * w.toNat))
  | .ld g nl1 sz q sc d m => some (formM 0x60 g d.code m sc.toNat q.toNat (nl1.toNat * 8 + sz.toNat))
  | .st g nl1 sz q sc d m => some (formM 0x61 g d.code m sc.toNat (2 * q.toNat) (nl1.toNat * 8 + sz.toNat))
  | .ldb g sz q sc d m => some (formM 0x62 g d.code m sc.toNat q.toNat sz)
  | .pref g l m => some (formM 0x63 g 0 m 0 0 l.toNat)
  | .fence k sc => some (formR 0x64 .always Z Z Z 0 (modWord 0 0 k.toNat sc.toNat))
  | .cacheWb g m => some (formM 0x65 g 0 m 0 0 0)
  | .cacheWbinv g m => some (formM 0x65 g 0 m 0 0 1)
  | .cacheZero g m => some (formM 0x65 g 0 m 0 0 2)
  | .cacheIinv g => some (formM 0x65 g 0 noMem 0 0 3)
  | .cacheL1wb g => some (formM 0x65 g 0 noMem 0 0 4)
  | .atom g op o sc d m => some (formM 0x66 g d.code m sc.toNat o.toNat op.toNat)
  | .red g op r sc d m => some (formM 0x67 g d.code m sc.toNat (2 * r.toNat) op.toNat)
  | .mwait g c w q sc d m => some (formM 0x68 g d.code m sc.toNat q.toNat (w.toNat * 8 + c.toNat))
  | .vdrop f l => some (formR 0x69 .always Z f l 0 0)
  | .barArrive g d a b => some (formR 0x70 g d a b 0 0)
  | .barDrop g d a b => some (formR 0x70 g d a b 0 (modWord 0 0 0 1))
  | .barJoin g d a => some (formR 0x70 g d a Z 0 (modWord 0 0 0 2))
  | .barExpect g d a b => some (formR 0x70 g d a b 0 (modWord 0 0 0 3))
  | .barWait g a b => some (formR 0x70 g Z a b 0 (modWord 0 0 0 4))
  | .barSync g a b => some (formR 0x70 g Z a b 0 (modWord 0 0 0 5))
  | .barTest g d a b => some (formR 0x70 g d a b 0 (modWord 0 0 0 6))
  | .tbarSync g t => some (formR 0x71 g Z Z Z 0 (modWord 0 0 0 t))
  | .tbarArrive g t d => some (formR 0x71 g d Z Z 0 (modWord 0 0 1 t))
  | .tbarWait g t b => some (formR 0x71 g Z Z b 0 (modWord 0 0 2 t))
  | .tbarTest g t d b => some (formR 0x71 g d Z b 0 (modWord 0 0 3 t))
  | .evarm g k n c t a b h => some (formR 0x72 g Z a b h.code (modWord t.toNat 0 c.toNat (k.toNat * 16 + n)))
  | .evdis g d b => some (formR 0x73 g d Z b 0 0)
  | .waitany b => some (formR 0x74 .always Z Z b 0 0)
  | .mbox g t tag d a p => some (formR 0x75 g d a p 0 (modWord 0 0 (2 * t.toNat) tag.toNat))
  | .kick g a b => some (formR 0x80 g Z a b 0 0)
  | .regionRing g h d a b => some (formR 0x81 g d a b 0 (modWord 0 0 0 h))
  | .regionWindow g h d a b => some (formR 0x81 g d a b 0 (modWord 0 0 0 (16 + h)))
  | .regionAbsent g h d => some (formR 0x81 g d Z Z 0 (modWord 0 0 0 (32 + h)))
  | .regionPresent g h d => some (formR 0x81 g d Z Z 0 (modWord 0 0 0 (48 + h)))
  | .regionFree g h d => some (formR 0x81 g d Z Z 0 (modWord 0 0 0 (64 + h)))
  | .racqFill g h t d => some (formR 0x82 g d Z Z 0 (modWord 0 0 (2 * t.toNat) h))
  | .racqFree g h t d => some (formR 0x82 g d Z Z 0 (modWord 0 0 (2 * t.toNat + 1) h))
  | .rrel g h a => some (formR 0x83 g Z a Z 0 (modWord 0 0 0 h))
  | .rpub g h a => some (formR 0x84 g Z a Z 0 (modWord 0 0 0 h))
  | .mclaim g d a b => some (formR 0x90 g d a b 0 0)
  | .mrel g a b => some (formR 0x91 g Z a b 0 0)
  | .mstage g a b => some (formR 0x92 g Z a b 0 1)
  | .mloop g ta tb sc nt a b c =>
      some (formR 0x93 g Z a b c.code (modWord ta.toNat 0 0 (nt.toNat * 32 + sc.toNat * 16 + tb.toNat)))
  | .msca g a b c => some (formR 0x94 g Z a b c.code 15)
  | .mread g d a => some (formR 0x95 g d a Z 0 1)
  | .mzero g b => some (formR 0x96 g Z Z b 0 0)
  | .mdrain g op o sc f a b c =>
      some (formR 0x97 g Z a b c.code (modWord (4 * f.toNat) 0 0 (sc.toNat * 8 + o.toNat * 4 + op.toNat)))
  | .msyncWait g d b => some (formR 0x98 g d Z b 0 0)
  | .msyncStat g d => some (formR 0x98 g d Z Z 0 (modWord 0 0 1 0))
  | .vcfg g p au rs a b => some (formR 0x99 g Z a b 0 (modWord 0 0 0 (p.toNat * 32 + au.toNat * 16 + rs.toNat * 8)))
  | .topk g a b c => some (formR 0xA0 g Z a b c.code 0)
  | .topkmMerge g a b => some (formR 0xA1 g Z a b 0 0)
  | .topkmStore g a b => some (formR 0xA1 g Z a b 0 (modWord 0 0 1 0))
  | .topkr g d a b => some (formR 0xA2 g d a b 0 0)
  | .vthr g a b => some (formR 0xA3 g Z a b 0 0)
  | .trace g sn d a b c => some (formR 0xB0 g d a b c.code (modWord 1 0 0 sn))
  | .psalloc g d a => some (formR 0xB1 g d a Z 0 1)
  | .psfree g d a b => some (formR 0xB2 g d a b 0 1)
  | .sqpush g q d a b => some (formR 0xB3 g d a b 0 (modWord 1 0 q.toNat 0))
  | .sqpop g q d a => some (formR 0xB4 g d a Z 0 (modWord 1 0 q.toNat 0))
  | .tex g m d a b c => some (formR 0xB5 g d a b c.code (modWord 4 0 m.toNat 0))
  | .texg g m ch d a b c => some (formR 0xB6 g d a b c.code (modWord 4 0 m.toNat ch))
  | .texqLod g m d a b => some (formR 0xB7 g d a b 0 (modWord 4 0 m.toNat 0))
  | .texqDims g d a b => some (formR 0xB7 g d a b 0 (modWord 4 0 0 1))
  | .attr g n a0 d a b => some (formR 0xB8 g d a b 0 (modWord 4 0 0 ((n - 1) * 16 + a0)))
  | .fback g d a b => some (formR 0xB9 g d a b 0 1)
  | .csrr g w d k => some (formX 0xC0 g d.code 0 (w.toNat * 4096 + k.toNat))
  | .csrw g w k a => some (formX 0xC1 g 0 a.code (w.toNat * 4096 + k.toNat))
  | .csrx g op w d k a => some (formX 0xC2 g d.code a.code (op.toNat * 16384 + w.toNat * 4096 + k.toNat))
  | .setperf g d a b => some (formR 0xC3 g d a b 0 0)
  | .launch g d a b => some (formR 0xC4 g d a b 0 0)
  | .tlbi g m a => some (formR 0xC5 g Z a Z 0 (modWord 0 0 m.toNat 0))
  | .trapack g d a => some (formR 0xC6 g d a Z 0 0)
  | _ => none

/-- A half's 30 bits (R136). -/
def Half.toNat (h : Half) : Nat :=
  h.hop.toNat * 2 ^ 24 + h.guard.toNat * 2 ^ 22 + h.dst.toNat * 2 ^ 15 + h.src.toNat * 2 ^ 8 + h.imm.toNat

/-- The word of an instruction, with header bits B and C zero; `none` for an event (R124, R127, R136). -/
def Instr.encodeNat (i : Instr) : Option Nat :=
  match i with
  | .pairWord h0 h1 => some (2 ^ 62 + h0.toNat * 2 ^ 30 + h1.toNat)
  | .unassignedOpcode w => some w.toNat
  | i => i.fields.map Fields.toNat

/-- The 64-bit word of an instruction, with header bits B and C zero. -/
def encode (i : Instr) : Option DWord := i.encodeNat.map (BitVec.ofNat 64)

/-! ## Decoding -/

/-- The header of a word (R124): B, and the class C. The P bit selects the word's kind. -/
structure Header where
  last : Bool
  cls : Nat
  deriving DecidableEq, Repr

/-- The header of the word whose value is `n` (R124). -/
def Header.ofNat (n : Nat) : Header := ⟨n / 2 ^ 63 % 2 == 1, n / 2 ^ 60 % 4⟩

/-- The word without B and C (R124). -/
def bodyOf (n : Nat) : Nat := n % 2 ^ 60 + n / 2 ^ 62 % 2 * 2 ^ 62

/-- Decoding of a full word (R142 checks 2 to 4). -/
def decodeFull (n : Nat) : Except DecodeError Instr :=
  let f := Fields.ofNat n
  if opAssigned f.op then
    match parse f with
    | some i => if i.wf && i.fields == some f then .ok i else .error .illegalInstruction
    | none => .error .illegalInstruction
  else .ok (.unassignedOpcode (BitVec.ofNat 64 (bodyOf n)))

/-- Decoding of a pair word (R142 checks 5 and 6). -/
def decodePair (n : Nat) : Except DecodeError Instr :=
  match parseHalf (n / 2 ^ 30 % 2 ^ 30), parseHalf (n % 2 ^ 30) with
  | some h0, some h1 =>
      if h0.wf && h1.wf then
        if pairLegal h0 h1 then .ok (.pairWord h0 h1) else .error .illegalPair
      else .error .illegalInstruction
  | _, _ => .error .illegalInstruction

/-- Decoding of any word, in the order of R142. -/
def decodeNat (n : Nat) : Except DecodeError Instr :=
  if n / 2 ^ 62 % 2 == 1 then decodePair n else decodeFull n

/-- Decoding of a 64-bit word (R142). -/
def decode (w : DWord) : Except DecodeError Instr := decodeNat w.toNat

/-- The instruction the decoder reads from a word given by the table's bit numbering: one 64-bit word, whose bits above
`nbits` are zero (R119, R127). -/
def decodeTableWord (nbits w : Nat) : Option Instr :=
  match decode (BitVec.ofNat 64 (if nbits < 64 then w % 2 ^ nbits else w)) with
  | .ok i => some i
  | .error _ => none

end Sys2Proof
end

