-- ==== Sys2Proof/Machine/Events.lean ====
section
/-! DEFINITION. Event slots, WAITANY, mailboxes and sleep (R204, R374 to R391). -/

namespace Sys2Proof.Machine

/-! ## Slots -/

/-- A group's event slot. -/
def Group.ev (g : Group) (n : Nat) : EvSlot := g.events.getD n {}

/-- A group with an event slot replaced. -/
def Group.setEv (g : Group) (n : Nat) (e : EvSlot) : Group := { g with events := g.events.set n e }

/-- The slots for which `p` holds, as bits [15:0]. -/
def Group.slotMask (g : Group) (p : EvSlot → Bool) : Word :=
  maskOf fun n => n < 16 && p (g.ev n)

/-- PND (R376). -/
def Group.pnd (g : Group) : Word := g.slotMask EvSlot.pend

/-- ARM (R376). -/
def Group.arm (g : Group) : Word := g.slotMask EvSlot.armed

/-- The slot at whose PC a wait has ended goes on at the next word. -/
def Part.resume (p : Part) : Part := p.goTo (p.pc + 8)

/-- A sleeping slot wakes (R204). -/
def Part.wakeSleep (p : Part) : Part :=
  match p.wait with
  | some (.sleep _) => p.resume
  | _ => p

/-- A part frozen at a SLEEP wakes: its wait is over as soon as it runs again (R204, R390). -/
def Part.wakeFrozen (p : Part) : Part :=
  match p.wait with
  | some (.sleep _) => { p with wait := some (.sleep 0) }
  | _ => p

/-- The parts that a frame holds wake from SLEEP. -/
def Frame.wakeSleep (f : Frame) : Frame := { f with slotA := f.slotA.map Part.wakeFrozen, slotB := f.slotB.map Part.wakeFrozen }

/-- Both slots of a group wake from SLEEP, and with them the parts that its frames hold (R204, R390). -/
def Group.wakeSleep (g : Group) : Group :=
  { g with slotA := g.slotA.map Part.wakeSleep, slotB := g.slotB.map Part.wakeSleep, uframe := g.uframe.wakeSleep,
           sframe := g.sframe.wakeSleep }

/-- PEND of an armed slot set with its data (R374, R383); an enabled slot wakes a SLEEP (R204). -/
def Group.pendSet (g : Group) (n : Nat) (data : List Word) : Group :=
  let e := g.ev n
  if e.armed && !e.pend then
    let g' := g.setEv n { e with pend := true, data }
    if g.evmask.getLsbD n then g'.wakeSleep else g'
  else g

/-- A slot disarmed: its token unbound (R385, R388). -/
def Group.disarm (g : Group) (n : Nat) : Group :=
  let e := g.ev n
  { (g.setEv n { e with armed := false, pend := false }) with
    mailbox := g.mailbox.map fun t => if t.slot = some n then { t with slot := none } else t }

/-! ## Mailboxes (R387, R388) -/

/-- The lowest-numbered armed MBX slot without a token that takes tag `tag`. -/
def Group.mbxSlot (g : Group) (tag : Nat) : Option Nat :=
  (List.range 16).find? fun n =>
    (g.ev n).armed && (g.ev n).kind == .mbx && (g.mailbox.all fun t => t.slot != some n) &&
      ((g.ev n).object.toNat == tag || (g.ev n).object.toNat == 255)

/-- The oldest unbound token that a slot takes, bound to it (R388). -/
def Group.bindOne (g : Group) : Group :=
  match g.mailbox.findIdx? fun t => t.slot.isNone && (g.mbxSlot t.tag).isSome with
  | none => g
  | some k =>
    match g.mailbox[k]? with
    | none => g
    | some t =>
      match g.mbxSlot t.tag with
      | none => g
      | some n => ({ g with mailbox := g.mailbox.set k { t with slot := some n } }).pendSet n t.payload

/-- Every token that can be bound is bound; the queue holds four (R387). -/
def Group.bindTokens (g : Group) : Group := g.bindOne.bindOne.bindOne.bindOne

/-! ## Conditions (R375) -/

/-- PHASE of the barrier object at a scratch offset of a quarter (R366). -/
def State.barPhase (s : State) (q : Quarter) (off : Nat) : Nat :=
  fromBytes (cellsGet (s.core q.core).chip (q.base * 1024 + off + 4) 2)

/-- Data words of TIME (R383). -/
def timeData (t : DWord) : List Word := [lo32 t, hi32 t]

/-- The data words with which a BAR, RFILL, RFREE, PIPE, PEER or TIME slot would become pending now; none while its condition does not
hold (R375, R383). -/
def State.slotCond (s : State) (core : Nat) (t : Team) (e : EvSlot) : Option (List Word) :=
  match e.kind with
  | .bar =>
    match t.quarterOn core with
    | some q =>
      let p := s.barPhase q e.object.toNat
      if p ≠ bits e.target 15 0 then some [BitVec.ofNat 32 p] else none
    | none => none
  | .rfill =>
    match t.ring? e.object.toNat with
    | some r => if 0 < r.filled && r.state ≠ .broken then some [BitVec.ofNat 32 r.filled] else none
    | none => none
  | .rfree =>
    match t.ring? e.object.toNat with
    | some r => if 0 < r.free && r.state = .opened then some [BitVec.ofNat 32 r.free] else none
    | none => none
  | .pipe =>
    match t.ring? e.object.toNat with
    | some r => if r.state = .broken then some [2] else if r.state = .closed && r.filled = 0 then some [1] else none
    | none => none
  | .peer => if e.object.toNat < t.abend then some [BitVec.ofNat 32 t.abend, BitVec.ofNat 32 t.lastAbend] else none
  | .time => if e.object.toNat ≤ s.time.toNat then some (timeData s.time) else none
  | _ => none

/-- The comparison a MON slot asks for (R375, R378). -/
def monTest (c : EvCond) (t : IntType) : MonTest :=
  match c with
  | .eq => .eq
  | .ne => .ne
  | .ge => if t.signed then .geS else .geU
  | .gt => if t.signed then .gtS else .gtU

/-! ## EVARM (R377 to R380) -/

/-- The operands of EVARM, taken from lane `l`. -/
def evOperands (i : Issue) (k : EvKind) (t : IntType) (a b h : Operand) (l : Nat) : DWord × DWord × Word :=
  let obj : DWord := match k with
    | .cnt | .mon | .time => i.src64 false a l
    | _ => (i.srcN a l).setWidth 64
  let tgt : DWord := match k with
    | .bar => (i.srcN b l).setWidth 64
    | .cnt => i.src64 false b l
    | .mon => if t.is64 then i.src64 false b l else (i.srcN b l).setWidth 64
    | _ => 0
  (obj, tgt, i.srcN h l)

/-- The access an MWAIT or an event monitor makes of its word (R363, R380). -/
def monitorAccess (n : Nat) : Access :=
  { size := n, align := n, need := { r := true }, acc := 7, plain := false, aperture := false, windows := false }

/-- The trap of a barrier object's offset (R370). -/
def barTrap (i : Issue) (X : Word) (off acc : Nat) : Option Trap :=
  let va : DWord := BitVec.ofNat 64 (Config.scrBase + off)
  if off % 16 ≠ 0 then some (i.trap alignFault X (BitVec.ofNat 32 acc) va)
  else if i.alloc < off + 16 then some (i.trap accessFault X (BitVec.ofNat 32 acc) va)
  else none

/-- The access of a group as made in its mode. -/
def Access.by (a : Access) (i : Issue) : Access := { a with need := { a.need with sup := i.grp.mode = .supervisor } }

/-- EVARM (R377 to R380). -/
def execEvarm (g : Guard) (k : EvKind) (slot : Nat) (c : EvCond) (t : IntType) (a b h : Operand) (s : State) :
    Host.Outcome State Fault Refusal :=
  onIssue s fun i =>
    let X := i.lanes g
    match lowLane X with
    | none => .next s
    | some l =>
      let (obj, tgt, hofs) := evOperands i k t a b h l
      if cardEvents i.team.card ≤ slot || 2 ^ 24 - 1 < hofs.toNat || (k = .mbx && 255 < obj.toNat) then .trap (i.trap 0x03 X) s
      else if (k = .rfill || k = .rfree || k = .pipe) && (i.team.ring? obj.toNat).isNone then .trap (i.trap 0x03 X) s
      else
        match (if k = .bar then barTrap i X obj.toNat 7 else none) with
        | some tr => .trap tr s
        | none =>
          let armed (s : State) : Group → Group := fun g =>
            let g := (g.disarm slot).setEv slot
              { armed := true, pend := false, kind := k, cond := c, type := t, object := obj, target := tgt, hofs }
            let g := match s.slotCond i.core i.team (g.ev slot) with
              | some d => g.pendSet slot d
              | none => g
            g.bindTokens
          let free (s : State) : State := s.freeMonitors i.grp.team i.grp.gidx fun m => m == .event slot
          if k = .cnt || k = .mon then
            let wide := k = .cnt || t.is64
            let acc := (monitorAccess (if wide then 8 else 4)).by i
            match s.check i acc obj with
            | .error f => .trap (i.trap f.code X (f.info 7) obj) s
            | .ok (.win _ _) => .trap (i.trap accessFault X 7 obj) s
            | .ok (.dram key) =>
              let test := if k = .cnt then MonTest.geU else monTest c t
              let m : Monitor :=
                { team := i.grp.team, gidx := i.grp.gidx, target := .event slot, addr := key, wide, test, value := tgt }
              let v := s.watched m
              let s := (free s).fillTlb (some i.core) i.team.ctx obj.toNat
              if test.holds wide v tgt then
                .next ((s.modGroup i.key fun g => (armed s g).pendSet slot [lo32 v, hi32 v]).suspend i.key)
              else .next (({ (s.modGroup i.key (armed s)) with monitors := s.monitors ++ [m] } : State).suspend i.key)
          else .next ((free s).modGroup i.key (armed s))

/-! ## EVDIS (R385) -/

/-- EVDIS (R385). -/
def execEvdis (g : Guard) (d b : Operand) (s : State) : Host.Outcome State Fault Refusal :=
  onIssue s fun i =>
    let X := i.lanes g
    match lowLane X with
    | none => .next s
    | some l =>
      match i.budget X [d] with
      | some t => .trap t s
      | none =>
        let B := i.srcN b l
        let D := i.grp.pnd &&& B &&& 0xFFFF
        let n := min 16 (cardEvents i.team.card)
        let slots := (List.range n).filter fun k => B.getLsbD k
        let s := s.freeMonitors i.grp.team i.grp.gidx fun m => slots.any fun k => m == .event k
        .next (s.modGroup i.key fun g =>
          ((slots.foldl (fun g k => g.disarm k) g).bindTokens).put32 d X fun _ => D)

/-! ## WAITANY (R381 to R384) -/

/-- EVSLOT of a dispatch (R383); `tok` is the slot's token. -/
def evslotOf (n : Nat) (e : EvSlot) (tok : Option MailToken) : Word :=
  let (tag, sender) := match tok with
    | some t => (t.tag, t.sender)
    | none => (0, 0)
  BitVec.ofNat 32 (tag * 2 ^ 24 + sender * 2 ^ 16 + e.kind.toNat * 16 + n)

/-- A pending slot dispatched: EVSLOT and EVDATA set, the slot disarmed, its token taken from the queue (R381, R383, R388). -/
def Group.dispatch (g : Group) (n : Nat) : Group :=
  let e := g.ev n
  let tok := if e.kind = .mbx then g.mailbox.find? fun t => t.slot == some n else none
  let g := { g with evslot := evslotOf n e tok, evdata := (List.range 4).map fun k => e.data.getD k 0,
                    mailbox := g.mailbox.filter fun t => t.slot ≠ some n }
  (g.setEv n { e with armed := false, pend := false }).bindTokens

/-- Address of a slot's handler (R381). -/
def handlerOf (t : Team) (e : EvSlot) : DWord := BitVec.ofNat 64 (cardEntry t.card + e.hofs.toNat * 64)

/-- WAITANY (R381, R382). -/
def execWaitany (b : Operand) (s : State) : Host.Outcome State Fault Refusal :=
  onIssue s fun i =>
    let X := i.lanes Guard.always
    match lowLane X with
    | none => .next s
    | some l =>
      let M := i.srcN b l &&& 0xFFFF
      if i.grp.mode ≠ .normal || 1 < i.grp.partCount || M &&& i.grp.evmask &&& i.grp.arm = 0 then .trap (i.trap 0x03 X) s
      else
        match lowLane (i.grp.pnd &&& i.grp.evmask &&& M) with
        | none => .park (.waitany M) s
        | some n =>
          let t := handlerOf i.team (i.grp.ev n)
          let s := (s.freeMonitors i.grp.team i.grp.gidx fun m => m == .event n).modGroup i.key fun g => g.dispatch n
          if targetBad t then .trap (i.trap 0x05 X 0 t) s
          else .moved (s.modGroup i.key fun g => g.setSlot i.b ((g.slot i.b).map fun p => p.goTo t))

/-! ## MBOX (R386 to R389) -/

/-- MBOX (R386 to R389). -/
def execMbox (g : Guard) (try_ : Bool) (tag : BitVec 8) (d a p : Operand) (s : State) : Host.Outcome State Fault Refusal :=
  onIssue s fun i =>
    let X := i.lanes g
    match lowLane X with
    | none => .next (s.revoke i.grp.team)
    | some l =>
      let rcv := (i.srcN a l).toNat
      let key := s.groupKey i.grp.team rcv
      let queue := match key.bind s.group? with
        | some x => x.mailbox
        | none => []
      let full := 4 ≤ queue.length
      if i.team.fates.length ≤ rcv || (i.team.live rcv && full && !try_ && rcv = i.grp.gidx) then .trap (i.trap 0x03 X) s
      else
        match i.budget X [d] with
        | some t => .trap t s
        | none =>
          let s := s.revoke i.grp.team
          let ans (s : State) (v : Word) : Done := .next (s.modGroup i.key fun g => g.put32 d X fun _ => v)
          if !i.team.live rcv then ans s 1
          else if full then if try_ then ans s 2 else .park .reissue s
          else if !i.grp.quiet then .park .reissue s
          else
            let tok : MailToken :=
              { tag := tag.toNat, sender := i.grp.gidx, payload := (List.range 4).map fun k => i.srcN (Operand.next p k) l }
            match key with
            | some k => ans (s.modGroup k fun g => ({ g with mailbox := g.mailbox ++ [tok] }).bindTokens) 0
            | none => ans s 1

/-! ## TIME and sleep (R204, R375) -/

/-- EVENT_DEADLINE (R375): an armed TIME slot whose deadline has come. -/
def State.eventDeadline (s : State) (key slot : Nat) : Option State :=
  match s.group? key with
  | none => none
  | some g =>
    let e := g.ev slot
    if e.armed && !e.pend && e.kind = .time && e.object.toNat ≤ s.time.toNat then
      some (s.setGroup key (g.pendSet slot (timeData s.time)))
    else none

/-- EVENT_DEADLINE (R375). -/
def execEventDeadline (key slot : Nat) (s : State) : Host.Outcome State Fault Refusal := onEvent s (s.eventDeadline key slot)

/-- YIELD (R204): the slot's waiting time starts again from zero. -/
def State.yielded (s : State) (i : Issue) : Done :=
  .next (s.modGroup i.key fun g => g.setCand i.b { g.cand i.b with since := (s.core i.core).cycle, passed := 0 })

/-- SLEEP (R204): the longest duration among the executing lanes; an enabled event that becomes pending also wakes it. A duration of
0 acts as YIELD. -/
def execSleep (g : Guard) (b : Operand) (s : State) : Host.Outcome State Fault Refusal :=
  onIssue s fun i =>
    let X := i.lanes g
    if X = 0 then .next s
    else
      let D := ((lanesOf X).map fun l => (i.srcN b l).toNat).foldl max 0
      if D = 0 then s.yielded i else .park (.sleep (s.time.toNat + D)) s

/-- A sleeping slot whose deadline has come goes on (R204). -/
def State.sleepWake (s : State) (key : Nat) (b : Bool) : Option State :=
  match s.group? key with
  | none => none
  | some g =>
    match g.slot b with
    | none => none
    | some p =>
      match p.wait with
      | some (.sleep t) => if t ≤ s.time.toNat then some (s.setGroup key (g.setSlot b (some p.resume))) else none
      | _ => none

/-- SLEEP_WAKE (R204). -/
def execSleepWake (key : Nat) (slotB : Bool) (s : State) : Host.Outcome State Fault Refusal := onEvent s (s.sleepWake key slotB)

end Sys2Proof.Machine
end

