-- ==== Sys2Proof/Machine/Move.lean ====
section
/-! DEFINITION. Moves, selection, integer comparison and address arithmetic (R131, R174 to R176, R218), and NOP (R135). -/

namespace Sys2Proof.Machine

/-- NOP (R135). -/
def execNop (_g : Guard) (s : State) : Host.Outcome State Fault Refusal := onIssue s fun _ => .next s

/-- MOV. -/
def execMov (g : Guard) (t : IntType) (d b : Operand) (s : State) : Host.Outcome State Fault Refusal :=
  intWord s g t.is64 d fun i l => i.int t b l

/-- The value of a destination register in a lane, as MOVH reads it. -/
def Issue.readDst (i : Issue) (d : Operand) (l : Nat) : Word := i.srcN d l

/-- MOVH: the upper half replaced. -/
def execMovh (g : Guard) (d : Operand) (k : BitVec 16) (s : State) : Host.Outcome State Fault Refusal :=
  wordWord s g d fun i l => (i.readDst d l &&& 0x0000FFFF) ||| (k.setWidth 32 <<< 16)

/-- SEL. -/
def execSel (g : Guard) (t : IntType) (neg : Bool) (n : Nat) (d a b : Operand) (s : State) : Host.Outcome State Fault Refusal :=
  bitWord s g t d
    (fun i l => if ((i.grp.pred n).getLsbD l) != neg then i.srcN a l else i.srcN b l)
    (fun i l => if ((i.grp.pred n).getLsbD l) != neg then i.src64 false a l else i.src64 false b l)

/-- ICMP. -/
def execIcmp (g : Guard) (t : IntType) (c : Cond) (cb : Comb) (n : Nat) (a b : Operand) (s : State) :
    Host.Outcome State Fault Refusal :=
  laneWord s g [] fun i X gr => gr.combPred n cb X fun l => condInt c (i.int t a l) (i.int t b l)

/-- The address of a form-M operand in lane `l`: base + ext(index) x scale + displacement, modulo 2^64 (R175, R218). -/
def Issue.addrX (i : Issue) (unsigned : Bool) (m : MemArg) (l : Nat) : DWord :=
  let x := i.srcN m.index l
  let ext : DWord := if unsigned then x.setWidth 64 else x.signExtend 64
  i.src64 false m.base l + ext * BitVec.ofNat 64 (2 ^ m.scale) + m.disp.signExtend 64

/-- LEA. -/
def execLea (g : Guard) (ux : Bool) (d : Operand) (m : MemArg) (s : State) : Host.Outcome State Fault Refusal :=
  laneWord s g (typeDests true d) fun i X gr => gr.put64 d X fun l => i.addrX ux m l

end Sys2Proof.Machine
end

