-- ==== Sys2Proof/Machine/Mem.lean ====
section
/-! DEFINITION. Loads, stores, LDB, PREF, CACHE, FENCE and VDROP (R232 to R241, R253, R256). -/

namespace Sys2Proof.Machine

/-! ## Shared shapes -/

/-- The access of a load or store of `n` bytes that the issuing group makes. -/
def Issue.access (i : Issue) (n : Nat) (store : Bool) : Access :=
  ({ size := n, align := n, need := { r := !store, w := store }, acc := if store then 1 else 0, store } : Access).by i

/-- The lanes that change no memory (R92). -/
def Issue.mute (i : Issue) : Word := i.grp.helper ||| i.grp.vacant

/-- The lanes of a list of performed lanes. -/
def performedMask (ps : List (Nat × Loc)) : Word := maskOf fun l => ps.any fun p => p.1 == l

/-- The performed lanes whose places lie on peers, with the device (R438). -/
def peersOf (ps : List (Nat × Loc)) : List (Nat × Nat) := ps.filterMap fun p => p.2.peer?.map fun d => (p.1, d)

/-- The place at which a lane performed. -/
def placeOf (ps : List (Nat × Loc)) (l : Nat) : Option Loc := (ps.find? fun p => p.1 == l).map fun p => p.2

/-- The bytes a lane's load returns. -/
def State.loaded (s : State) (ps : List (Nat × Loc)) (n l : Nat) : Nat :=
  match placeOf ps l with
  | some loc => s.readLocNat loc n
  | none => 0

/-- The mask in which a destination is written when the lanes of `M` out of `X` performed: a uniform register takes the value of the
lowest-numbered executing lane, so it waits for that lane (R129, R236). -/
def writeMask (d : Operand) (X M : Word) : Word :=
  match d with
  | .s _ => match lowLane X with
    | some l => if M.getLsbD l then M else 0
    | none => 0
  | _ => M

/-- A 32-bit destination bound, with what it holds (R109). -/
def Group.bind32 (g : Group) (d : Operand) (M : Word) : Group :=
  match d with
  | .v n => g.setV n M (g.v n)
  | _ => g

/-- Values that memory returns, outstanding on the scoreboard until they arrive (R149): the destination is bound, and those of a load are in
place, since nothing can read them before; those of an atomic come with its reply (R421). -/
def Group.putReturned (g : Group) (atomic : Bool) (d : Operand) (M : Word) (words : Nat) (f : Nat → Nat → Word)
    (peers : List (Nat × Nat) := []) (part : Word := 0) (units : List LoadUnit := []) (acq : Bool := false) : Group :=
  if M = 0 then g
  else
    let g := if atomic then (List.range words).foldl (fun g k => g.bind32 (Operand.next d k) M) g else g.putMany d M words f
    { g with outstanding := g.outstanding ++
        [{ atomic, dst := d, words, mask := M, values := (List.range words).map fun k => laneList.map (f k), peers, part, units, acq }] }

/-- The consecutive registers of a destination. -/
def spanDests (d : Operand) (words : Nat) : List Operand := (List.range words).map (Operand.next d)

/-- Several addresses checked for a word that acts once: their places, or the first check in the order of R232 that fails for any, with
the first address for which it fails; a suspension at a demand window comes last. -/
def State.checkMany (s : State) (i : Issue) (a : Access) (vas : List DWord) : Except (CheckFail × DWord) (List Loc) :=
  let rs := vas.map fun va => (va, s.check i a va)
  let fails := rs.filterMap fun r =>
    match r.2 with
    | .error f => some (f, r.1)
    | .ok _ => none
  match argMin (fun p : CheckFail × DWord => if p.1.code = 0 then 9 else p.1.order) fails with
  | some p => .error p
  | none => .ok (rs.filterMap fun r =>
      match r.2 with
      | .ok loc => some loc
      | .error _ => none)

/-! ## LD, ST and LDB -/

/-- Bytes of an access size. -/
def MemSize.bytes : MemSize → Nat
  | .n8 | .i8 => 1
  | .h16 => 2
  | .w32 => 4
  | .w64 => 8
  | .x4 => 16

/-- Registers of an access size. -/
def MemSize.words : MemSize → Nat
  | .w64 => 2
  | .x4 => 4
  | _ => 1

/-- A loaded number as register words (R236). -/
def MemSize.value (sz : MemSize) (x k : Nat) : Word :=
  match sz with
  | .i8 => (BitVec.ofNat 8 x).signExtend 32
  | _ => wordOf x k

/-- LD (R236). -/
def execLd (g : Guard) (nl1 : Bool) (sz : MemSize) (acq : Bool) (_sc : Scope) (d : Operand) (m : MemArg) (s : State) :
    Host.Outcome State Fault Refusal :=
  onIssue s fun i =>
    let X := i.lanes g
    let va := i.addrX false m
    let n := MemSize.bytes sz
    if X = 0 then .next s
    else
      match i.budget X (spanDests d (MemSize.words sz)) with
      | some t => .trap t s
      | none =>
        let c := s.checkLanes i (i.access n false) X va
        let s := s.fillLanes i X va
        if c.suspend then .park .window (s.startCopies i X n va)
        else
          let M := writeMask d X (performedMask c.perform)
          let vals (k l : Nat) : Word := MemSize.value sz (s.loaded c.perform n l) k
          let s := (s.cacheLoads i c.perform n nl1 va).modGroup i.key fun g => 
            g.putReturned false d M (MemSize.words sz) vals (peersOf c.perform) i.part.mask (loadUnits c.perform n (sz = .i8)) acq
          match c.trap with
          | some t => .trap t s
          | none => .next (s.suspend i.key)

/-- The data of a store or RED in lane `l`, as a number; inline constants are sign-extended (R235). -/
def Issue.storeData (i : Issue) (words : Nat) (d : Operand) (l : Nat) : Nat :=
  match d with
  | .v _ | .s _ => fromBytes ((List.range words).flatMap fun k => toBytes 4 (i.srcN (Operand.next d k) l).toNat)
  | .inline k => ((inlineInt k).signExtend 128).toNat
  | o => (i.srcN o l).toNat

/-- Lanes stored in ascending order: the last lane to write a byte sets it (R234). -/
def State.storeLanes (s : State) (ps : List (Nat × Loc)) (n : Nat) (data : Nat → Nat) : State :=
  ps.foldl (fun s p => s.writeLocNat p.2 n (data p.1)) s

/-- The stores of a word's lanes: performed as it issues, or unit by unit afterwards where its slot's store performs late (R346, R353; log 9). -/
def State.issueStores (s : State) (i : Issue) (ps : List (Nat × Loc)) (n : Nat) (data : Nat → Nat) : State :=
  if i.part.delay then s.modGroup i.key fun g => { g with late := g.late ++ storeUnits ps n data i.part.mask s.fresh }
  else s.storeLanes ps n data

/-- ST (R236, R92). -/
def execSt (g : Guard) (nl1 : Bool) (sz : MemSize) (rel : Bool) (_sc : Scope) (d : Operand) (m : MemArg) (s : State) :
    Host.Outcome State Fault Refusal :=
  onIssue s fun i =>
    let X := i.lanes g
    let Y := X &&& ~~~i.mute
    let va := i.addrX false m
    let n := MemSize.bytes sz
    if X = 0 then .next s
    else if rel && !i.grp.quiet then .park .reissue s
    else
      let c := s.checkLanes i (i.access n true) Y va
      let s := s.fillLanes i Y va
      let s := (s.cacheStores i c.perform n nl1 va).issueStores i c.perform n (i.storeData (MemSize.words sz) d)
      match c.trap with
      | some t => .trap { t with exmask := X } s
      | none => .next (s.suspend i.key)

/-- LDB (R236): once for the group, at the address of the lowest-numbered executing lane. -/
def execLdb (g : Guard) (sz : Nat) (acq : Bool) (_sc : Scope) (d : Operand) (m : MemArg) (s : State) :
    Host.Outcome State Fault Refusal :=
  onIssue s fun i =>
    let X := i.lanes g
    let va := i.addrX false m
    let words := 2 ^ sz
    let n := 4 * words
    match lowLane X with
    | none => .next s
    | some l =>
      let one := BitVec.twoPow 32 l
      let c := s.checkLanes i (i.access n false) one va
      let s := s.fillLanes i one va
      if c.suspend then .park .window (s.startCopies i one n va)
      else
        match c.trap with
        | some t => .trap { t with exmask := X } s
        | none =>
          let x := s.loaded c.perform n l
          let s := s.cacheLoads i c.perform n false va
          .next ((s.modGroup i.key fun g =>
            g.putReturned false d one words (fun k _ => wordOf x k) (peersOf c.perform) i.part.mask (loadUnits c.perform n false) acq).suspend i.key)

/-! ## PREF and CACHE (R238, R239) -/

/-- The places of this device's DRAM that the lanes of `X` name and whose checks pass; the others do nothing. -/
def State.linePlaces (s : State) (i : Issue) (X : Word) (va : Nat → DWord) : List (Nat × Nat) :=
  (lanesOf X).filterMap fun l =>
    match s.check i (({ size := 1, align := 1, need := { r := true }, acc := 0, plain := false, aperture := false } : Access).by i) (va l) with
    | .ok loc => (Loc.physical? loc).map fun pa => (l, pa)
    | .error _ => none

/-- PREF (R238). -/
def execPref (g : Guard) (lvl : PrefLevel) (m : MemArg) (s : State) : Host.Outcome State Fault Refusal :=
  onIssue s fun i =>
    let va := i.addrX false m
    .next ((s.linePlaces i (i.lanes g) va).foldl (fun s p =>
      let line := p.2 / 128
      let alloc := s.cachedPage i.core i.team.ctx (va p.1).toNat
      match lvl with
      | .l1 => s.l1Load i.core (128 * line) 128 alloc
      | .l2 => s.fillL2 line
      | .l1x => (s.snoop i.core line fun _ => none).l1Load i.core (128 * line) 128 alloc) s)

/-- CACHE.wb. -/
def execCacheWb (g : Guard) (m : MemArg) (s : State) : Host.Outcome State Fault Refusal :=
  onIssue s fun i =>
    let lines := (s.linePlaces i (i.lanes g) (i.addrX false m)).map fun p => p.2 / 128
    .next (s.modCore i.core fun c => { c with l1 := c.l1.map fun y => if y.line ∈ lines then y.written else y })

/-- CACHE.wbinv. -/
def execCacheWbinv (g : Guard) (m : MemArg) (s : State) : Host.Outcome State Fault Refusal :=
  onIssue s fun i =>
    let lines := (s.linePlaces i (i.lanes g) (i.addrX false m)).map fun p => p.2 / 128
    .next (s.modCore i.core fun c => { c with l1 := c.l1.filter fun y => y.line ∉ lines })

/-- The line-aligned address of a lane. -/
def lineOf (va : DWord) : DWord := va &&& ~~~0x7F

/-- CACHE.zero: a store of 128 zero bytes per line, without the alignment check. -/
def execCacheZero (g : Guard) (m : MemArg) (s : State) : Host.Outcome State Fault Refusal :=
  onIssue s fun i =>
    let X := i.lanes g
    let va := i.addrX false m
    let line (l : Nat) : DWord := lineOf (va l)
    if X = 0 then .next s
    else
      let c := s.checkLanes i (({ size := 128, align := 1, need := { w := true }, acc := 1, store := true } : Access).by i) X line
      let s := s.fillLanes i X line
      let s := (s.cacheStores i c.perform 128 false line).storeLanes c.perform 128 fun _ => 0
      match c.trap with
      | some t =>
        let addr := match (lanesOf X).find? fun l => line l = t.addr with
          | some l => va l
          | none => t.addr
        .trap { t with addr } s
      | none => .next (s.suspend i.key)

/-- CACHE.iinv: the team's fetch blocks are discarded (R123, R239). -/
def execCacheIinv (g : Guard) (s : State) : Host.Outcome State Fault Refusal :=
  onIssue s fun i =>
    if i.lanes g = 0 then .next s else .next (s.modTeam i.grp.team fun t => { t with blocks := [] })

/-- CACHE.l1wb. -/
def execCacheL1wb (g : Guard) (s : State) : Host.Outcome State Fault Refusal :=
  onIssue s fun i =>
    if i.lanes g = 0 then .next s
    else .next (s.modCore i.core fun c => { c with l1 := c.l1.map L1Line.written })

/-! ## FENCE and VDROP (R240, R241) -/

/-- FENCE (R240): `.rel` and `.ar` park until every earlier access of the group has performed, at every scope at once (log 9); after `.acq` the
loads and atomics that are outstanding complete before a later access performs. -/
def execFence (k : FenceKind) (_sc : Scope) (s : State) : Host.Outcome State Fault Refusal :=
  onIssue s fun i =>
    if (k = .rel || k = .ar) && !i.grp.quiet then .park .reissue s
    else .next (if k = .acq then s.modGroup i.key Group.acquireAll else s)

/-- A write to some register of [a, b] of a group is outstanding: from memory, or from the walk engine (R241, R245). -/
def State.writesPending (s : State) (key : Nat) (g : Group) (a b : Nat) : Bool :=
  (g.outstanding.any fun p =>
    match p.dst with
    | .v n => n ≤ b && a < n + p.words
    | _ => false) ||
  (s.core (keyCore key)).requests.any fun r => r.fills g a b

/-- VDROP (R241). -/
def execVdrop (vF vL : Operand) (s : State) : Host.Outcome State Fault Refusal :=
  onIssue s fun i =>
    match vF, vL with
    | .v a, .v b =>
      if s.writesPending i.key i.grp a b then .park .reissue s else .next (s.modGroup i.key fun g => g.unbind a b)
    | _, _ => .next s

end Sys2Proof.Machine
end

