-- ==== Sys2Proof/Machine/Atomics.lean ====
section
/-! DEFINITION. ATOM, RED and MWAIT (R357, R359 to R365, R417). -/

namespace Sys2Proof.Machine

/-! ## The data of an atomic (R360) -/

/-- Data D of lane `l`: the low bytes of the data operand; an inline constant takes the FP32 column for FP32 operations. -/
def Issue.atomData (i : Issue) (op : AtomOp) (d : Operand) (l : Nat) : Nat :=
  (match d with
   | .inline k => if AtomOp.float op then (inlineF32 k).toNat else i.storeData (AtomOp.words op) d l
   | _ => i.storeData (AtomOp.words op) d l) % 2 ^ (8 * AtomOp.bytes op)

/-- N of lane `l`: the registers after D (R360). -/
def Issue.casData (i : Issue) (op : AtomOp) (d : Operand) (l : Nat) : Nat :=
  i.storeData (AtomOp.words op) (Operand.next d (AtomOp.words op)) l

/-- The lanes applied in ascending order, each an indivisible step: the state, and the old value of each lane (R361). Where the slot's atomic
performs late, its units perform by events of their own, and `ret` says that they return the old values (R346, R348; log 9). -/
def State.atomLanes (s : State) (i : Issue) (op : AtomOp) (d : Operand) (ps : List (Nat × Loc)) (ret : Bool) : State × List (Nat × Nat) :=
  if i.part.delay then
    (s.modGroup i.key fun g => { g with late := g.late ++ ps.map fun p : Nat × Loc =>
      { lane := p.1, part := i.part.mask, loc := p.2, size := AtomOp.bytes op, word := s.fresh, reply := if ret then some d else none
        effect := .atom op (i.atomData op d p.1) (i.casData op d p.1) } }, [])
  else ps.foldl (fun acc p =>
    let m := acc.1.readLocNat p.2 (AtomOp.bytes op)
    (acc.1.writeLocNat p.2 (AtomOp.bytes op) (AtomOp.apply op m (i.atomData op d p.1) (i.casData op d p.1)), acc.2 ++ [(p.1, m)])) (s, [])

/-- The lines after an atomic: near in the issuer's L1, far at the home (R357, R359). -/
def State.cacheAtoms (s : State) (i : Issue) (sc : Scope) (ps : List (Nat × Loc)) (n : Nat) (va : Nat → DWord) : State :=
  ps.foldl (fun s p =>
    match p.2.physical? with
    | some pa =>
      if (sc = .dflt || sc = .grp || sc = .team) && s.cachedPage i.core i.team.ctx (va p.1).toNat then s.l1Store i.core pa n true
      else s.l1Far i.core pa
    | none => s) s

/-- The access of an atomic: it reads and writes its operand, in scratch or in memory but in no on-chip window (R362). -/
def Issue.atomAccess (i : Issue) (op : AtomOp) : Access :=
  ({ size := AtomOp.bytes op, align := AtomOp.bytes op, need := { r := true, w := true }, acc := 2, store := true,
     windows := false } : Access).by i

/-- ATOM and RED (R361, R362): `ret` says that the old value is returned, which its reply brings. The word revokes retake eligibility, unless
a trap stops it with no lane performed (R417). -/
def atomWord (s : State) (g : Guard) (op : AtomOp) (acq rel : Bool) (sc : Scope) (d : Operand) (m : MemArg) (ret : Bool) :
    Host.Outcome State Fault Refusal :=
  onIssue s fun i =>
    let X := i.lanes g
    let Y := X &&& ~~~i.mute
    let va := i.addrX false m
    let ds := if ret then spanDests d (AtomOp.words op) else []
    if X = 0 then .next (s.revoke i.grp.team)
    else
      match i.verdictTrap X (fun l => AtomOp.float op && isVerdict (BitVec.ofNat 32 (i.atomData op d l))), i.budget X ds with
      | some t, _ => .trap t s
      | none, some t => .trap t s
      | none, none =>
        if rel && !i.grp.quiet then .park .reissue (s.revoke i.grp.team)
        else
          let c := s.checkLanes i (i.atomAccess op) Y va
          let s := if c.trap.isSome && c.perform.isEmpty then s else s.revoke i.grp.team
          let s := (s.fillLanes i Y va).cacheAtoms i sc c.perform (AtomOp.bytes op) va
          let (s, olds) := s.atomLanes i op d c.perform ret
          let old (l : Nat) : Nat := match olds.find? fun p : Nat × Nat => p.1 == l with
            | some p => p.2
            | none => 0
          let done := match c.trap with
            | some _ => performedMask c.perform
            | none => X
          let s := if ret then
              s.modGroup i.key fun g => g.putReturned true d (writeMask d X done) (AtomOp.words op)
                (fun k l => wordOf (old l) k) (peersOf c.perform) i.part.mask [] acq
            else s
          match c.trap with
          | some t => .trap { t with exmask := X } s
          | none => .next (s.suspend i.key)

/-- ATOM. -/
def execAtom (g : Guard) (op : AtomOp) (o : Ord) (sc : Scope) (d : Operand) (m : MemArg) (s : State) :
    Host.Outcome State Fault Refusal := atomWord s g op (o = .acq || o = .ar) (o = .rel || o = .ar) sc d m true

/-- RED. -/
def execRed (g : Guard) (op : AtomOp) (rel : Bool) (sc : Scope) (d : Operand) (m : MemArg) (s : State) :
    Host.Outcome State Fault Refusal := atomWord s g op false rel sc d m false

/-! ## MWAIT (R363 to R365) -/

/-- The comparison of an MWAIT. -/
def MonCond.test : MonCond → MonTest
  | .eq => .eq
  | .ne => .ne
  | .geU => .geU
  | .geS => .geS
  | .gtU => .gtU
  | .gtS => .gtS

/-- MWAIT (R363): satisfied at arming, or armed with the slot parked. It revokes retake eligibility unless it traps (R417). -/
def execMwait (g : Guard) (c : MonCond) (w64 : Bool) (_acq : Bool) (_sc : Scope) (d : Operand) (m : MemArg) (s : State) :
    Host.Outcome State Fault Refusal :=
  onIssue s fun i =>
    let X := i.lanes g
    match lowLane X with
    | none => .next (s.revoke i.grp.team)
    | some l =>
      let va := i.addrX false m l
      let value : DWord := if w64 then i.src64 false d l else (i.srcN d l).setWidth 64
      match s.check i ((monitorAccess (if w64 then 8 else 4)).by i) va with
      | .error f => .trap (i.trap f.code X (f.info 7) va) s
      | .ok (.win _ _) => .trap (i.trap accessFault X 7 va) s
      | .ok (.dram key) =>
        let x : Monitor :=
          { team := i.grp.team, gidx := i.grp.gidx, target := .slot i.b, addr := key, wide := w64, test := MonCond.test c, value, pc := i.pc }
        let s := (s.revoke i.grp.team).fillTlb (some i.core) i.team.ctx va.toNat
        if x.test.holds w64 (s.watched x) value then .next s else .park .monitor { s with monitors := s.monitors ++ [x] }

end Sys2Proof.Machine
end

