-- ==== Sys2Proof/Machine/Barriers.lean ====
section
/-! DEFINITION. Barrier objects in scratch and route-tag barriers: BAR, TBAR and the completion of a tag's phase (R366 to R372). -/

namespace Sys2Proof.Machine

/-! ## BAR (R369, R370) -/

/-- The word's effect at its object once the checks of R370 have passed; `store` says that locks and windows treat it as ATOM, `rel` that it
releases (R369). `f` has the quarter, the offset, the object, and the executing lanes. -/
def barWord (s : State) (g : Guard) (store rel : Bool) (ds : List Operand) (a : Operand)
    (f : Issue → Quarter → Nat → BarObj → Word → Done) : Host.Outcome State Fault Refusal :=
  onIssue s fun i =>
    let X := i.lanes g
    match lowLane X with
    | none => .next s
    | some l =>
      let off := (i.srcN a l).toNat
      let va : DWord := BitVec.ofNat 64 (Config.scrBase + off)
      let acc := if store then 2 else 0
      let access : Access := { size := 16, align := 16, need := {}, acc, store }
      match i.budget X ds, barTrap i X off acc, i.team.quarterOn i.core with
      | some t, _, _ => .trap t s
      | none, some t, _ => .trap t s
      | none, none, none => .trap (i.trap accessFault X (BitVec.ofNat 32 acc) va) s
      | none, none, some q =>
        match s.check i access va with
        | .error e =>
          if e.code = 0 then .park .window (s.startCopies i (BitVec.twoPow 32 l) 16 fun _ => va)
          else .trap (i.trap e.code X (e.info acc) va) s
        | .ok _ => if rel && !i.grp.quiet then .park .reissue s else f i q off (s.barGet q off) X

/-- A step on the object that returns the phase: arrive, drop, join and expect (R367 to R369). `rec` changes the participation record,
with the phase before the step. -/
def barStepWord (s : State) (g : Guard) (rel : Bool) (d a : Operand) (step : Issue → Nat → BarObj → Option BarObj)
    (record : Group → Nat → Nat → Group) : Host.Outcome State Fault Refusal :=
  barWord s g true rel [d] a fun i q off o X =>
    match step i ((lowLane X).getD 0) o with
    | none => .trap (i.trap 0x03 X) s
    | some o' =>
      .next ((s.barSet q off o').modGroup i.key fun g => (record g off o.phase).put32 d X fun _ => BitVec.ofNat 32 o.phase)

/-- A byte count n (R369). -/
def Issue.barCount (i : Issue) (b : Operand) (l : Nat) : DWord := (i.srcN b l).setWidth 64

/-- BAR.arrive. -/
def execBarArrive (g : Guard) (d a b : Operand) (s : State) : Host.Outcome State Fault Refusal :=
  barStepWord s g true d a (fun i l o => o.arrive (i.barCount b l)) fun g off p => { g with barriers := barEnter g.barriers off (some p) }

/-- BAR.drop: the object enters the group's record and leaves it (R368). -/
def execBarDrop (g : Guard) (d a b : Operand) (s : State) : Host.Outcome State Fault Refusal :=
  barStepWord s g true d a (fun i l o => o.drop (i.barCount b l)) fun g off p =>
    { g with barriers := (barEnter g.barriers off (some p)).filter fun x => x.1 ≠ off }

/-- BAR.join. -/
def execBarJoin (g : Guard) (d a : Operand) (s : State) : Host.Outcome State Fault Refusal :=
  barStepWord s g false d a (fun _ _ o => o.join) fun g off _ => { g with barriers := barEnter g.barriers off none }

/-- BAR.expect. -/
def execBarExpect (g : Guard) (d a b : Operand) (s : State) : Host.Outcome State Fault Refusal :=
  barStepWord s g false d a (fun i l o => o.expect (i.barCount b l)) fun g _ _ => g

/-- BAR.wait. -/
def execBarWait (g : Guard) (a b : Operand) (s : State) : Host.Outcome State Fault Refusal :=
  barWord s g false false [] a fun i _ off o X =>
    let token := i.srcN b ((lowLane X).getD 0)
    if o.phase ≠ bits token 15 0 then .next s else .park (.bar (BitVec.ofNat 64 off) token) s

/-- BAR.sync: arrive, then wait with the phase. -/
def execBarSync (g : Guard) (a b : Operand) (s : State) : Host.Outcome State Fault Refusal :=
  barWord s g true true [] a fun i q off o X =>
    match o.arrive (i.barCount b ((lowLane X).getD 0)) with
    | none => .trap (i.trap 0x03 X) s
    | some o' =>
      let s := (s.barSet q off o').modGroup i.key fun g => { g with barriers := barEnter g.barriers off (some o.phase) }
      if o'.phase ≠ o.phase then .next s else .park (.barSync (BitVec.ofNat 64 off) (BitVec.ofNat 32 o.phase)) s

/-- BAR.test. -/
def execBarTest (g : Guard) (d a b : Operand) (s : State) : Host.Outcome State Fault Refusal :=
  barWord s g false false [d] a fun i _ _ o X =>
    let token := i.srcN b ((lowLane X).getD 0)
    .next (s.modGroup i.key fun g => g.put32 d X fun _ => ofBool (o.phase ≠ bits token 15 0))

/-! ## TBAR (R371, R372) -/

/-- A TBAR word: nothing without a lane, the illegal-operand trap for a tag the team does not hold. -/
def tbarWord (s : State) (g : Guard) (t : Nat) (ds : List Operand) (f : Issue → Tag → Word → Done) :
    Host.Outcome State Fault Refusal :=
  onIssue s fun i =>
    let X := i.lanes g
    if X = 0 then .next s
    else
      match i.team.tags[t]?, i.budget X ds with
      | none, _ => .trap (i.trap 0x03 X) s
      | some _, some tr => .trap tr s
      | some x, none => f i x X

/-- The arrival of a group at a tag; none when it has arrived in this phase already (R372). -/
def State.tagArrive (s : State) (i : Issue) (t : Nat) (x : Tag) : Option State :=
  if x.arrived.contains i.grp.gidx then none
  else
    some (s.modTeam i.grp.team fun tm =>
      ({ tm with tags := tm.tags.set t { x with arrived := x.arrived ++ [i.grp.gidx] } }).tagCheck (s.core i.core).cycle)

/-- TBAR.sync. -/
def execTbarSync (g : Guard) (t : Nat) (s : State) : Host.Outcome State Fault Refusal :=
  tbarWord s g t [] fun i x X =>
    if !i.grp.quiet then .park .reissue s
    else
      match s.tagArrive i t x with
      | none => .trap (i.trap 0x03 X) s
      | some s => .park (.tbarSync t (BitVec.ofNat 32 x.phase)) s

/-- TBAR.arrive. -/
def execTbarArrive (g : Guard) (t : Nat) (d : Operand) (s : State) : Host.Outcome State Fault Refusal :=
  tbarWord s g t [d] fun i x X =>
    if !i.grp.quiet then .park .reissue s
    else
      match s.tagArrive i t x with
      | none => .trap (i.trap 0x03 X) s
      | some s => .next (s.modGroup i.key fun g => g.put32 d X fun _ => BitVec.ofNat 32 x.phase)

/-- The token of TBAR.wait and TBAR.test differs from the tag's phase. -/
def Issue.tagPassed (i : Issue) (x : Tag) (b : Operand) (X : Word) : Bool := x.phase ≠ (i.srcN b ((lowLane X).getD 0)).toNat

/-- TBAR.wait. -/
def execTbarWait (g : Guard) (t : Nat) (b : Operand) (s : State) : Host.Outcome State Fault Refusal :=
  tbarWord s g t [] fun i x X =>
    if i.tagPassed x b X then .next s else .park (.tbar t (i.srcN b ((lowLane X).getD 0))) s

/-- TBAR.test. -/
def execTbarTest (g : Guard) (t : Nat) (d b : Operand) (s : State) : Host.Outcome State Fault Refusal :=
  tbarWord s g t [d] fun i x X => .next (s.modGroup i.key fun g => g.put32 d X fun _ => ofBool (i.tagPassed x b X))

/-- The core whose front cycles time a team's tags: the first it occupies; the cores of a string share one clock (R371). -/
def Team.clockCore (t : Team) : Nat :=
  match t.quarters with
  | q :: _ => q.core
  | [] => 0

/-- TAG_PHASE_COMPLETE (R371). -/
def State.tagComplete (s : State) (team t : Nat) : Option State :=
  match s.team? team with
  | none => none
  | some tm =>
    match tm.tags[t]? with
    | none => none
    | some x =>
      match x.due with
      | some n =>
        if n ≤ (s.core tm.clockCore).cycle then
          some (s.setTeam team { tm with tags := tm.tags.set t { phase := (x.phase + 1) % 2 ^ 16 } })
        else none
      | none => none

/-- TAG_PHASE_COMPLETE (R371). -/
def execTagPhaseComplete (team t : Nat) (s : State) : Host.Outcome State Fault Refusal := onEvent s (s.tagComplete team t)

end Sys2Proof.Machine
end

