-- ==== Sys2Proof/Machine/Power.lean ====
section
/-! DEFINITION. Clocks, voltages, temperature and device time (R49, R117, R150, R429 to R434), and the events that change them. -/

namespace Sys2Proof.Machine

/-! ## Device time (R49) -/

/-- `n` nanoseconds of the reference oscillator pass. -/
def State.passTime (s : State) (n : Nat) : State :=
  let f := s.timeFrac + ((n * 2 ^ 32 : Nat) + n * s.timerate.toInt : Int).toNat
  { s with time := s.time + BitVec.ofNat 64 (f / 2 ^ 32), timeFrac := f % 2 ^ 32, uptime := s.uptime + n }

/-- Bound of TIMERATE (R49). -/
def rateBound : Int := 4294967

/-- TIMESYNC_TIMESTAMP (R49). -/
def execTimesyncTimestamp (transmit : Bool) (s : State) : Host.Outcome State Fault Refusal :=
  onEvent s (some { s with timestamps := (transmit, s.time) :: s.timestamps })

/-- TIMEOFS := d: TIME steps by d. -/
def State.stepTime (s : State) (d : DWord) : State := { s with time := s.time + d }

/-- TIMERATE := a, clamped. -/
def State.setRate (s : State) (a : Word) : State := { s with timerate := BitVec.ofInt 32 (clampInt (-rateBound) rateBound a.toInt) }

/-- TIMEOFS_WRITE (R49). -/
def execTimeofsWrite (d : DWord) (s : State) : Host.Outcome State Fault Refusal := onEvent s (some (s.stepTime d))

/-- TIMERATE_WRITE (R49). -/
def execTimerateWrite (a : Word) (s : State) : Host.Outcome State Fault Refusal := onEvent s (some (s.setRate a))

/-! ## Targets (R430) -/

/-- The series string of a core (R2). -/
def strandOf (core : Nat) : Nat := core / 4

/-- The four cores of a string, from the ground end (R157). -/
def strandCores (n : Nat) : List Nat := [4 * n, 4 * n + 1, 4 * n + 2, 4 * n + 3]

/-- What a resident group counts as requesting: level and ratio (R430). -/
def State.requestOf (s : State) (g : Group) : Nat × Nat :=
  let ceil := match s.team? g.team with
    | some t => s.perfCeil t.ctx
    | none => 15
  match g.perfReq with
  | some (l, r) => (min l ceil, r)
  | none => (ceil, 2)

/-- The resident groups of a core that have not exited. -/
def State.residents (s : State) (core : Nat) : List (Nat × Group) :=
  s.groups.filter fun p : Nat × Group => keyCore p.1 = core && !p.2.ended

/-- A core's target level and ratio (R430). -/
def State.coreTarget (s : State) (core : Nat) : Nat × Nat :=
  let rs := (s.residents core).map fun p => s.requestOf p.2
  if rs.isEmpty then (0, 1)
  else (min s.capLvl ((rs.map Prod.fst).foldl max 0), (rs.map Prod.snd).foldl max 0)

/-- A string's target level (R430). -/
def State.strandTarget (s : State) (n : Nat) : Nat :=
  ((strandCores n).map fun c => (s.coreTarget c).1).foldl max 0

/-- V(L, r) in millivolts (R429). -/
def voltNeed (level ratio : Nat) : Nat := 650 + 10 * level + (if ratio = 2 then 50 else 0)

/-- The voltage a string's new target needs of each of its cores (R430). -/
def State.voltTarget (s : State) (n : Nat) : Nat :=
  ((strandCores n).map fun c => voltNeed (s.strandTarget n) (s.coreTarget c).2).foldl max 0

/-- The voltage that a level needs at the ratios at which a string's cores run. -/
def State.voltAt (s : State) (n level : Nat) : Nat :=
  ((strandCores n).map fun c => voltNeed level (s.core c).ratio).foldl max 0

/-- A level or ratio change of a core is under way: PERFSTAT PEND (R431). -/
def State.perfPend (s : State) (core : Nat) : Bool :=
  let n := strandOf core
  (s.strand n).level ≠ s.strandTarget n || (s.core core).ratio ≠ (s.coreTarget core).2 || (s.strand n).mv ≠ s.voltTarget n

/-- Every quadrant of a core is between runs (R150). -/
def Core.idle (c : Core) : Bool := c.quads.all Option.isNone

/-- Some core of a string runs at ratio 2 (R429). -/
def State.fast (s : State) (n : Nat) : Bool := (strandCores n).any fun c => (s.core c).ratio = 2

/-- Front clock of a string in sixths of a MHz (R429): F(L, r), halved while edges are suppressed (R160, R433), its period 1.5 times as long
while edges are stretched (R434). -/
def State.frontRate (s : State) (n : Nat) : Nat :=
  let x := s.strand n
  (if s.fast n then 75 else 100) * (x.level + 9) * (if x.throttled || x.heat then 1 else 2) * (if x.droop then 2 else 3)

/-- Which way the voltage of a string ramps for its present target (R431). -/
def State.rampDir (s : State) (n : Nat) : Option Bool :=
  let x := s.strand n
  let L := s.strandTarget n
  if L < x.level then none
  else if x.mv < s.voltTarget n then some true
  else if x.level < L then none
  else if max (s.voltTarget n) (s.voltAt n x.level) < x.mv then some false
  else none

/-- A ramp that the present target no longer asks for is left: its 10 mV begin anew when they are next asked for (R431). -/
def State.dropRamps (s : State) : State :=
  (s.strands.map Prod.fst).foldl (fun s n =>
    match (s.strand n).ramp with
    | some (up, _) => if s.rampDir n = some up then s else s.modStrand n fun x => { x with ramp := none }
    | none => s) s

/-- A ramp of 10 mV per µs: the next 10 mV begin, or are in place 1 µs after they began (R431). -/
def State.rampStep (s : State) (n : Nat) (up : Bool) : Option State :=
  let x := s.strand n
  match x.ramp with
  | some (d, t) =>
    if d ≠ up then some (s.setStrand n { x with ramp := some (up, s.uptime) })
    else if t + 1000 ≤ s.uptime then some (s.setStrand n { x with mv := if up then x.mv + 10 else x.mv - 10, ramp := none })
    else none
  | none => some (s.setStrand n { x with ramp := some (up, s.uptime) })

/-- One step of a change of level or voltage (R431): the clock steps down before the voltage ramps down, and steps up once the
voltage supports it at the ratios at which the cores run; clock steps are taken only between runs. -/
def State.perfStep (s : State) (n : Nat) : Option State :=
  let x := s.strand n
  let L := s.strandTarget n
  let idle := (strandCores n).all fun c => (s.core c).idle
  if Config.numStrings ≤ n then none
  else if L < x.level then if idle then some (s.setStrand n { x with level := L }) else none
  else if x.mv < s.voltTarget n then s.rampStep n true
  else if x.level < L then if idle && s.voltAt n L ≤ x.mv then some (s.setStrand n { x with level := L }) else none
  else if max (s.voltTarget n) (s.voltAt n x.level) < x.mv then s.rampStep n false
  else none

/-- PERF_STEP (R431). -/
def execPerfStep (string : Nat) (s : State) : Host.Outcome State Fault Refusal := onEvent s (s.perfStep string)

/-- A core takes its target ratio, between runs, once the voltage for it is in place; where that steps the front clock of its string, the
other three cores are between runs as well (R150, R431). -/
def State.laneRatioChange (s : State) (core : Nat) : Option State :=
  let r := (s.coreTarget core).2
  let n := strandOf core
  let x := s.strand n
  let t := s.modCore core fun c => { c with ratio := r }
  let idle := if t.fast n = s.fast n then (s.core core).idle else (strandCores n).all fun c => (s.core c).idle
  if core < Config.numCores && (s.core core).ratio ≠ r && idle && voltNeed x.level r ≤ x.mv then some t else none

/-- LANE_RATIO_CHANGE (R150). -/
def execLaneRatioChange (core : Nat) (s : State) : Host.Outcome State Fault Refusal := onEvent s (s.laneRatioChange core)

/-! ## Power limit (R432) -/

/-- PWRLIM := v: at most 2,400 is stored. -/
def State.setPwrlim (s : State) (v : Word) : State :=
  { s with csr := { s.csr with pwrlim := BitVec.ofNat 32 (min 2400 (bits v 11 0)) } }

/-- PWRLIM_WRITE (R432). -/
def execPwrlimWrite (v : Word) (s : State) : Host.Outcome State Fault Refusal := onEvent s (some (s.setPwrlim v))

/-- Input power measured over the 1 ms window that is `k` windows before the present one (R432, log 4). -/
def State.inputPower (s : State) (k : Nat) : Nat := Config.inputPower (s.uptime / 1000000 - k)

/-- CAPLVL one lower: 100 µs after its latest change, while the power of the latest window exceeds PWRLIM (R432). -/
def State.capLower (s : State) : Option State :=
  if 1000000 ≤ s.uptime && s.capAt + 100000 ≤ s.uptime && 0 < s.capLvl && s.csr.pwrlim.toNat < s.inputPower 1 then
    some { s with capLvl := s.capLvl - 1, capAt := s.uptime }
  else none

/-- CAPLVL one higher: 1 ms after its latest change, when the power of the last ten windows was below 95 % of PWRLIM (R432). -/
def State.capRaise (s : State) : Option State :=
  if 10000000 ≤ s.uptime && s.capAt + 1000000 ≤ s.uptime && s.capLvl < 15 &&
      (List.range 10).all fun k => 100 * s.inputPower (k + 1) < 95 * s.csr.pwrlim.toNat then
    some { s with capLvl := s.capLvl + 1, capAt := s.uptime }
  else none

/-- CAPLVL_LOWER (R432). -/
def execCaplvlLower (s : State) : Host.Outcome State Fault Refusal := onEvent s s.capLower

/-- CAPLVL_RAISE (R432). -/
def execCaplvlRaise (s : State) : Host.Outcome State Fault Refusal := onEvent s s.capRaise

/-- PERFCEIL of a context := v. -/
def State.setCeil (s : State) (ctx : Nat) (v : Word) : State := { s with perfceil := tabSet s.perfceil ctx (bits v 3 0) }

/-- PERFCEIL_WRITE (R430). -/
def execPerfceilWrite (ctx : Nat) (v : Word) (s : State) : Host.Outcome State Fault Refusal :=
  onEvent s (if ctx ≤ 4096 then some (s.setCeil ctx v) else none)

/-! ## Droop (R434) -/

/-- DROOP_STRETCH (R434). -/
def execDroopStretch (string : Nat) (s : State) : Host.Outcome State Fault Refusal :=
  onEvent s (if string < Config.numStrings then
      some (s.modStrand string fun x => { x with droop := true, droopAt := (s.core (4 * string)).cycle })
    else none)

/-- DROOP_END (R434): 64 front cycles have passed; that the margin has returned is the event's own condition. -/
def execDroopEnd (string : Nat) (s : State) : Host.Outcome State Fault Refusal :=
  onEvent s (if (s.strand string).droop && (s.strand string).droopAt + 64 ≤ (s.core (4 * string)).cycle then
      some (s.modStrand string fun x => { x with droop := false })
    else none)

/-! ## Balance: STRIMB and the end of throttling (R157, R160) -/

/-- A deviation byte and a margin of 0 to 24 made of free values; [31:24] is zero (R157; log 4). -/
def freeStrimb (k : Nat) : DWord :=
  let dev := (Config.freeWord k).toNat
  let m (i : Nat) : Nat := Config.freeNat (k + i) % 25
  BitVec.ofNat 64 (dev * 2 ^ 32 + m 2 * 2 ^ 16 + m 1 * 2 ^ 8 + m 0)

/-- Some MARG field reads 0 (R160). -/
def margZero (x : DWord) : Bool := bits x 7 0 = 0 || bits x 15 8 = 0 || bits x 23 16 = 0

/-- STRIMB_UPDATE (R157): 1 µs after the one before, the string's fields, and the temperatures of its four cores, are measured anew
(log 4). -/
def State.strimbUpdate (s : State) (n : Nat) : Option State :=
  if n < Config.numStrings && (s.strand n).strimbAt + 1000 ≤ s.uptime then
    let s := s.modStrand n fun x => { x with strimb := freeStrimb s.fresh, strimbAt := s.uptime }
    let s := (strandCores n).foldl (fun s c =>
      s.modCore c fun k => { k with temp := Config.freeNat (s.fresh + 3 + c) % 65536 }) s
    some { s with fresh := s.fresh + 4 * Config.numCores }
  else none

/-- STRIMB_UPDATE (R157). -/
def execStrimbUpdate (string : Nat) (s : State) : Host.Outcome State Fault Refusal := onEvent s (s.strimbUpdate string)

/-- 1,024 front cycles have passed without a reason to throttle. -/
def State.throttleEnd (s : State) (n : Nat) : Option State :=
  if (s.strand n).throttled && 1024 ≤ (s.strand n).quiet then some (s.modStrand n fun x => { x with throttled := false }) else none

/-- THROTTLE_END (R160). -/
def execThrottleEnd (string : Nat) (s : State) : Host.Outcome State Fault Refusal := onEvent s (s.throttleEnd string)

end Sys2Proof.Machine
end

