-- ==== Sys2Proof/Machine/FpFun.lean ====
section
/-! DEFINITION. The FP32 functions, correctly rounded (R179): fixed-point series of 448 fraction bits, whose last bit marks the
inexact remainder, rounded once. -/

namespace Sys2Proof.Machine

/-- Fraction bits of the fixed-point numbers below. -/
def fixBits : Nat := 448

/-- floor(ln 2 x 2^448). -/
def ln2Fix : Nat :=
  0xb17217f7d1cf79abc9e3b39803f2f6af40f343267298b62d8a0d175b8baafa2be7b876206debac98559552fb4afa1b10ed2eae35c1382144

/-- floor(pi x 2^448). -/
def piFix : Nat :=
  0x3243f6a8885a308d313198a2e03707344a4093822299f31d0082efa98ec4e6c89452821e638d01377be5466cf34e90c6cc0ac29b7c97c50dd

/-- The integer square root by its bits, the highest first. -/
def isqrtFrom : Nat → Nat → Nat → Nat
  | 0, _, r => r
  | k + 1, n, r => isqrtFrom k n (if (r + 2 ^ k) * (r + 2 ^ k) ≤ n then r + 2 ^ k else r)

/-- floor(sqrt n) for n < 2^512. -/
def isqrt (n : Nat) : Nat := isqrtFrom 256 n 0

/-- Sum of x^k / k!, from the k-th term on. -/
def expSeries : Nat → Nat → Nat → Nat → Nat
  | 0, _, _, _ => 0
  | fuel + 1, x, k, t => t + expSeries fuel x (k + 1) (t * x / 2 ^ fixBits / (k + 1))

/-- Sum of z^(2k+1) / (2k+1), from the term z^n / n on. -/
def atanhSeries : Nat → Nat → Nat → Nat → Nat
  | 0, _, _, _ => 0
  | fuel + 1, z2, n, t => t / n + atanhSeries fuel z2 (n + 2) (t * z2 / 2 ^ fixBits)

/-- Alternating sum of x^n / n! over odd n, from the term `t` with exponent `n` on. -/
def sinSeries : Nat → Nat → Nat → Nat → Int
  | 0, _, _, _ => 0
  | fuel + 1, x2, n, t => (t : Int) - sinSeries fuel x2 (n + 2) (t * x2 / 2 ^ fixBits / ((n + 1) * (n + 2)))

/-- An inexact magnitude `m` x 2^exp, known to lie strictly between `m` and `m + 1`. -/
def roundOpen (r : Rnd) (neg : Bool) (m : Nat) (exp : Int) : Nat × Nat := fmt32.round r neg (2 * m + 1) (exp - 1)

/-- +0 or -0, and +1 or -1, as FP32. -/
def zeroF (neg : Bool) : Nat := if neg then 0x80000000 else 0
def oneF (neg : Bool) : Nat := if neg then 0xBF800000 else 0x3F800000

/-- FRCP: division(1.0, A). -/
def frcpOf (r : Rnd) (a : Nat) : Nat × Nat :=
  match fmt32.read a with
  | .nan s => fmt32.nanOut s
  | .inf n => (zeroF n, 0)
  | .fin n m e =>
    if m = 0 then (fmt32.infCode n, flagDZ)
    else
      let q := 2 ^ 200 / m
      if 2 ^ 200 % m = 0 then fmt32.round r n q (-200 - e) else roundOpen r n q (-200 - e)

/-- FSQRT: squareRoot. -/
def fsqrtOf (r : Rnd) (a : Nat) : Nat × Nat :=
  match fmt32.read a with
  | .nan s => fmt32.nanOut s
  | .inf n => if n then fmt32.nanOut true else (fmt32.infCode false, 0)
  | .fin n m e =>
    if m = 0 then (a, 0)
    else if n then fmt32.nanOut true
    else
      let (m, e) := if e % 2 = 0 then (m, e) else (2 * m, e - 1)
      let x := m * 2 ^ 200
      let q := isqrt x
      if q * q = x then fmt32.round r false q (e / 2 - 100) else roundOpen r false q (e / 2 - 100)

/-- FRSQ: rSqrt. -/
def frsqOf (r : Rnd) (a : Nat) : Nat × Nat :=
  match fmt32.read a with
  | .nan s => fmt32.nanOut s
  | .inf n => if n then fmt32.nanOut true else (0, 0)
  | .fin n m e =>
    if m = 0 then (fmt32.infCode n, flagDZ)
    else if n then fmt32.nanOut true
    else
      let (m, e) := if e % 2 = 0 then (m, e) else (2 * m, e - 1)
      let q := isqrt (2 ^ 300 / m)
      if q * q * m = 2 ^ 300 then fmt32.round r false q (-150 - e / 2) else roundOpen r false q (-150 - e / 2)

/-- FEXP2: exp2. -/
def fexp2Of (r : Rnd) (a : Nat) : Nat × Nat :=
  match fmt32.read a with
  | .nan s => fmt32.nanOut s
  | .inf n => (if n then 0 else fmt32.infCode false, 0)
  | .fin n m e =>
    let v : Int := if n then -(m : Int) else m
    if 0 ≤ e then fmt32.round r false 1 (clampInt (-4096) 4096 (v * (2 ^ (min e 16).toNat : Nat)))
    else
      let D : Nat := 2 ^ (-e).toNat
      let k := v.fdiv D
      let f := (v - k * D).toNat
      if f = 0 then fmt32.round r false 1 (clampInt (-4096) 4096 k)
      else
        let x := f * ln2Fix / D
        roundOpen r false (expSeries 100 x 0 (2 ^ fixBits)) (clampInt (-4096) 4096 k - fixBits)

/-- FLOG2: log2. -/
def flog2Of (r : Rnd) (a : Nat) : Nat × Nat :=
  match fmt32.read a with
  | .nan s => fmt32.nanOut s
  | .inf n => if n then fmt32.nanOut true else (fmt32.infCode false, 0)
  | .fin n m e =>
    if m = 0 then (fmt32.infCode true, flagDZ)
    else if n then fmt32.nanOut true
    else
      let b := Nat.log2 m
      let k : Int := (b : Int) + e
      if m = 2 ^ b then fmt32.round r (k < 0) k.natAbs 0
      else
        let z := (m - 2 ^ b) * 2 ^ fixBits / (m + 2 ^ b)
        let lnm := 2 * atanhSeries 150 (z * z / 2 ^ fixBits) 1 z
        let v : Int := k * (2 ^ fixBits : Nat) + (lnm * 2 ^ fixBits / ln2Fix : Nat)
        roundOpen r (v < 0) (if v < 0 then v.natAbs - 1 else v.natAbs) (-(fixBits : Int))

/-- sin(pi x p / D) for 0 < p / D < 1/2 as a fixed-point magnitude. -/
def sinPiFix (p D : Nat) : Nat :=
  let x := p * piFix / D
  (sinSeries 64 (x * x / 2 ^ fixBits) 1 x).toNat

/-- (-1)^neg x sin(pi x p / D) for 0 ≤ p / D ≤ 1/2, rounded; +0 or the given sign at 0. -/
def sinOut (r : Rnd) (neg zneg : Bool) (p D : Nat) : Nat × Nat :=
  if p = 0 then (zeroF zneg, 0)
  else if 2 * p = D then (oneF neg, 0)
  else roundOpen r neg (sinPiFix p D) (-(fixBits : Int))

/-- FSIN: sinPi. -/
def fsinOf (r : Rnd) (a : Nat) : Nat × Nat :=
  match fmt32.read a with
  | .nan s => fmt32.nanOut s
  | .inf _ => fmt32.nanOut true
  | .fin n m e =>
    if 0 ≤ e then (zeroF n, 0)
    else
      let D := 2 ^ (-e).toNat
      let t := m % (2 * D)
      let u := t % D
      sinOut r (n != (D ≤ t)) n (if D < 2 * u then D - u else u) D

/-- FCOS: cosPi. -/
def fcosOf (r : Rnd) (a : Nat) : Nat × Nat :=
  match fmt32.read a with
  | .nan s => fmt32.nanOut s
  | .inf _ => fmt32.nanOut true
  | .fin _ m e =>
    if 0 ≤ e then (oneF (e = 0 && m % 2 = 1), 0)
    else
      let D := 2 ^ (-e).toNat
      let t := m % (2 * D)
      let u := if D < t then 2 * D - t else t
      let neg : Bool := D < 2 * u
      sinOut r neg false ((if neg then 2 * u - D else D - 2 * u)) (2 * D)

end Sys2Proof.Machine
end

