-- ==== Sys2Proof/Machine/Float.lean ====
section
/-! DEFINITION. FP32 arithmetic and functions, comparison, classification and packed halves (R177 to R182). -/

namespace Sys2Proof.Machine

/-- An FP32 source as a number (R133, R134). -/
def Issue.fp (i : Issue) (o : Operand) (l : Nat) : Nat := (i.srcF o l).toNat

/-- A word of two FP32 operands. -/
def fp2 (s : State) (g : Guard) (d a b : Operand) (f : Nat → Nat → Nat × Nat) : Host.Outcome State Fault Refusal :=
  floatWord s g d [a, b] fun i l => f (i.fp a l) (i.fp b l)

/-- A word of one FP32 operand. -/
def fp1 (s : State) (g : Guard) (d a : Operand) (f : Nat → Nat × Nat) : Host.Outcome State Fault Refusal :=
  floatWord s g d [a] fun i l => f (i.fp a l)

/-- FADD. -/
def execFadd (g : Guard) (r : Rnd) (d a b : Operand) (s : State) : Host.Outcome State Fault Refusal :=
  fp2 s g d a b (fmt32.add r)

/-- FMUL. -/
def execFmul (g : Guard) (r : Rnd) (d a b : Operand) (s : State) : Host.Outcome State Fault Refusal :=
  fp2 s g d a b (fmt32.mul r)

/-- FFMA. -/
def execFfma (g : Guard) (r : Rnd) (d a b c : Operand) (s : State) : Host.Outcome State Fault Refusal :=
  floatWord s g d [a, b, c] fun i l => fmt32.fma r (i.fp a l) (i.fp b l) (i.fp c l)

/-- FMIN. -/
def execFmin (g : Guard) (d a b : Operand) (s : State) : Host.Outcome State Fault Refusal := fp2 s g d a b (fmt32.minMax false)

/-- FMAX. -/
def execFmax (g : Guard) (d a b : Operand) (s : State) : Host.Outcome State Fault Refusal := fp2 s g d a b (fmt32.minMax true)

/-- FRND. -/
def execFrnd (g : Guard) (r : Rnd) (d a : Operand) (s : State) : Host.Outcome State Fault Refusal := fp1 s g d a (fmt32.toIntegral r)

/-- FSCALE: B is a signed 32-bit integer, and only A is tested for a verdict word. -/
def execFscale (g : Guard) (r : Rnd) (d a b : Operand) (s : State) : Host.Outcome State Fault Refusal :=
  floatWord s g d [a] fun i l => fmt32.scale r (i.fp a l) (i.int .s32 b l)

/-- FRCP. -/
def execFrcp (g : Guard) (r : Rnd) (d a : Operand) (s : State) : Host.Outcome State Fault Refusal := fp1 s g d a (frcpOf r)

/-- FRSQ. -/
def execFrsq (g : Guard) (r : Rnd) (d a : Operand) (s : State) : Host.Outcome State Fault Refusal := fp1 s g d a (frsqOf r)

/-- FSQRT. -/
def execFsqrt (g : Guard) (r : Rnd) (d a : Operand) (s : State) : Host.Outcome State Fault Refusal := fp1 s g d a (fsqrtOf r)

/-- FEXP2. -/
def execFexp2 (g : Guard) (r : Rnd) (d a : Operand) (s : State) : Host.Outcome State Fault Refusal := fp1 s g d a (fexp2Of r)

/-- FLOG2. -/
def execFlog2 (g : Guard) (r : Rnd) (d a : Operand) (s : State) : Host.Outcome State Fault Refusal := fp1 s g d a (flog2Of r)

/-- FSIN. -/
def execFsin (g : Guard) (r : Rnd) (d a : Operand) (s : State) : Host.Outcome State Fault Refusal := fp1 s g d a (fsinOf r)

/-- FCOS. -/
def execFcos (g : Guard) (r : Rnd) (d a : Operand) (s : State) : Host.Outcome State Fault Refusal := fp1 s g d a (fcosOf r)

/-- FCMP: verdict words are unordered and never set NV (R180). -/
def execFcmp (g : Guard) (c : Cond) (cb : Comb) (n : Nat) (a b : Operand) (s : State) : Host.Outcome State Fault Refusal :=
  laneWord s g [] fun i X gr =>
    (gr.combPred n cb X fun l => condFloat c (fmt32.read (i.fp a l)) (fmt32.read (i.fp b l))).addFlags
      (orFlags X fun l => condFlags c (i.srcF a l) (i.srcF b l))

/-- The class of an FP32 value, as its bit (R181). -/
def fclassOf (x : Word) : Nat :=
  if isVerdict x then 10
  else
    match fmt32.read x.toNat with
    | .nan s => if s then 8 else 9
    | .inf n => if n then 0 else 7
    | .fin n m _ =>
      if m = 0 then if n then 3 else 4
      else if m < 2 ^ 23 then if n then 2 else 5
      else if n then 1 else 6

/-- FCLASS. -/
def execFclass (g : Guard) (d a : Operand) (s : State) : Host.Outcome State Fault Refusal :=
  wordWord s g d fun i l => BitVec.twoPow 32 (fclassOf (i.srcF a l))

/-! ## Packed halves (R182) -/

/-- The format of a packed half. -/
def halfFmt (bf : Bool) : Fmt := if bf then fmtBf16 else fmt16

/-- Half `k` of a word. -/
def halfOf (x : Word) (k : Nat) : Nat := x.toNat / 2 ^ (16 * k) % 2 ^ 16

/-- Two halves computed and packed; the flags of both are ORed. -/
def packHalves (f : Nat → Nat × Nat) : Nat × Nat := ((f 0).1 + (f 1).1 * 2 ^ 16, (f 0).2 ||| (f 1).2)

/-- HADD2. -/
def execHadd2 (g : Guard) (bf : Bool) (r : Rnd) (d a b : Operand) (s : State) : Host.Outcome State Fault Refusal :=
  floatWord s g d [] fun i l => packHalves fun k => (halfFmt bf).add r (halfOf (i.srcH bf a l) k) (halfOf (i.srcH bf b l) k)

/-- HMUL2. -/
def execHmul2 (g : Guard) (bf : Bool) (r : Rnd) (d a b : Operand) (s : State) : Host.Outcome State Fault Refusal :=
  floatWord s g d [] fun i l => packHalves fun k => (halfFmt bf).mul r (halfOf (i.srcH bf a l) k) (halfOf (i.srcH bf b l) k)

/-- HFMA2. -/
def execHfma2 (g : Guard) (bf : Bool) (r : Rnd) (d a b c : Operand) (s : State) : Host.Outcome State Fault Refusal :=
  floatWord s g d [] fun i l => packHalves fun k =>
    (halfFmt bf).fma r (halfOf (i.srcH bf a l) k) (halfOf (i.srcH bf b l) k) (halfOf (i.srcH bf c l) k)

/-- HMINMAX2. -/
def execHminmax2 (g : Guard) (bf : Bool) (max : Bool) (d a b : Operand) (s : State) : Host.Outcome State Fault Refusal :=
  floatWord s g d [] fun i l => packHalves fun k =>
    (halfFmt bf).minMax max (halfOf (i.srcH bf a l) k) (halfOf (i.srcH bf b l) k)

end Sys2Proof.Machine
end

