-- ==== Sys2Proof/Machine/Convert.lean ====
section
/-! DEFINITION. Conversion, packing and unpacking, and verdict words in programs (R183 to R188, R264 to R268). -/

namespace Sys2Proof.Machine

/-! ## CVT (R183, R184) -/

/-- The floating-point format of a type. -/
def NumType.fmt : NumType → Option Fmt
  | .f32 => some fmt32
  | .f16 => some fmt16
  | .bf16 => some fmtBf16
  | .e4m3 => some fmtE4m3
  | .e5m2 => some fmtE5m2
  | .e2m1 => some fmtE2m1
  | .bs20 => some fmtBs20
  | _ => none

/-- MIN and MAX of an integer type. -/
def NumType.range : NumType → Int × Int
  | .s32 => (-(2 ^ 31), 2 ^ 31 - 1)
  | .n32 => (0, 2 ^ 32 - 1)
  | .s64 => (-(2 ^ 63), 2 ^ 63 - 1)
  | .n64 => (0, 2 ^ 64 - 1)
  | .i8 => (-128, 127)
  | _ => (0, 255)

/-- An integer as an exact value. -/
def intVal (x : Int) : FVal := .fin (x < 0) x.natAbs 0

/-- The value of a ternary code, and the flags of a reserved one (R267). -/
def ternaryVal (c : Nat) : Int × Nat :=
  if c = 1 then (1, 0) else if c = 3 then (-1, 0) else if c = 2 then (0, flagNV) else (0, 0)

/-- A value of a format as `Fmt.read` takes it: BS20 lies in bits [31:12] (R265). -/
def Fmt.readWord (F : Fmt) (x : Nat) : FVal := F.read (if F = fmtBs20 then x % 2 ^ 32 / 2 ^ 12 else x)

/-- The exact value of a CVT source, with the flags that reading it sets (R183, R184). -/
def cvtSource (st : NumType) (e8m0 : Bool) (x : DWord) : FVal × Nat :=
  let n := x.toNat
  if e8m0 then if n % 256 = 255 then (.nan false, 0) else (.fin false 1 (((n % 256 : Nat) : Int) - 127), 0)
  else
    match NumType.fmt st with
    | some F => (F.readWord n, 0)
    | none =>
      match st with
      | .s32 => (intVal (lo32 x).toInt, 0)
      | .n32 => (intVal (lo32 x).toNat, 0)
      | .s64 => (intVal x.toInt, 0)
      | .n64 => (intVal x.toNat, 0)
      | .i8 => (intVal ((x.setWidth 8).toInt), 0)
      | .n8 => (intVal ((x.setWidth 8).toNat), 0)
      | _ => let (v, f) := ternaryVal (n % 4); (intVal v, f)

/-- The sign of a value as a ternary code (R184). -/
def ternaryOf : FVal → Nat × Nat
  | .nan _ => (0, flagNV)
  | .inf n => (if n then 3 else 1, 0)
  | .fin n m _ => (if m = 0 then 0 else if n then 3 else 1, 0)

/-- A value converted to a destination type: its bits and the flags (R184, R270, R271). -/
def cvtTo (dt : NumType) (r : Rnd) (sat : Bool) (v : FVal) : Nat × Nat :=
  match NumType.fmt dt with
  | some F =>
    let (c, fl) := match v with
      | .nan s => (F.canon, nvIf (s || F = fmtE2m1))
      | .inf n => if F.inf then (F.infCode n, 0) else (F.maxCode n, flagOF + flagNX)
      | .fin n m e => F.round r n m e sat
    (if F = fmtBs20 then c * 2 ^ 12 else c, fl)
  | none =>
    if dt = .t2 then ternaryOf v
    else
      let (lo, hi) := NumType.range dt
      let (x, fl) := toIntRange r lo hi v
      let w := match dt with
        | .s64 | .n64 => 64
        | .i8 | .n8 => 8
        | _ => 32
      ((BitVec.ofInt w x).toNat, fl)

/-- The conversion of one lane: a reserved ternary source sets NV beside the flags of the rounding. -/
def cvtOf (dt st : NumType) (e8m0 sat : Bool) (r : Rnd) (x : DWord) : Nat × Nat :=
  let (v, f) := cvtSource st e8m0 x
  let (c, f') := cvtTo dt r sat v
  (c, f ||| f')

/-- A CVT source in a lane: the column of R133 its type takes. -/
def Issue.cvtSrc (i : Issue) (st : NumType) (e8m0 : Bool) (a : Operand) (l : Nat) : DWord :=
  if e8m0 then (i.srcN a l).setWidth 64
  else
    match st with
    | .s64 => i.src64 true a l
    | .n64 => i.src64 false a l
    | .f32 | .bs20 => (i.srcF a l).setWidth 64
    | .f16 => (i.srcH false a l).setWidth 64
    | .bf16 => (i.srcH true a l).setWidth 64
    | _ => (i.srcN a l).setWidth 64

/-- CVT (R183, R184). -/
def execCvt (g : Guard) (dt st : NumType) (xe8m0 sat : Bool) (r : Rnd) (d a : Operand) (s : State) :
    Host.Outcome State Fault Refusal :=
  onIssue s fun i =>
    let X := i.lanes g
    let f (l : Nat) : Nat × Nat := cvtOf dt st xe8m0 sat r (i.cvtSrc st xe8m0 a l)
    let tested := if !xe8m0 && (st = .f32 || st = .bs20) then [a] else []
    match i.verdictTrap X (i.anyVerdict tested), i.budget X (typeDests dt.is64 d) with
    | some t, _ => .trap t s
    | none, some t => .trap t s
    | none, none =>
      .next (s.modGroup i.key fun gr =>
        (gr.putInt dt.is64 d X fun l => ((f l).1 : Int)).addFlags (orFlags X fun l => (f l).2))

/-! ## PACK and UNPACK (R185, R186) -/

/-- The element type of a packed type. -/
def NumType.elem : NumType → NumType
  | .f16x2 => .f16
  | .bf16x2 => .bf16
  | t => t

/-- The type a PACK element is converted from. -/
def NumType.packSrc (e : NumType) : NumType :=
  match e with
  | .i8 | .n8 | .t2 => .s32
  | _ => .f32

/-- A word with element `i` of width `ew` replaced. -/
def setElem (x ew i v : Nat) : Nat := x - x / 2 ^ (ew * i) % 2 ^ ew * 2 ^ (ew * i) + v % 2 ^ ew * 2 ^ (ew * i)

/-- PACK (R185). -/
def execPack (g : Guard) (e : NumType) (k : Nat) (sat : Bool) (r : Rnd) (d a b c : Operand) (s : State) :
    Host.Outcome State Fault Refusal :=
  let src := NumType.packSrc e
  floatWord s g d (if src = .f32 then [a, b] else []) fun i l =>
    let ew := e.packWidth
    let (x, fx) := cvtOf (NumType.elem e) src false sat r (i.cvtSrc src false a l)
    let (y, fy) := cvtOf (NumType.elem e) src false sat r (i.cvtSrc src false b l)
    (setElem (setElem (i.srcN c l).toNat ew (2 * k) x) ew (2 * k + 1) y, fx ||| fy)

/-- UNPACK (R186): among the float elements only a signalling binary16 or bfloat16 NaN sets NV. -/
def execUnpack (g : Guard) (e : NumType) (k : Nat) (d a : Operand) (s : State) : Host.Outcome State Fault Refusal :=
  floatWord s g d [] fun i l =>
    let ew := e.packWidth
    let x : DWord := BitVec.ofNat 64 ((i.srcN a l).toNat / 2 ^ (ew * k) % 2 ^ ew)
    let dt : NumType := match e with
      | .i8 | .t2 => .s32
      | .n8 => .n32
      | _ => .f32
    let (c, fl) := cvtOf dt (NumType.elem e) false false .rne x
    (c, if e = .e5m2 then 0 else fl)

/-! ## Verdict words (R187, R188) -/

/-- The test of VTEST. -/
def vtestOf (c : VCond) (a b : Word) : Bool :=
  let v := isVerdict a
  match c with
  | .dec => v
  | .above => (v && bits a 1 0 = 1) || (!v && (fmt32.read b.toNat).below false (fmt32.read a.toNat))
  | .below => (v && bits a 1 0 = 2) || (!v && (fmt32.read a.toNat).below false (fmt32.read b.toNat))

/-- VTEST (R187). -/
def execVtest (g : Guard) (c : VCond) (cb : Comb) (step : Bool) (n : Nat) (d a b : Operand) (s : State) :
    Host.Outcome State Fault Refusal :=
  onIssue s fun i =>
    let X := i.lanes g
    match i.verdictTrap X (i.anyVerdict (if c = .dec then [] else [b])), i.budget X (if step then [d] else []) with
    | some t, _ => .trap t s
    | none, some t => .trap t s
    | none, none =>
      .next (s.modGroup i.key fun gr =>
        let gr := gr.combPred n cb X fun l => vtestOf c (i.srcF a l) (i.srcF b l)
        if step then gr.put32 d X fun l =>
          if isVerdict (i.srcF a l) then BitVec.ofNat 32 (bits (i.srcF a l) 20 4) else 0xFFFFFFFF
        else gr)

/-- VSEL (R188). -/
def vselOf (a b c : Word) : Word := if isVerdict a then if bits a 1 0 = 1 then b else c else a

/-- VSEL (R188). -/
def execVsel (g : Guard) (d a b c : Operand) (s : State) : Host.Outcome State Fault Refusal :=
  wordWord s g d fun i l => vselOf (i.srcF a l) (i.srcF b l) (i.srcF c l)

end Sys2Proof.Machine
end

