-- ==== Sys2Proof/Machine/StepSum.lean ====
section
/-! DEFINITION. The sum of one matrix step and its addition to an accumulator element (R273 to R275, R279, R299). -/

namespace Sys2Proof.Machine

/-- The step sum P of R273. -/
inductive StepSum where
  | nan
  | inf (neg : Bool)
  | fin (v : Int) (e : Int)
  deriving DecidableEq, Repr

/-- One product: a zero activation gives +0 whatever it meets (R273). -/
def stepProduct (a b : FVal) : FVal :=
  if a.isZero then .fin false 0 0
  else
    match a, b with
    | .nan _, _ => .nan false
    | _, .nan _ => .nan false
    | .inf n, .inf m => .inf (n != m)
    | .inf n, .fin m mag _ => if mag = 0 then .nan false else .inf (n != m)
    | .fin m _ _, .inf n => .inf (n != m)
    | .fin n x e, .fin m y f => .fin (n != m) (x * y) (e + f)

/-- floor(log2 |p|) of a non-zero number. -/
def topBit (p : FVal) : Option Int :=
  match p with
  | .fin _ mag e => if mag = 0 then none else some ((Nat.log2 mag : Int) + e)
  | _ => none

/-- A product truncated toward zero to a multiple of 2^u, in units of 2^u. -/
def truncTo (u : Int) (p : FVal) : Int :=
  match p with
  | .fin n mag e =>
    let q := if u ≤ e then mag * 2 ^ (e - u).toNat else mag / 2 ^ (u - e).toNat
    if n then -(q : Int) else q
  | _ => 0

/-- The step sum of a list of products (R273). -/
def stepSum (ps : List FVal) : StepSum :=
  let neg := ps.any fun p => p == .inf true
  let pos := ps.any fun p => p == .inf false
  if ps.any FVal.isNan || (neg && pos) then .nan
  else if neg then .inf true
  else if pos then .inf false
  else
    match ps.filterMap topBit with
    | [] => .fin 0 0
    | t :: ts =>
      let u := ts.foldl max t - 40
      .fin ((ps.map (truncTo u)).sum) u

/-- RNE(c + P) on bits; a NaN result is canonical (R273). -/
def addStep (c : Word) (P : StepSum) : Word :=
  BitVec.ofNat 32 (match fmt32.read c.toNat, P with
    | .nan _, _ => fmt32.canon
    | _, .nan => fmt32.canon
    | .inf n, .inf m => if n == m then fmt32.infCode n else fmt32.canon
    | .inf n, .fin _ _ => fmt32.infCode n
    | .fin _ _ _, .inf m => fmt32.infCode m
    | .fin n mag e, .fin v u => (fmt32.sum .rne n mag e (v < 0) v.natAbs u).1)

/-- RNE(P) as a binary32 word (R275). -/
def roundStep (P : StepSum) : Word := addStep 0 P

/-- q x partial + c of MSCA, with q = RNE(SR x SC); bits [11:0] of the scales read as 0 (R299). -/
def scaleStep (partialSum row col c : Word) : Word :=
  let q := (fmt32.mul .rne (row &&& 0xFFFFF000).toNat (col &&& 0xFFFFF000).toNat).1
  BitVec.ofNat 32 (fmt32.fma .rne partialSum.toNat q c.toNat).1

/-! ## Formats of a loop (R279) -/

/-- Bits of an element. -/
def NumType.elemBits : NumType → Nat
  | .f16 | .bf16 => 16
  | .e4m3 | .e5m2 | .i8 => 8
  | .e2m1 => 4
  | _ => 2

/-- A loop on integer formats. -/
def NumType.intLoop (ta : NumType) : Bool := ta == .i8

/-- A tile of 128-byte rows holds this many elements per row. -/
def NumType.perRow (t : NumType) : Nat := 1024 / NumType.elemBits t

/-- Scale blocks of a tile pair: K / 32 with `.sc`, else 1 (R279). -/
def loopBpt (ta : NumType) (sc : Bool) : Nat := if sc then NumType.perRow ta / 32 else 1

/-- A tiles that a step reads. -/
def loopATiles (tb : NumType) : Nat := if tb = .t2 then 4 else 1

/-- The value of an element of a floating-point format. -/
def elemValue (t : NumType) (c : Nat) : FVal :=
  match NumType.fmt t with
  | some F => F.read c
  | none => .fin false 0 0

/-- The value of an integer or ternary element; a reserved ternary code reads as 0 (R267). -/
def elemInt (t : NumType) (c : Nat) : Int :=
  if t = .i8 then (BitVec.ofNat 8 c).toInt
  else if c = 1 then 1 else if c = 3 then -1 else 0

/-- The exact sum of an integer step (R274). -/
def intStepSum (a b : List Int) : Int := (List.zipWith (· * ·) a b).sum

end Sys2Proof.Machine
end

