-- ==== Sys2Proof/Machine/VerdictOps.lean ====
section
/-! DEFINITION. The bound monitor and its audit, top-k lists and published thresholds (R306 to R318). -/

namespace Sys2Proof.Machine

/-! ## Lists (R315, R316) -/

/-- x below y among binary32 words, with -0 equal to +0; false for a NaN. -/
def belowF32 (x y : Word) : Bool := (fmt32.read x.toNat).below false (fmt32.read y.toNat)

/-- A binary32 word is a NaN. -/
def isNanF32 (x : Word) : Bool := (fmt32.read x.toNat).isNan

/-- Candidate (v, x) is better than (w, y). -/
def better (a b : Word × Word) : Bool := belowF32 b.1 a.1 || (!belowF32 a.1 b.1 && a.2.toNat < b.2.toNat)

/-- A candidate inserted before the first entry that it beats. -/
def insertCand (c : Word × Word) : List (Word × Word) → List (Word × Word)
  | [] => [c]
  | x :: xs => if better c x then c :: x :: xs else x :: insertCand c xs

/-- A candidate inserted into a row of KCAP entries; NaNs and index 0xFFFFFFFF are never candidates. -/
def insertRow (kcap : Nat) (row : List (Word × Word)) (c : Word × Word) : List (Word × Word) :=
  if isNanF32 c.1 || c.2 = 0xFFFFFFFF then row else (insertCand c row).take kcap

/-- A list reset to empty with a capacity. -/
def TopList.empty (kcap : Nat) : TopList := { kcap, rows := List.replicate 64 (List.replicate kcap emptyEntry) }

/-- THK of a row: the value of entry KCAP - 1, -infinity when it is empty. -/
def TopList.thk (L : TopList) (r : Nat) : Word := ((L.rows.getD r []).getD (L.kcap - 1) emptyEntry).1

/-- Candidates inserted into the rows of a list. -/
def TopList.insertAll (L : TopList) (cs : List (Nat × Word × Word)) : TopList :=
  { L with rows := cs.foldl (fun rows c => modifyAt (fun row => insertRow L.kcap row c.2) c.1 rows) L.rows }

/-! ## Published thresholds (R317) -/

/-- A publication of a tile's thresholds; a reset is seen at once by every loop on the tile. -/
def State.publishTh (s : State) (team core tile : Nat) (v : List Word) (reset : Bool) : State :=
  let s := s.modQuarter team core fun q => { q with vconf := modifyAt (fun c => { c with pth := v }) tile q.vconf }
  s.modCore core fun c =>
    { c with loops := c.loops.map fun l =>
        if l.team = team && l.tile = tile then { l with pubs := if reset then [v] else v :: l.pubs } else l }

/-- A list reset: PTH of every tile configured with it becomes -infinity. -/
def State.resetList (s : State) (team core list kcap : Nat) (q : Quarter) : State :=
  let s := s.modQuarter team core fun q => { q with lists := q.lists.set list (TopList.empty kcap) }
  (List.range q.vconf.length).foldl (fun s t =>
    match q.vconf[t]? with
    | some c => if c.pred = .topk && c.list = list then s.publishTh team core t (List.replicate 64 0xFF800000) true else s
    | none => s) s

/-! ## The decision rule (R310) -/

/-- RU and RD of binary32 sums and products. -/
def ruAdd (x y : Word) : Word := BitVec.ofNat 32 (fmt32.add .rup x.toNat y.toNat).1
def rdAdd (x y : Word) : Word := BitVec.ofNat 32 (fmt32.add .rdn x.toNat y.toNat).1
def ruMul (x y : Word) : Word := BitVec.ofNat 32 (fmt32.mul .rup x.toNat y.toNat).1

/-- A binary32 word negated. -/
def negF32 (x : Word) : Word := x ^^^ 0x80000000

/-- The code of an element's decision: 0b01 above, 0b10 below; none while it is undecided. An infinite Brem decides below a threshold of
+infinity, and nothing else (R310; log 19). -/
def decide310 (topk : Bool) (nrem : Nat) (T a b c : Word) : Option Nat :=
  if isNanF32 T || isNanF32 a || isNanF32 b || bit a 31 || bit b 31 then none
  else
    let brem := ruMul a b
    let k : Word := BitVec.ofNat 32 (fmt32.round .rne false nrem (-23)).1
    let g := ruMul k (ruAdd (c &&& 0x7FFFFFFF) brem)
    if brem = 0x7F800000 then if T = 0x7F800000 then some 2 else none
    else if !topk && belowF32 T (rdAdd (rdAdd c (negF32 brem)) (negF32 g)) then some 1
    else if belowF32 (ruAdd (ruAdd c brem) g) T then some 2
    else none

/-- The verdict word of a decision made after step `s` (R268, R310). -/
def verdictWordAt (s code : Nat) : Word := 0xFFA00000 ||| BitVec.ofNat 32 ((s + 1) * 16 + code)

/-- A word is finite: neither infinite nor any NaN. -/
def isFiniteF32 (x : Word) : Bool := bits x 30 23 ≠ 255

/-- A BS20 word of the team's scratch, bits [11:0] read as 0 (R265, R308). -/
def State.bs20At (s : State) (q : Quarter) (off : Nat) : Word :=
  BitVec.ofNat 32 (s.readLocNat (q.scratch off) 4) &&& 0xFFFFF000

/-- Entry `e` of row or column `i` of a bound table (R308). -/
def State.boundEntry (s : State) (q : Quarter) (base nent i e : Nat) : Word := s.bs20At q (base + 4 * (i * nent + e))

/-- The threshold of element (i, j) under a configuration (R306). -/
def VConf.threshold (c : VConf) (pth : List Word) (i j : Nat) : Word :=
  match c.pred with
  | .rowthr => c.th.getD i 0
  | .colthr => c.th.getD j 0
  | .topk => pth.getD i 0xFF800000
  | _ => 0

/-- The elements after the monitor has acted at the end of step `st` (R310). -/
def monitorTile (s : State) (q : Quarter) (c : VConf) (pth : List Word) (nstep st : Nat) (tile : List Word) : List Word :=
  let e := min st (c.nent - 1)
  let sa := (List.range 64).map fun i => s.boundEntry q c.saofs c.nent i e
  let sb := (List.range 64).map fun j => s.boundEntry q c.sbofs c.nent j e
  (List.range 4096).map fun n =>
    let x := tile.getD n 0
    let (i, j) := (n / 64, n % 64)
    if !isFiniteF32 x then x
    else
      match decide310 (c.pred = .topk) (nstep - 1 - st) (c.threshold pth i j) (sa.getD i 0) (sb.getD j 0) x with
      | some code => verdictWordAt st code
      | none => x

/-! ## Bound audit (R314) -/

/-- A dyadic number n x 2^e below another. -/
def dyBelow (n : Nat) (e : Int) (m : Nat) (f : Int) : Bool :=
  let u := min e f
  n * 2 ^ (e - u).toNat < m * 2 ^ (f - u).toNat

/-- The exact sum of squares of elements; none when one is NaN or infinite. -/
def squareSum (xs : List FVal) : Option (Nat × Int) :=
  xs.foldl (fun acc x =>
    match acc, x with
    | some (n, e), .fin _ mag f =>
      let u := min e (2 * f)
      some (n * 2 ^ (e - u).toNat + mag * mag * 2 ^ (2 * f - u).toNat, u)
    | _, _ => none) (some (0, 0))

/-- An entry understates a sum of squares: its exact square is less. -/
def understates (entry : Word) (sum : Option (Nat × Int)) : Bool :=
  match fmt32.read entry.toNat, sum with
  | .fin _ mag e, some (n, f) => dyBelow (mag * mag) (2 * e) n f
  | .fin _ _ _, none => true
  | _, _ => false

end Sys2Proof.Machine
end

