-- ==== Sys2Proof/Machine/MatrixOps.lean ====
section
/-! DEFINITION. Operand slots, tiles, loops and one step of the sequencer (R105, R277 to R286, R289, R297, R304, R309 to R314). -/

namespace Sys2Proof.Machine

/-! ## Tiles and slots (R115, R277, R278) -/

/-- Index in `Core.acc` of the first word of a physical tile. -/
def tileIndex (phys : Nat) : Nat := phys * 4096

/-- The 4,096 words of a team tile. -/
def State.tileWords (s : State) (q : Quarter) (tile : Nat) : List Word :=
  cellsGet (s.core q.core).acc (tileIndex (q.tiles.getD tile 0)) 4096

/-- A team tile written. -/
def State.setTile (s : State) (q : Quarter) (tile : Nat) (ws : List Word) : State :=
  s.modCore q.core fun c => { c with acc := cellsSet c.acc (tileIndex (q.tiles.getD tile 0)) ws }

/-- The 4,096 words of a partial slot. -/
def State.partialWords (s : State) (core k : Nat) : List Word := cellsGet (s.core core).partials (4096 * k) 4096

/-- A partial slot of a loop: as it was saved until the restored loop has had its turn, else the core's (R285, R289). -/
def State.loopPartial (s : State) (core : Nat) (l : Loop) (k : Nat) : List Word :=
  match l.saved with
  | some x => cellsGet x (4096 * k) 4096
  | none => s.partialWords core k

/-- The saved partial slots of a loop whose turn has come put in the core's (R289). -/
def State.loadPartials (s : State) (core : Nat) (l : Loop) : State :=
  match l.saved with
  | some x => s.modCore core fun c => { c with partials := x }
  | none => s

/-- A partial slot written. -/
def State.setPartial (s : State) (core k : Nat) (ws : List Word) : State :=
  s.modCore core fun c => { c with partials := cellsSet c.partials (4096 * k) ws }

/-- Row `i` of a logical slot as a number of 1,024 bits (R269, R278). -/
def State.slotRow (s : State) (q : Quarter) (j i : Nat) : Nat :=
  fromBytes (cellsGet (s.core q.core).chip (0x100000 + (q.slot? j).getD 0 * 8192 + 128 * i) 128)

/-- The codes of elements k0 to k0 + n - 1 of a row. -/
def rowCodes (t : NumType) (row k0 n : Nat) : List Nat :=
  (List.range n).map fun k => row / 2 ^ ((k0 + k) * NumType.elemBits t) % 2 ^ NumType.elemBits t

/-! ## Loops (R281, R282) -/

/-- WA and WB of 0 mean 64. -/
def wrapOf (w : Nat) : Nat := if w = 0 then 64 else w

/-- A slot of step block u, and B slot. -/
def Loop.aSlot (l : Loop) (u : Nat) : Nat := l.aslot + u * l.da % wrapOf l.wa
def Loop.bSlot (l : Loop) (u : Nat) : Nat := l.bslot + u * l.db % wrapOf l.wb

/-- BPT of a loop. -/
def Loop.bpt (l : Loop) : Nat := loopBpt l.ta l.sc

/-- The slots read at block u. -/
def Loop.slotsAt (l : Loop) (u : Nat) : List Nat := ((List.range (loopATiles l.tb)).map fun k => l.aSlot u + k) ++ [l.bSlot u]

/-- The values of u over the loop; both sequences repeat within 64 (R282). -/
def Loop.blocks (l : Loop) : Nat := min (ceilDiv l.nstep l.bpt) 64

/-- Every slot the loop reads. -/
def Loop.slots (l : Loop) : List Nat := ((List.range l.blocks).flatMap l.slotsAt).eraseDups

/-- Loops of a team on a core that write a tile of the mask (R295, R304). -/
def Core.loopsOn (c : Core) (team : Nat) (mask : Word) : List Loop := c.loops.filter fun l => l.team == team && mask.getLsbD l.tile

/-- A queued or running loop reads some of the team's slots (R283). -/
def Core.loopReads (c : Core) (team : Nat) (js : List Nat) : Bool :=
  c.loops.any fun l => l.team == team && l.slots.any fun j => js.contains j

/-- A walk request to operand memory writes some of the slots: an outstanding write until it ends (R245). -/
def Request.fillsSlots (r : Request) (js : List Nat) : Bool :=
  r.window.isNone && recDkind r.record == 2 &&
    js.any fun j => overlaps (j * 8192) (j * 8192 + 8191) (recDst r.record) (recDst r.record + recBytes r.record - 1)

/-- A walk request that has not ended writes some of the team's slots (R245, R283). -/
def Core.slotsFilling (c : Core) (team : Nat) (js : List Nat) : Bool :=
  c.requests.any fun r => r.team == team && r.fillsSlots js

/-- The lock entry of a loop (R284, R309). -/
def loopLock (ctx : Nat) (q : Quarter) (l : Loop) : Lock :=
  let reads := l.slots.filterMap fun j => (q.slot? j).map fun p =>
    ({ space := .window ctx, lo := 0x100000 + p * 8192, hi := 0x100000 + p * 8192 + 8191, dest := false } : LockRange)
  let dest : LockRange :=
    if l.sc then { space := .window ctx, lo := 0x240000, hi := 0x247FFF, dest := true }
    else { space := .window ctx, lo := 0x200000 + q.tiles.getD l.tile 0 * 16384, hi := 0x200000 + q.tiles.getD l.tile 0 * 16384 + 16383, dest := true }
  let conf := q.vconf.getD l.tile {}
  let tables : List LockRange :=
    if conf.pred = .none then []
    else [conf.saofs, conf.sbofs].map fun o => { space := .scratch l.team, lo := o, hi := o + 256 * conf.nent - 1, dest := false }
  { owner := .loop l.id, ranges := dest :: (reads ++ tables) }

/-! ## One step (R273 to R275, R279, R282, R297) -/

/-- First element and number of elements of a step's K range within a row (R279). -/
def Loop.kRange (l : Loop) (t : NumType) (st : Nat) : Nat × Nat :=
  if l.sc then (32 * (st % l.bpt), 32) else (0, NumType.perRow t)

/-- The codes of row i of the A tiles of a step. -/
def State.aCodes (s : State) (q : Quarter) (l : Loop) (st i : Nat) : List Nat :=
  let u := st / l.bpt
  let (k0, n) := l.kRange l.ta st
  (List.range (loopATiles l.tb)).flatMap fun k => rowCodes l.ta (s.slotRow q (l.aSlot u + k) i) k0 n

/-- The codes of row j of the B tile of a step. -/
def State.bCodes (s : State) (q : Quarter) (l : Loop) (st j : Nat) : List Nat :=
  let (k0, n) := l.kRange l.tb st
  rowCodes l.tb (s.slotRow q (l.bSlot (st / l.bpt)) j) k0 n

/-- The 4,096 step sums of a floating-point step. -/
def State.floatSums (s : State) (q : Quarter) (l : Loop) (st : Nat) : List StepSum :=
  let as := (List.range 64).map fun i => (s.aCodes q l st i).map (elemValue l.ta)
  let bs := (List.range 64).map fun j => (s.bCodes q l st j).map (elemValue l.tb)
  as.flatMap fun a => bs.map fun b => stepSum (List.zipWith stepProduct a b)

/-- The 4,096 sums of an integer step. -/
def State.intSums (s : State) (q : Quarter) (l : Loop) (st : Nat) : List Int :=
  let as := (List.range 64).map fun i => (s.aCodes q l st i).map (elemInt l.ta)
  let bs := (List.range 64).map fun j => (s.bCodes q l st j).map (elemInt l.tb)
  as.flatMap fun a => bs.map fun b => intStepSum a b

/-- Reserved ternary codes in the B tile of a step (R267, R297). -/
def State.reservedCodes (s : State) (q : Quarter) (l : Loop) (st : Nat) : Nat :=
  if l.tb = .t2 then ((List.range 64).map fun j => (s.bCodes q l st j).count 2).sum else 0

/-- An element after a step; a verdict word receives no further step (R297). -/
def stepElement (c : Word) (P : StepSum) : Word := if isVerdict c then c else addStep c P

/-- An element after an integer step; a verdict word stays, as R297 writes it (log 17). -/
def intElement (c : Word) (P : Int) : Word := if isVerdict c then c else BitVec.ofInt 32 ((c.toNat : Int) + P)

/-- The first element, in row-then-column order, that a step made NaN (R286). -/
def firstNewNan (old new : List Word) : Option Nat :=
  (List.range 4096).find? fun n => isNanF32 (new.getD n 0) && !isNanF32 (old.getD n 0)

/-- TADDR of the matrix-NaN trap (R286). -/
def nanAddr (core tile n st : Nat) : DWord :=
  BitVec.ofNat 64 (core * 2 ^ 48 + tile * 2 ^ 40 + n / 64 * 2 ^ 32 + n % 64 * 2 ^ 24 + st)

/-- A NaN trap raised at the owner, or the team's lowest live group; with none live the report alone is made (R286, R410). -/
def State.raiseNan (s : State) (core : Nat) (l : Loop) (addr : DWord) : State :=
  s.raiseHeld core l.team l.gidx { code := 0x0D, addr, info := BitVec.ofNat 32 l.done }

/-! ## Audit (R314) -/

/-- The exact sum of squares over the steps after `e` of one row of a side. -/
def State.auditSum (s : State) (q : Quarter) (l : Loop) (bSide : Bool) (i e : Nat) : Option (Nat × Int) :=
  squareSum ((List.range (l.nstep - 1 - e)).flatMap fun k =>
    let st := e + 1 + k
    if bSide then (s.bCodes q l st i).map (elemValue l.tb) else (s.aCodes q l st i).map (elemValue l.ta))

/-- The first understating entry: SIDE, row or column, entry. -/
def State.auditFind (s : State) (q : Quarter) (c : VConf) (l : Loop) : Option (Nat × Nat × Nat) :=
  [0, 1].findSome? fun side => (List.range 64).findSome? fun i =>
    ((List.range (min c.nent (l.nstep - 1))).find? fun e =>
      understates (s.boundEntry q (if side = 0 then c.saofs else c.sbofs) c.nent i e) (s.auditSum q l (side == 1) i e)).map fun e => (side, i, e)

/-- TADDR of the bound-audit trap. -/
def auditAddr (core tile : Nat) (f : Nat × Nat × Nat) : DWord :=
  BitVec.ofNat 64 (core * 2 ^ 48 + tile * 2 ^ 40 + f.1 * 2 ^ 38 + f.2.1 * 2 ^ 32 + f.2.2)

/-- The monitor audits the loops of a tile so configured (R314). -/
def VConf.audits (c : VConf) : Bool := c.audit && c.pred ≠ .none

/-- Steps done as MSYNC and TINFO report them: of an audited loop, those of the same loop without audit (R304, R314). -/
def Loop.reported (l : Loop) : Nat := l.early.getD l.done

/-- The audit at the end of a loop's last step. -/
def State.audit (s : State) (q : Quarter) (c : VConf) (l : Loop) : State :=
  if !c.audits || l.nstep < 2 then s
  else
    match s.auditFind q c l with
    | some f => s.raiseHeld q.core l.team l.gidx { code := 0x0E, addr := auditAddr q.core l.tile f, info := BitVec.ofNat 32 l.reported }
    | none => s

/-! ## The sequencer (R281, R285, R286, R310, R312) -/

/-- A loop of a core replaced. -/
def State.setLoop (s : State) (core : Nat) (l : Loop) : State :=
  s.modCore core fun c => { c with loops := c.loops.map fun x => if x.id = l.id then l else x }

/-- A block-scaled step: RNE(P) to the step's partial slot (R275, R285). -/
def State.scaledStep (s : State) (q : Quarter) (l : Loop) : State :=
  let st := l.done
  let old := s.tileWords q l.tile
  let new := (s.floatSums q l st).map roundStep
  let s := s.loadPartials q.core l
  let l := { l with done := st + 1, saved := none }
  let s := (s.setPartial q.core (st % 2) new).setLoop q.core l
  match (if l.nt then firstNewNan old new else none) with
  | some n => (s.raiseNan q.core l (nanAddr q.core l.tile n st)).endLoop q.core l
  | none => s

/-- A step on a tile: the sums added, the boundary's monitor, the NaN trap, and the loop's end: at its last step, or at a boundary at which
every element holds a verdict word, which an audited loop only notes (R297, R310, R312, R314). -/
def State.plainStep (s : State) (q : Quarter) (l : Loop) : State :=
  let st := l.done
  let conf := q.vconf.getD l.tile {}
  let old := s.tileWords q l.tile
  let added := if NumType.intLoop l.ta then List.zipWith intElement old (s.intSums q l st)
    else List.zipWith stepElement old (s.floatSums q l st)
  let nan := if l.nt && !NumType.intLoop l.ta then firstNewNan old added else none
  let watch := conf.pred ≠ .none && st + 1 < l.nstep
  let pth := l.pubs.getD (Config.freeNat s.fresh % max 1 l.pubs.length) conf.pth
  let new := if watch then monitorTile s q conf pth l.nstep st added else added
  let last := st + 1 = l.nstep
  let decided := !last && new.all isVerdict
  let l := { l with done := st + 1, pubs := l.pubs.take 1
                    early := if decided && conf.audits && l.early.isNone then some (st + 1) else l.early }
  let s := { ((s.setTile q l.tile new).setLoop q.core l) with fresh := s.fresh + 1 }
  match nan with
  | some n =>
    let s := s.raiseNan q.core l (nanAddr q.core l.tile n st)
    (if last then s.audit q conf l else s).endLoop q.core l
  | none =>
    if last then (s.audit q conf l).endLoop q.core l
    else if decided && !conf.audits then s.endLoop q.core l
    else s

/-- One step of the sequencer: the loops to be stopped end at their boundary, else the first loop of the queue does its next step; a
block-scaled step waits for the MSCA two steps before it (R281, R285, R289). -/
def State.matrixStep (s : State) (core : Nat) : Option State :=
  let c := s.core core
  match c.loops.find? fun l => l.stopReq with
  | some l => some (s.endLoop core l)
  | none =>
    match c.loops with
    | [] => none
    | l :: _ =>
      match (s.team? l.team).bind fun t => t.quarterOn core with
      | none => none
      | some q =>
        let s' := s.modQuarter l.team core fun q => { q with ternary := min (2 ^ 32 - 1) (q.ternary + s.reservedCodes q l l.done) }
        if l.done = l.nstep then none
        else if l.sc then if l.scaled + 1 < l.done then none else some (s'.scaledStep q l)
        else some (s'.plainStep q l)

end Sys2Proof.Machine
end

