-- ==== Sys2Proof/Machine/Matrix.lean ====
section
/-! DEFINITION. The matrix instructions 0x90 to 0x98, the sequencer's step, and the performing of drains (R105, R287 to R305). -/

namespace Sys2Proof.Machine

/-! ## The shape of an engine word (R105, R290) -/

/-- R105: the other slot is not live, waits at its JOIN or at a barrier, or is parked by this rule while this is slot A; or slot A has
run and this slot's turn has come. -/
def Issue.mayEngine (i : Issue) : Bool :=
  i.part.turn ||
  match i.grp.slot (!i.b) with
  | none => true
  | some p =>
    p.park.isSome ||
    match p.wait with
    | some (.bar _ _) | some (.barSync _ _) | some (.tbar _ _) | some (.tbarSync _ _) => true
    | some .matrix => !i.b
    | _ => false

/-- An engine word is done: the other slot, parked by R105, has its turn. -/
def State.grantTurn (s : State) (i : Issue) : State :=
  s.modGroup i.key fun g =>
    g.setSlot (!i.b) ((g.slot (!i.b)).map fun p => if p.wait = some .matrix then { p with turn := true } else p)

/-- An engine word that waits keeps its turn (R105). -/
def State.keepTurn (s : State) (i : Issue) : State :=
  s.modGroup i.key fun g => g.setSlot i.b ((g.slot i.b).map fun p => { p with turn := true })

/-- An engine word: nothing without a lane; parked by R105 until its turn has come; then its checks, the register budget and its effect,
with the quarter, the lane its uniform operands come from and the executing lanes. -/
def engineWord (s : State) (g : Guard) (ds : Issue → Nat → List Operand) (check : Issue → Quarter → Nat → Word → Option Trap)
    (body : Issue → Quarter → Nat → Word → Done) : Host.Outcome State Fault Refusal :=
  onIssue s fun i =>
    let X := i.lanes g
    match lowLane X, i.team.quarterOn i.core with
    | none, _ => .next s
    | some _, none => .trap (i.trap 0x03 X) s
    | some l, some q =>
      if !i.mayEngine then .park .matrix s
      else
        match check i q l X, i.budget X (ds i l) with
        | some t, _ => .trap t (s.grantTurn i)
        | none, some t => .trap t (s.grantTurn i)
        | none, none =>
          match body i q l X with
          | .next s => .next (s.grantTurn i)
          | .park w s => .park w (s.keepTurn i)
          | d => d

/-- The illegal-operand trap when `bad` holds. -/
def Issue.illegal (i : Issue) (X : Word) (bad : Bool) (info : Word := 0) : Option Trap :=
  if bad then some (i.trap 0x03 X info) else none

/-- Number of accumulator tiles of a quarter: ACCT (R277). -/
def Quarter.acct (q : Quarter) : Nat := q.tiles.length

/-- A tile mask operand that is not legal: bits [31:16], or a tile at or above ACCT. -/
def Quarter.badMask (q : Quarter) (m : Word) : Bool := 2 ^ q.acct ≤ m.toNat

/-! ## MCLAIM and MREL (R291, R292) -/

/-- Logical slots first to first + n - 1. -/
def slotRange (first n : Nat) : List Nat := (List.range n).map (first + ·)

/-- MCLAIM. -/
def execMclaim (g : Guard) (d a b : Operand) (s : State) : Host.Outcome State Fault Refusal :=
  engineWord s g (fun _ _ => [d])
    (fun i _ l X => i.illegal X ((i.srcN b l).toNat = 0 || 64 < (i.srcN a l).toNat + (i.srcN b l).toNat))
    fun i q l X =>
      let js := slotRange (i.srcN a l).toNat (i.srcN b l).toNat
      let ans (s : State) (v : Word) : Done := .next (s.modGroup i.key fun g => g.put32 d X fun _ => v)
      if js.any fun j => (q.slot? j).isSome then ans s 1
      else if q.reserve.length < js.length then ans s 2
      else
        let taken := q.reserve.take js.length
        let s := s.modQuarter i.grp.team i.core fun q =>
          { q with reserve := q.reserve.drop js.length, claims := q.claims ++ js.zip taken }
        let s := s.modCore i.core fun c =>
          { c with chip := taken.foldl (fun m p => cellsClear m (0x100000 + p * 8192) (0x100000 + (p + 1) * 8192)) c.chip }
        ans s 0

/-- MREL. -/
def execMrel (g : Guard) (a b : Operand) (s : State) : Host.Outcome State Fault Refusal :=
  engineWord s g (fun _ _ => [])
    (fun i q l X =>
      let first := (i.srcN a l).toNat
      let n := (i.srcN b l).toNat
      i.illegal X (n = 0 || 64 < first + n || (slotRange first (min n 64)).any fun j => (q.slot? j).isNone))
    fun i _ l _ =>
      let js := slotRange (i.srcN a l).toNat (i.srcN b l).toNat
      let c := s.core i.core
      if c.loopReads i.grp.team js || c.slotsFilling i.grp.team js then .park .reissue s
      else
        .next (s.modQuarter i.grp.team i.core fun q =>
          { q with claims := q.claims.filter (fun c => !js.contains c.1), reserve := q.reserve ++ js.filterMap fun j => q.slot? j })

/-! ## MSTAGE and MREAD (R293, R294) -/

/-- A stage or read descriptor: H, NW, W0 and the slot or tile. -/
structure StageDesc where
  h : Nat
  nw : Nat
  w0 : Nat
  n : Nat

/-- The fields of a descriptor. -/
def stageDesc (x : Word) : StageDesc := { h := bits x 24 24, nw := bits x 21 16, w0 := bits x 12 8, n := bits x 5 0 }

/-- A descriptor with a non-zero `zero` field, or rows or registers out of range (R294). -/
def stageBad (x : Word) (f : Nat) : Bool :=
  let d := stageDesc x
  bits x 31 25 ≠ 0 || bits x 23 22 ≠ 0 || bits x 15 13 ≠ 0 || bits x 7 6 ≠ 0 || d.nw = 0 || 32 < d.w0 + d.nw || 192 < f + d.nw

/-- Number of a vector-register operand. -/
def vnum (o : Operand) : Nat :=
  match o with
  | .v n => n
  | _ => 192

/-- MSTAGE. -/
def execMstage (g : Guard) (a b : Operand) (s : State) : Host.Outcome State Fault Refusal :=
  engineWord s g (fun _ _ => [])
    (fun i q l X => i.illegal X (stageBad (i.srcN b l) (vnum a) || (q.slot? (stageDesc (i.srcN b l)).n).isNone))
    fun i q l X =>
      let d := stageDesc (i.srcN b l)
      if (s.core i.core).loopReads i.grp.team [d.n] then .park .reissue s
      else
        let base := 0x100000 + (q.slot? d.n).getD 0 * 8192
        .next (s.modCore i.core fun c =>
          { c with chip := laneList.foldl (fun m lane =>
              cellsSet m (base + 128 * (32 * d.h + lane) + 4 * d.w0)
                ((List.range d.nw).flatMap fun w =>
                  toBytes 4 (if X.getLsbD lane then (i.grp.v (vnum a + w) lane).toNat else 0))) c.chip })

/-- MREAD. A loop of the group on the tile holds the word back before it issues (`State.heldBy`). -/
def execMread (g : Guard) (d a : Operand) (s : State) : Host.Outcome State Fault Refusal :=
  engineWord s g (fun i l => (List.range (stageDesc (i.srcN a l)).nw).map fun w => .v (vnum d + w))
    (fun i q l X => i.illegal X (stageBad (i.srcN a l) (vnum d) || q.acct ≤ (stageDesc (i.srcN a l)).n))
    fun i q l X =>
      let x := stageDesc (i.srcN a l)
      let ws := s.tileWords q x.n
      .next (s.modGroup i.key fun g => g.putMany d X x.nw fun w lane => ws.getD (64 * (32 * x.h + lane) + x.w0 + w) 0)

/-! ## MZERO (R295) -/

/-- Drains of a team of a tile of the mask on a core (R304). -/
def State.drainsOf (s : State) (team core : Nat) (mask : Word) : List Drain :=
  s.drains.filter fun d => d.team == team && d.core == core && mask.getLsbD d.tile

/-- MZERO: it waits for the loops that write the tiles and for the rows on their way, but for no contribution parked at its home (R295). -/
def execMzero (g : Guard) (b : Operand) (s : State) : Host.Outcome State Fault Refusal :=
  engineWord s g (fun _ _ => [])
    (fun i q l X => i.illegal X (q.badMask (i.srcN b l)))
    fun i q l _ =>
      let m := i.srcN b l
      if !((s.core i.core).loopsOn i.grp.team m).isEmpty || (s.drainsOf i.grp.team i.core m).any fun d => !d.parked then .park .reissue s
      else
        .next (s.modCore i.core fun c =>
          { c with acc := ((List.range 16).filter fun t => m.getLsbD t).foldl (fun acc t =>
              cellsClear acc (tileIndex (q.tiles.getD t 0)) (tileIndex (q.tiles.getD t 0) + 4096)) c.acc })

/-! ## MLOOP (R296 to R298, R309) -/

/-- The loop that an MLOOP's operands describe. -/
def loopOf (i : Issue) (ta tb : NumType) (sc nt : Bool) (a b c : Word) (id : Nat) : Loop :=
  { id, team := i.grp.team, gidx := i.grp.gidx, tile := bits a 3 0, ta, tb, sc, nt, aslot := bits a 13 8, bslot := bits a 21 16,
    nstep := bits b 16 0, da := bits c 5 0, wa := bits c 13 8, db := bits c 21 16, wb := bits c 29 24 }

/-- The first block some slot of which is above 63 or not claimed (R298). -/
def badBlock (q : Quarter) (l : Loop) : Option Nat :=
  (List.range l.blocks).find? fun u => (l.slotsAt u).any fun j => 63 < j || (q.slot? j).isNone

/-- The operand checks of MLOOP (R298, R309). -/
def loopCheck (i : Issue) (q : Quarter) (X : Word) (a b c : Word) (l : Loop) : Option Trap :=
  let zero := bits a 31 22 ≠ 0 || bits a 15 14 ≠ 0 || bits a 7 4 ≠ 0 || bits b 31 17 ≠ 0 || bits c 31 30 ≠ 0 || bits c 23 22 ≠ 0 ||
    bits c 15 14 ≠ 0 || bits c 7 6 ≠ 0
  if zero || l.nstep = 0 || q.acct ≤ l.tile then some (i.trap 0x03 X)
  else
    match badBlock q l with
    | some u => some (i.trap 0x03 X (BitVec.ofNat 32 u))
    | none => i.illegal X ((q.vconf.getD l.tile {}).pred ≠ .none && (NumType.intLoop l.ta || l.sc))

/-- MLOOP: the loop is queued with its lock entry, once no write to its slots is outstanding and the queue and the lock table have room. A
loop of the owner on its tile or the partial slots holds the word back before it issues (`State.heldBy`). -/
def execMloop (g : Guard) (ta tb : NumType) (sc nt : Bool) (a b c : Operand) (s : State) : Host.Outcome State Fault Refusal :=
  let mk (i : Issue) (l : Nat) : Loop :=
    loopOf i ta tb sc nt (i.srcN a l) (i.srcN b l) (i.srcN c l) (s.core i.core).nextLoop
  engineWord s g (fun _ _ => [])
    (fun i q l X => loopCheck i q X (i.srcN a l) (i.srcN b l) (i.srcN c l) (mk i l))
    fun i q l _ =>
      let k := s.core i.core
      let L := mk i l
      if k.slotsFilling L.team L.slots || 8 ≤ k.loops.length || 64 ≤ k.locks.length then .park .reissue s
      else
        let L := { L with pubs := [(q.vconf.getD L.tile {}).pth] }
        .next (s.modCore i.core fun k =>
          { k with loops := k.loops ++ [L], locks := k.locks ++ [loopLock i.team.ctx q L], nextLoop := k.nextLoop + 1 })

/-! ## MSCA (R299, R300) -/

/-- The scale of row or column `n`: lane n of register F, or lane n - 32 of F + 1; +0 from a lane that does not execute. -/
def Issue.scaleAt (i : Issue) (X : Word) (f n : Nat) : Word := if X.getLsbD (n % 32) then i.grp.v (f + n / 32) (n % 32) else 0

/-- The earliest `.sc` loop of the group on a tile with a step not yet scaled. -/
def Core.scaleLoop (c : Core) (team gidx tile : Nat) : Option Loop :=
  c.loops.find? fun l => l.team == team && l.gidx == gidx && l.tile == tile && l.sc && l.scaled < l.nstep

/-- MSCA. -/
def execMsca (g : Guard) (a b c : Operand) (s : State) : Host.Outcome State Fault Refusal :=
  engineWord s g (fun _ _ => [])
    (fun i q l X =>
      let tile := (i.srcN a l).toNat
      let regs := [vnum b, vnum b + 1, vnum c, vnum c + 1]
      if q.acct ≤ tile || ((s.core i.core).scaleLoop i.grp.team i.grp.gidx tile).isNone then some (i.trap 0x03 X)
      else i.verdictTrap X fun lane => regs.any fun r => isVerdict (i.grp.v r lane))
    fun i q l X =>
      let tile := (i.srcN a l).toNat
      match (s.core i.core).scaleLoop i.grp.team i.grp.gidx tile with
      | none => .trap (i.trap 0x03 X) s
      | some L =>
        if L.done ≤ L.scaled then .park .reissue s
        else
          let ps := s.loopPartial i.core L (L.scaled % 2)
          let old := s.tileWords q tile
          let new := (List.range 4096).map fun n =>
            let x := old.getD n 0
            if isVerdict x then x
            else scaleStep (ps.getD n 0) (i.scaleAt X (vnum b) (n / 64)) (i.scaleAt X (vnum c) (n % 64)) x
          let L := { L with scaled := L.scaled + 1 }
          let s := (s.setTile q tile new).setLoop i.core L
          .next (if L.scaled = L.nstep then s.endLoop i.core L else s)

/-! ## MDRAIN (R287, R288, R301 to R303) -/

/-- The drain and destination words that trap. NROW = 0 is in no row of R303: the word executes and sends no row (R6). -/
def drainBad (q : Quarter) (ord : Bool) (b c : Word) : Bool :=
  let nrow := bits b 22 16
  bits b 31 23 ≠ 0 || bits b 15 14 ≠ 0 || bits b 7 4 ≠ 0 || q.acct ≤ bits b 3 0 || 64 < bits b 13 8 + nrow ||
  bits c 15 0 < 64 || (if ord then bits c 31 24 < bits c 23 16 else bits c 31 16 ≠ 0)

/-- The access of a drain's element (R302, R303). -/
def Issue.drainAccess (i : Issue) (op : DrainOp) : Access :=
  ({ size := 4, align := 4, need := { r := op ≠ .st, w := true }, acc := 6, plain := false, aperture := false, windows := false } : Access).by i

/-- The elements of a row checked (R302). -/
def State.checkRow (s : State) (i : Issue) (op : DrainOp) (base : Nat) : Except (CheckFail × DWord) (List Nat) :=
  match s.checkMany i (i.drainAccess op) ((List.range 64).map fun j => BitVec.ofNat 64 (base + 4 * j)) with
  | .error e => .error e
  | .ok locs => .ok (locs.filterMap fun loc =>
      match loc with
      | .dram k => some k
      | .win _ _ => none)

/-- The drains a row becomes: its elements, or for `.ord` its contributions, one to each 128-byte line (R287, R288). -/
def rowDrains (i : Issue) (tile : Nat) (op : DrainOp) (f32 : Bool) (ord : Option (Nat × Nat)) (id : Nat) (keys : List Nat)
    (ws : List Word) : List Drain :=
  let one (n addr : Nat) (words : List (Nat × Word)) : Drain :=
    { id := id + n, row := id, core := i.core, team := i.grp.team, gidx := i.grp.gidx, tile, op, f32, addr, words, ord }
  let kw := keys.zip ws
  match ord with
  | none => (List.range kw.length).map fun n => let p := kw.getD n (0, 0); one n p.1 [(0, p.2)]
  | some _ =>
    let lines := (keys.map fun k => k / 128).eraseDups
    (List.range lines.length).map fun n =>
      let ln := lines.getD n 0
      one n (ln * 128) ((kw.filter fun p => p.1 / 128 = ln).map fun p => ((p.1 - ln * 128) / 4, p.2))

/-- The rows of an MDRAIN from the first one not yet sent (R302): the rows sent, and the failing check with its rows done. -/
def State.sendRows (s : State) (i : Issue) (q : Quarter) (op : DrainOp) (f32 : Bool) (ord : Option (Nat × Nat)) (b c : Word)
    (base : Nat) : List Nat → State × Option (CheckFail × DWord × Nat)
  | [] => (s, none)
  | r :: rs =>
    match s.checkRow i op (base + r * 4 * bits c 15 0) with
    | .error (f, va) => (s, some (f, va, r))
    | .ok keys =>
      let tile := bits b 3 0
      let ws := ((s.tileWords q tile).drop (64 * (bits b 13 8 + r))).take 64
      let ds := rowDrains i tile op f32 ord s.nextDrain keys ws
      State.sendRows { s with drains := s.drains ++ ds, nextDrain := s.nextDrain + ds.length } i q op f32 ord b c base rs

/-- What MDRAIN does once its checks have passed. It revokes retake eligibility, unless a trap stops it with no row sent (R417). -/
def drainBody (s : State) (i : Issue) (q : Quarter) (op : DrainOp) (ord f32 : Bool) (bw cw : Word) (base l : Nat) (X : Word) : Done :=
  let rows := (List.range (bits bw 22 16)).filter fun r => i.part.rows ≤ r
  let area := ((s.tileWords q (bits bw 3 0)).drop (64 * bits bw 13 8)).take (64 * bits bw 22 16)
  if X &&& ~~~i.mute = 0 then .next (s.revoke i.grp.team)
  else if op ≠ .st && area.any isVerdict then .trap (i.trap 0x07 X (BitVec.ofNat 32 l)) s
  else
    let seq := if ord then some (bits cw 23 16, bits cw 31 24 + 1) else none
    let (s', fail) := (s.revoke i.grp.team).sendRows i q op f32 seq bw cw base rows
    match fail with
    | some (f, va, r) =>
      .trap { i.trap f.code X (BitVec.ofNat 32 r) va with tmask := 0 } (if rows.head? = some r then s else s')
    | none => .next (s'.suspend i.key)

/-- MDRAIN. -/
def execMdrain (g : Guard) (op : DrainOp) (ord : Bool) (_sc : Scope) (f32 : Bool) (a b c : Operand) (s : State) :
    Host.Outcome State Fault Refusal :=
  match s.issuing with
  | none => .fault .noIssuer
  | some i0 =>
    if i0.lanes g = 0 then onIssue s fun i => .next (s.revoke i.grp.team)
    else
      engineWord s g (fun _ _ => [])
        (fun i q l X => if X &&& ~~~i.mute = 0 then none else i.illegal X (drainBad q ord (i.srcN b l) (i.srcN c l)))
        fun i q l X => drainBody s i q op ord f32 (i.srcN b l) (i.srcN c l) (i.src64 false a l).toNat l X

/-! ## Drains perform (R287, R288) -/

/-- One element's indivisible step at its home. -/
def drainStep (op : DrainOp) (f32 : Bool) (m v : Word) : Word :=
  match op, f32 with
  | .st, _ => v
  | .add, true => BitVec.ofNat 32 (fmt32.add .rne m.toNat v.toNat).1
  | .add, false => m + v
  | .max, true => BitVec.ofNat 32 (fmt32.minMax true m.toNat v.toNat).1
  | .max, false => if m.toInt < v.toInt then v else m

/-- A drain's elements performed in ascending address; every L1 copy of the line is invalidated first. -/
def State.applyDrain (s : State) (d : Drain) : State :=
  d.words.foldl (fun s w =>
    let k := d.addr + 4 * w.1
    let m : Word := BitVec.ofNat 32 (readNat s.mem k 4)
    s.homeWrite (.dram k) (toBytes 4 (drainStep d.op d.f32 m w.2).toNat)) s

/-- DRAIN_ELEMENT (R287). -/
def State.drainElement (s : State) (n : Nat) : Option State :=
  match s.drains[n]? with
  | none => none
  | some d => if d.ord.isSome then none else some ({ s with drains := s.drains.eraseIdx n }.applyDrain d)

/-- DRAIN_ELEMENT (R287). -/
def execDrainElement (i : Nat) (s : State) : Host.Outcome State Fault Refusal := onEvent s (s.drainElement i)

/-- The sequence of a line, opened by a first arrival of count `n` (R288). -/
def State.sequenceOf (s : State) (line n : Nat) : Sequence :=
  match s.sequences.find? fun q => q.addr == line with
  | some q => q
  | none => { addr := line, next := 0, count := n }

/-- A sequence kept among the open ones. -/
def State.setSequence (s : State) (q : Sequence) : State :=
  { s with sequences := q :: s.sequences.filter fun x => x.addr ≠ q.addr }

/-- The parked contributions of a line applied while their rank comes; at the last rank the sequence closes and the held arrivals arrive
anew (R288). -/
def State.runSequence : Nat → State → Sequence → State
  | 0, s, q => s.setSequence q
  | k + 1, s, q =>
    if q.next = q.count then
      { s with sequences := s.sequences.filter (fun x => x.addr ≠ q.addr),
               drains := s.drains.map fun d => if d.addr = q.addr && d.ord.isSome then { d with parked := false } else d }
    else
      match s.drains.findIdx? fun d => d.parked && d.addr == q.addr && d.ord.map Prod.fst == some q.next with
      | none => s.setSequence q
      | some n =>
        match s.drains[n]? with
        | none => s.setSequence q
        | some d => State.runSequence k ({ s with drains := s.drains.eraseIdx n }.applyDrain d) { q with next := q.next + 1 }

/-- ORDERED_CONTRIBUTION (R288): a contribution arrives at its home. -/
def State.orderedContribution (s : State) (n : Nat) : Option State :=
  match s.drains[n]? with
  | none => none
  | some d =>
    match d.ord with
    | none => none
    | some (_, count) =>
      if d.parked then none
      else
        let s := { s with drains := s.drains.eraseIdx n ++ [{ d with parked := true }] }
        some (State.runSequence 257 s (s.sequenceOf d.addr count))

/-- ORDERED_CONTRIBUTION (R288). -/
def execOrderedContribution (i : Nat) (s : State) : Host.Outcome State Fault Refusal := onEvent s (s.orderedContribution i)

/-- MATRIX_STEP (R297). -/
def execMatrixStep (core : Nat) (s : State) : Host.Outcome State Fault Refusal := onEvent s (s.matrixStep core)

/-! ## MSYNC (R304, R305) -/

/-- MSCA words still missing on the masked tiles' block-scaled loops of the group. -/
def Core.missingScales (c : Core) (team gidx : Nat) (m : Word) : Nat :=
  ((c.loopsOn team m).map fun l => if l.gidx = gidx && l.sc then l.nstep - l.scaled else 0).sum

/-- The status of MSYNC.wait: steps done of the loop that ended most recently on the lowest tile of the mask. -/
def Quarter.syncStatus (q : Quarter) (m : Word) : Word :=
  match (List.range 16).find? fun t => m.getLsbD t with
  | some t => BitVec.ofNat 32 (q.steps.getD t 0)
  | none => 0

/-- Loops and drains that an MSYNC.wait still waits for. -/
def State.syncBusy (s : State) (team core : Nat) (m : Word) (loops drains : Nat) : Bool :=
  ((s.core core).loopsOn team m).any (fun l => l.id < loops) || (s.drainsOf team core m).any fun d => d.id < drains

/-- MSYNC.wait. -/
def execMsyncWait (g : Guard) (d b : Operand) (s : State) : Host.Outcome State Fault Refusal :=
  engineWord s g (fun _ _ => [d])
    (fun i q l X =>
      let m := i.srcN b l
      let n := (s.core i.core).missingScales i.grp.team i.grp.gidx m
      if q.badMask m then some (i.trap 0x03 X) else i.illegal X (n ≠ 0) (BitVec.ofNat 32 n))
    fun i q l X =>
      let m := i.srcN b l
      let c := s.core i.core
      if s.syncBusy i.grp.team i.core m c.nextLoop s.nextDrain then .park (.msync d X m c.nextLoop s.nextDrain) s
      else .next (s.modGroup i.key fun g => g.put32 d X fun _ => q.syncStatus m)

/-- A slot parked in MSYNC.wait whose loops and drains have ended: within the register budget it receives the status in its executing lanes
and goes on, and the other slot, parked by R105, has its turn; else it traps (R110). `s` has the slot as its issuer. -/
def State.endSync (s : State) : Option State :=
  match s.issuing with
  | none => none
  | some i =>
    match i.part.wait, i.team.quarterOn i.core with
    | some (.msync d X m loops drains), some q =>
      if s.syncBusy i.grp.team i.core m loops drains then none
      else
        match i.budget X [d] with
        | some t => some (s.takeTrap s i.key i.b t)
        | none => some ((s.modGroup i.key fun g => (g.put32 d X fun _ => q.syncStatus m).advance i.b).grantTurn i)
    | _, _ => none

/-- MSYNC.stat: the team's count of reserved ternary codes, then cleared. -/
def execMsyncStat (g : Guard) (d : Operand) (s : State) : Host.Outcome State Fault Refusal :=
  engineWord s g (fun _ _ => [d]) (fun _ _ _ _ => none)
    fun i _ _ X =>
      let n := min (2 ^ 32 - 1) ((i.team.quarters.map fun q => q.ternary).sum)
      let s := s.modTeam i.grp.team fun t => { t with quarters := t.quarters.map fun q => { q with ternary := 0 } }
      .next (s.modGroup i.key fun g => g.put32 d X fun _ => BitVec.ofNat 32 n)

end Sys2Proof.Machine
end

