-- ==== Sys2Proof/Machine/Uses.lean ====
section
/-! DEFINITION. What a word reads and what it writes, as the scoreboard and the spilling of registers see it (R111, R149, R245, R283). -/

namespace Sys2Proof.Machine

/-- Registers (a vector register by its number, uniform register n as 192 + n), team tiles, and operand slots of a word; `parts` says that
it uses the partial slots. -/
structure Uses where
  regs : List Nat := []
  tiles : Word := 0
  slots : List Nat := []
  parts : Bool := false
  deriving DecidableEq, Repr

/-- The `n` registers that an operand names. -/
def Operand.regs (o : Operand) (n : Nat) : List Nat :=
  match o with
  | .v k => (List.range (min n 192)).map (k + ·)
  | .s k => (List.range (min n 32)).map (192 + k + ·)
  | _ => []

/-- Registers of several operands, each with its number of registers. -/
def regsOf (os : List (Operand × Nat)) : List Nat := os.flatMap fun p => Operand.regs p.1 p.2

/-- Registers of a 32-bit or 64-bit operand. -/
def IntType.nregs (t : IntType) : Nat := if t.is64 then 2 else 1
def NumType.nregs (t : NumType) : Nat := if t.is64 then 2 else 1
def CsrWidth.nregs (w : CsrWidth) : Nat := if w = .d then 2 else 1

/-- Base pair and index of a memory operand (R218). -/
def MemArg.uses (m : MemArg) : List (Operand × Nat) := [(m.base, 2), (m.index, 1)]

/-- Coordinates of a texture word (R337). -/
def DMode.coords (m : DMode) : Nat :=
  match m with
  | .grad => 6
  | .quad => 2
  | .lod => 3

/-- Registers of a REGROUP's or a VDROP's range. -/
def spanRegs (vF vL : Operand) : List (Operand × Nat) := [(vF, vnum vL + 1 - vnum vF)]

/-- The source operands of a word with their widths; `i` gives the widths that a register holds (R293, R325).
A field that is `zero` names no register. -/
def Issue.sources (i : Issue) (w : Instr) : List (Operand × Nat) :=
  let u (o : Operand) : Word := Issue.uni i.part.mask (i.srcN o)
  match w with
  | .brx _ a | .callx _ _ a | .ret _ a => [(a, 2)]
  | .sleep _ b | .waitany b | .evdis _ _ b | .mzero _ b | .msyncWait _ _ b | .tbarWait _ _ b | .tbarTest _ _ _ b => [(b, 1)]
  | .iadd _ t _ _ a b | .isub _ t _ _ a b | .imul _ t _ a b | .imulh _ t _ a b | .imin _ t _ a b | .imax _ t _ a b | .and _ t _ a b
  | .or _ t _ a b | .xor _ t _ a b | .andn _ t _ a b | .icmp _ t _ _ _ a b | .sel _ t _ _ _ a b => [(a, IntType.nregs t), (b, IntType.nregs t)]
  | .shl _ t _ a b | .shr _ t _ a b | .sar _ t _ a b | .rot _ t _ _ a b | .bfx _ t _ a b => [(a, IntType.nregs t), (b, 1)]
  | .imad _ t _ a b c => [(a, IntType.nregs t), (b, IntType.nregs t), (c, IntType.nregs t)]
  | .imadw _ _ _ a b c => [(a, 1), (b, 1), (c, 2)]
  | .iabs _ t _ _ a | .ineg _ t _ _ a | .popc _ t _ a | .clz _ t _ a | .ctz _ t _ a | .brev _ t _ a | .mov _ t _ a => [(a, IntType.nregs t)]
  | .iaddc _ _ _ _ a b | .fadd _ _ _ a b | .fmul _ _ _ a b | .fmin _ _ a b | .fmax _ _ a b | .fscale _ _ _ a b | .fcmp _ _ _ _ a b
  | .hadd2 _ _ _ _ a b | .hmul2 _ _ _ _ a b | .hminmax2 _ _ _ _ a b | .setperf _ _ a b | .mclaim _ _ a b
  | .mrel _ a b | .barWait _ a b | .barArrive _ _ a b | .barDrop _ _ a b | .barExpect _ _ a b | .barSync _ a b | .barTest _ _ a b
  | .kick _ a b | .regionRing _ _ _ a b | .regionWindow _ _ _ a b | .vcfg _ _ _ _ a b | .vthr _ a b | .psfree _ _ a b
  | .sqpush _ _ _ a b => [(a, 1), (b, 1)]
  | .idot4 _ _ _ _ _ a b c | .bfi _ _ a b c | .perm _ _ a b c | .ffma _ _ _ a b c | .hfma2 _ _ _ _ a b c | .pack _ _ _ _ _ _ a b c
  | .vsel _ _ a b c | .mloop _ _ _ _ _ a b c | .topk _ a b c => [(a, 1), (b, 1), (c, 1)]
  | .lea _ _ _ m | .ld _ _ _ _ _ _ m | .ldb _ _ _ _ _ m | .pref _ _ m | .cacheWb _ m | .cacheWbinv _ m | .cacheZero _ m => MemArg.uses m
  | .frnd _ _ _ a | .frcp _ _ _ a | .frsq _ _ _ a | .fsqrt _ _ _ a | .fexp2 _ _ _ a | .flog2 _ _ _ a | .fsin _ _ _ a | .fcos _ _ _ a
  | .fclass _ _ a | .unpack _ _ _ _ a | .scan _ _ _ _ _ _ a | .redux _ _ _ _ _ a | .barJoin _ _ a | .rpub _ _ a | .rrel _ _ a
  | .mread _ _ a | .psalloc _ _ a | .sqpop _ _ _ a | .trapack _ _ a => [(a, 1)]
  | .cvt _ _ st _ _ _ _ a => [(a, NumType.nregs st)]
  | .pairWord h0 h1 => (h0.reads ++ h1.reads).map fun r => (HalfReg.operand r, 1)
  | .movh _ d _ => [(d, 1)]
  | .vtest _ c _ _ _ _ a b => if c = .dec then [(a, 1)] else [(a, 1), (b, 1)]
  | .pmov _ dir _ x => match dir with
    | .frommask | .frombool => [(x, 1)]
    | .tomask | .tobool => []
  | .shfl _ _ w64 _ _ _ a b | .lread _ w64 _ a b => [(a, if w64 then 2 else 1), (b, 1)]
  | .matchLanes _ _ w64 _ _ a => [(a, if w64 then 2 else 1)]
  | .regroup _ _ vF vL => spanRegs vF vL
  | .st _ _ sz _ _ d m => (d, MemSize.words sz) :: MemArg.uses m
  | .atom _ op _ _ d m | .red _ op _ _ d m =>
      (d, match op with
        | .cas32 => 2
        | .cas64 => 4
        | .add64 | .exch64 => 2
        | _ => 1) :: MemArg.uses m
  | .mwait _ _ w64 _ _ d m => (d, if w64 then 2 else 1) :: MemArg.uses m
  | .evarm _ k _ _ t a b h =>
      [(a, if k = .cnt || k = .mon || k = .time then 2 else 1), (h, 1)] ++
        (match k with
         | .bar => [(b, 1)]
         | .cnt => [(b, 2)]
         | .mon => [(b, IntType.nregs t)]
         | _ => [])
  | .mbox _ _ _ _ a p => [(a, 1), (p, 4)]
  | .mstage _ a b => [(a, (stageDesc (u b)).nw), (b, 1)]
  | .msca _ a b c => [(a, 1), (b, 2), (c, 2)]
  | .mdrain _ _ _ _ _ a b c => [(a, 2), (b, 1), (c, 1)]
  | .topkmMerge _ a b | .topkmStore _ a b | .launch _ _ a b => [(a, 1), (b, 2)]
  | .topkr _ _ a b => [(a, 1), (b, 1)]
  | .trace _ sn d a b c => [(a, 1), (b, 1), (c, 1), (.s sn, 2), (d, (u c).toNat / 4)]
  | .tex _ m _ a b c | .texg _ m _ _ a b c => [(a, DMode.coords m), (b, 2), (c, 1)]
  | .texqLod _ m _ a b => [(a, DMode.coords m), (b, 2)]
  | .texqDims _ _ a b => [(a, 1), (b, 2)]
  | .attr _ _ _ _ a b => [(a, 4), (b, 2)]
  | .fback _ _ a b => [(a, 2), (b, 1)]
  | .csrw _ w _ a | .csrx _ _ w _ _ a => [(a, CsrWidth.nregs w)]
  | .tlbi _ m a => [(a, if m = .page then 2 else 0)]
  | _ => []

/-- The destination operands of a word with their widths. -/
def Issue.dests (i : Issue) (w : Instr) : List (Operand × Nat) :=
  let u (o : Operand) : Word := Issue.uni i.part.mask (i.srcN o)
  match w with
  | .call _ d _ | .callx _ d _ | .imadw _ _ d _ _ _ | .lea _ _ d _ => [(d, 2)]
  | .iadd _ t _ d _ _ | .isub _ t _ d _ _ | .imul _ t d _ _ | .imulh _ t d _ _ | .imad _ t d _ _ _ | .imin _ t d _ _ | .imax _ t d _ _
  | .iabs _ t _ d _ | .ineg _ t _ d _ | .and _ t d _ _ | .or _ t d _ _ | .xor _ t d _ _ | .andn _ t d _ _ | .shl _ t d _ _
  | .shr _ t d _ _ | .sar _ t d _ _ | .rot _ t _ d _ _ | .bfx _ t d _ _ | .brev _ t d _ | .mov _ t d _ | .sel _ t _ _ d _ _ => [(d, IntType.nregs t)]
  | .iaddc _ _ _ d _ _ | .idot4 _ _ _ _ d _ _ _ | .bfi _ d _ _ _ | .popc _ _ d _ | .clz _ _ d _ | .ctz _ _ d _ | .perm _ d _ _ _
  | .movh _ d _ | .fadd _ _ d _ _ | .fmul _ _ d _ _ | .ffma _ _ d _ _ _ | .fmin _ d _ _ | .fmax _ d _ _ | .frnd _ _ d _ | .fscale _ _ d _ _
  | .frcp _ _ d _ | .frsq _ _ d _ | .fsqrt _ _ d _ | .fexp2 _ _ d _ | .flog2 _ _ d _ | .fsin _ _ d _ | .fcos _ _ d _ | .fclass _ d _
  | .hadd2 _ _ _ d _ _ | .hmul2 _ _ _ d _ _ | .hfma2 _ _ _ d _ _ _ | .hminmax2 _ _ _ d _ _ | .pack _ _ _ _ _ d _ _ _ | .unpack _ _ _ d _
  | .vsel _ d _ _ _ | .vote _ _ _ _ d | .scan _ _ _ _ _ d _ | .redux _ _ _ _ d _ | .matchLanes _ _ _ _ d _
  | .barArrive _ d _ _ | .barDrop _ d _ _ | .barJoin _ d _ | .barExpect _ d _ _ | .barTest _ d _ _ | .tbarArrive _ _ d | .tbarTest _ _ d _
  | .evdis _ d _ | .mbox _ _ _ d _ _ | .regionRing _ _ d _ _ | .regionWindow _ _ d _ _ | .regionAbsent _ _ d | .regionPresent _ _ d
  | .regionFree _ _ d | .racqFill _ _ _ d | .racqFree _ _ _ d | .mclaim _ d _ _ | .msyncWait _ d _ | .msyncStat _ d | .psalloc _ d _
  | .psfree _ d _ _ | .sqpush _ _ d _ _ | .sqpop _ _ d _ | .fback _ d _ _ | .setperf _ d _ _ | .launch _ d _ _ | .trapack _ d _ => [(d, 1)]
  | .vtest _ _ _ step _ d _ _ => if step then [(d, 1)] else []
  | .cvt _ dt _ _ _ _ d _ => [(d, NumType.nregs dt)]
  | .pairWord h0 h1 => [(HalfReg.operand h0.dst, 1), (HalfReg.operand h1.dst, 1)]
  | .pmov _ dir _ x => match dir with
    | .tomask | .tobool => [(x, 1)]
    | .frommask | .frombool => []
  | .shfl _ _ w64 _ _ d _ _ | .lread _ w64 d _ _ => [(d, if w64 then 2 else 1)]
  | .regroup _ d vF vL => (d, 1) :: spanRegs vF vL
  | .vdrop vF vL => spanRegs vF vL
  | .ld _ _ sz _ _ d _ => [(d, MemSize.words sz)]
  | .ldb _ sz _ _ d _ => [(d, 2 ^ sz)]
  | .atom _ op _ _ d _ => [(d, match op with
      | .add64 | .exch64 | .cas64 => 2
      | _ => 1)]
  | .mread _ d a => [(d, (stageDesc (u a)).nw)]
  | .topkr _ d _ b => [(d, bits (u b) 21 16)]
  | .tex _ _ d _ _ _ | .texg _ _ _ d _ _ _ => [(d, 4)]
  | .texqLod _ _ d _ _ | .texqDims _ d _ _ => [(d, 2)]
  | .attr _ n _ d _ _ => [(d, n)]
  | .csrr _ w d _ | .csrx _ _ w d _ _ => [(d, CsrWidth.nregs w)]
  | _ => []

/-- What a word reads (R144, R149). An MLOOP adds to its tile and reads the slots of its sequence; a block-scaled one writes the partial
slots (R281, R285). -/
def Issue.reads (i : Issue) (w : Instr) : Uses :=
  let u (o : Operand) : Word := Issue.uni i.part.mask (i.srcN o)
  let tile (n : Nat) : Word := if n < 16 then BitVec.twoPow 32 n else 0
  let regs := regsOf (i.sources w)
  match w with
  | .mread _ _ a => { regs, tiles := tile (stageDesc (u a)).n }
  | .mdrain _ _ _ _ _ _ b _ => { regs, tiles := tile (bits (u b) 3 0) }
  | .topk _ a _ _ | .msca _ a _ _ => { regs, tiles := tile (u a).toNat }
  | .mloop _ ta tb sc nt a b c =>
      let l := loopOf i ta tb sc nt (u a) (u b) (u c) 0
      { regs, tiles := if sc then 0 else tile l.tile, slots := l.slots }
  | _ => { regs }

/-- What a word writes (R149). -/
def Issue.writes (i : Issue) (w : Instr) : Uses :=
  let u (o : Operand) : Word := Issue.uni i.part.mask (i.srcN o)
  let tile (n : Nat) : Word := if n < 16 then BitVec.twoPow 32 n else 0
  let regs := regsOf (i.dests w)
  match w with
  | .mzero _ b => { regs, tiles := u b }
  | .msca _ a _ _ => { regs, tiles := tile (u a).toNat }
  | .mstage _ _ b => { regs, slots := [(stageDesc (u b)).n] }
  | .mloop _ _ _ sc _ a _ _ => { regs, tiles := if sc then 0 else tile (bits (u a) 3 0), parts := sc }
  | _ => { regs }

/-- Two sets of uses in one. -/
def Uses.and (a b : Uses) : Uses :=
  { regs := a.regs ++ b.regs, tiles := a.tiles ||| b.tiles, slots := a.slots ++ b.slots, parts := a.parts || b.parts }

/-- A register written by an outstanding load, atomic or texture read (R149). -/
def Pending.writes (p : Pending) (k : Nat) : Bool := (Operand.regs p.dst p.words).contains k

/-- A use waits for a load, an atomic, or a walk request to the group's registers or to its operand slots (R149, R245). -/
def State.waitsMemory (s : State) (key : Nat) (g : Group) (u : Uses) : Bool :=
  let rs := (s.core (keyCore key)).requests
  (g.outstanding.any fun p => u.regs.any fun k => p.writes k) || (rs.any fun r => u.regs.any fun k => r.fills g k k) ||
    rs.any fun r => r.team == g.team && r.gidx == g.gidx && r.fillsSlots u.slots

/-- A use waits for a loop that the group owns (R149, R283, R297). -/
def State.waitsLoop (s : State) (key : Nat) (g : Group) (u : Uses) : Bool :=
  (s.core (keyCore key)).loops.any fun l =>
    l.team == g.team && l.gidx == g.gidx && (if l.sc then u.parts else u.tiles.getLsbD l.tile)

/-- The scoreboard holds a use: something that it names has an outstanding write of an earlier word of the group (R149). Predicates and
FFLAGS never have one here, since the words that write them complete as they issue (log 10). -/
def State.heldBy (s : State) (key : Nat) (g : Group) (u : Uses) : Bool := s.waitsMemory key g u || s.waitsLoop key g u

end Sys2Proof.Machine
end

