-- ==== Sys2Proof/Machine/Issue.lean ====
section
/-! DEFINITION. Fetching, candidates, runs, series-string balance, the scoreboard, and register spilling
(R111, R119 to R126, R142, R144 to R151, R158 to R161). -/

namespace Sys2Proof.Machine

/-! ## Fetch (R119 to R123) -/

/-- Base of the fetch block that holds an address (R119). -/
def blockBase (pc : DWord) : Nat := pc.toNat / 64 * 64

/-- The word at `pc` of a block held for the team (R123). -/
def Team.heldWord (t : Team) (pc : DWord) : Option DWord :=
  (t.blocks.find? fun b => b.1 == blockBase pc).map fun b => dwordAt b.2 (pc.toNat % 64 / 8)

/-- A fetch of the block that holds `pc`: the state with the block held, or the cause's LEVEL (R122, R123). -/
def State.fetchBlock (s : State) (key : Nat) (g : Group) (t : Team) (pc : DWord) : Except Nat State :=
  let base := blockBase pc
  match s.engineLoc (some (keyCore key)) t.ctx { x := true, sup := g.mode = .supervisor } base 64 with
  | .error (_, level) => .error level
  | .ok loc =>
    let ws := (List.range 8).map fun k => (BitVec.ofNat 64 (s.readLocNat (loc.plus (8 * k)) 8) : DWord)
    .ok ((s.fillTlb (some (keyCore key)) t.ctx base).modTeam g.team fun t => { t with blocks := t.blocks ++ [(base, ws)] })

/-- Word `n` of a block held for a team fetched again: each word of a block is seen in its old or its new form independently (R123). -/
def State.fetchAgain (s : State) (team base n : Nat) : State :=
  match s.team? team with
  | none => s
  | some t =>
    match s.engineLoc (t.quarters.head?.map Quarter.core) t.ctx { x := true, sup := true } base 64 with
    | .error _ => s
    | .ok loc =>
      let w : DWord := BitVec.ofNat 64 (s.readLocNat (loc.plus (8 * n)) 8)
      s.setTeam team { t with blocks := t.blocks.map fun b => if b.1 = base && n < 8 then (b.1, b.2.set n w) else b }

/-- The fetch fault of a word that cannot be fetched (R122, R395). Sequential fetch stops at address 2^49. -/
def fetchTrap (p : Part) (level : Nat) : Trap :=
  { code := 0x18, addr := p.pc, info := BitVec.ofNat 32 (level * 64 + 3), exmask := p.mask, tepc := p.pc }

/-- FETCH_FAULT (R122): the issuing slot's next word is held by no block and its fetch fails. -/
def execFetchFault (s : State) : Host.Outcome State Fault Refusal :=
  onEvent s (match s.issuing with
    | none => none
    | some i =>
      if (i.team.heldWord i.pc).isSome then none
      else
        match s.fetchBlock i.key i.grp i.team i.pc with
        | .ok _ => none
        | .error level => some (s.takeTrap s i.key i.b (fetchTrap i.part level)))

/-! ## Candidates (R144) -/

/-- The team of a group has started and still runs (R20, R418). -/
def Team.started (t : Team) : Bool :=
  match t.phase with
  | .running | .draining _ _ => true
  | _ => false

/-- A team chosen for retake or save: it leaves its cores (R419, R420). -/
def Team.leaving (t : Team) : Bool :=
  match t.phase with
  | .retaking | .saving _ _ _ => true
  | _ => false

/-- A team chosen for retake, save or migration, whose groups stop at their next run boundary (R118, R419, R420). -/
def Team.stopping (t : Team) : Bool := t.moving || t.leaving

/-- The run in progress is that of a slot (R145). -/
def State.runs (s : State) (key : Nat) (b : Bool) (g : Group) : Bool :=
  match (s.core (keyCore key)).quads.getD g.quad none with
  | some r => r.key == key && r.slotB == b
  | none => false

/-- A slot of the group has issued an access to a demand window whose copy runs, which suspends the group (R253). -/
def Group.atWindow (g : Group) : Bool := [g.slotA, g.slotB].any fun p => p.any fun x => x.wait == some .window

/-- A candidate: a live PC slot that is not parked, of a team that has started (R144) and of a group that is not suspended at a demand window
(R253) and for which no held trap is due (R399);
of a team that is being stopped, only the slot whose run is in progress (R419, R420). -/
def State.candidate (s : State) (key : Nat) (b : Bool) : Option (Group × Part × Team) :=
  match s.group? key with
  | none => none
  | some g =>
    match g.slot b, s.team? g.team with
    | some p, some t =>
      if (t.started || t.leaving) && (!t.stopping || s.runs key b g) && p.park.isNone && p.wait.isNone && g.entering.isNone &&
          !g.trapDue && !g.atWindow then some (g, p, t)
      else none
    | _, _ => none

/-- The scoreboard holds a word of a slot back: something that it reads or writes has an outstanding write (R149). -/
def State.scoreboard (s : State) (key : Nat) (b : Bool) (g : Group) (p : Part) (t : Team) (w : Instr) : Bool :=
  let i : Issue := { key, b, grp := g, part := p, team := t }
  s.heldBy key g ((i.reads w).and (i.writes w))

/-- The word at a slot's PC, as held and decoded. -/
def Team.wordAt (t : Team) (p : Part) : Option (DWord × Except DecodeError Instr) :=
  (t.heldWord p.pc).map fun w => (w, decode w)

/-- A candidate is ready (R144): its word is held, nothing that the word reads has an outstanding write, and its group waits for no
translation check. -/
def State.ready (s : State) (key : Nat) (b : Bool) : Bool :=
  match s.candidate key b with
  | none => false
  | some (g, p, t) =>
    match t.wordAt p with
    | none => false
    | some (_, .ok w) => !g.suspended && !s.heldBy key g (({ key, b, grp := g, part := p, team := t } : Issue).reads w)
    | some (_, .error _) => !g.suspended

/-- Class of the run a candidate would begin: that of the run it continues, or the C of its next word (R126, R147). The C of a first word that
then fails its checks has counted for admission and balance: the model's choice between R126 and R142 (log 87). -/
def State.runClass (s : State) (key : Nat) (b : Bool) : Nat :=
  match s.candidate key b with
  | none => 0
  | some (_, p, t) =>
    match p.cont with
    | some (c, _) => c
    | none =>
      match t.heldWord p.pc with
      | some w => (Header.ofNat w.toNat).cls
      | none => 0

/-- The candidates of a quadrant in the order of ties: lower position first, then slot A (R145). -/
def State.quadSlots (s : State) (core quad : Nat) : List (Nat × Bool) :=
  (s.groups.filter fun p : Nat × Group => keyCore p.1 = core && p.2.quad = quad).flatMap fun p => [(p.1, false), (p.1, true)]

/-! ## Balance (R158 to R160) -/

/-- A core's load times 256 (R158). -/
def Core.loadSum (c : Core) : Nat := (c.load.take 64).sum

/-- Admissibility of class `c` on a core: c ≤ m + L with m the least load of the string's other cores (R158). -/
def State.admissible (s : State) (core c : Nat) : Bool :=
  let others := ((strandCores (strandOf core)).filter (· ≠ core)).map fun k => (s.core k).loadSum
  let m := others.foldl min (3 * 256)
  c * 256 ≤ m + (s.strand (strandOf core)).strlim * 64

/-- A candidate has become due (R148). -/
def Cand.isDue (c : Cand) : Bool := c.due || 64 ≤ c.passed || 64 ≤ c.balance

/-- The scheduler's record of a slot. -/
def State.candOf (s : State) (key : Nat) (b : Bool) : Cand :=
  match s.group? key with
  | some g => g.cand b
  | none => {}

/-- A slot is held by balance in the present front cycle: it is a ready candidate with no run in progress, one that has not issued a word in
it, and not admissible (R158). -/
def State.heldByBalance (s : State) (key : Nat) (b : Bool) : Bool :=
  s.ready key b && (s.candOf key b).since ≤ (s.core (keyCore key)).cycle && !s.admissible (keyCore key) (s.runClass key b) &&
    !(s.group? key).any (s.runs key b)

/-- Class of the filler word of an idle quadrant (R159). -/
def State.fillerClass (s : State) (core : Nat) : Nat :=
  let n := strandOf core
  let loads := sortBy id ((strandCores n).map fun k => (s.core k).loadSum)
  let median2 := loads.getD 1 0 + loads.getD 2 0
  let h := (((s.groups.filter fun p : Nat × Group => strandOf (keyCore p.1) = n).flatMap fun p =>
    [false, true].map fun b => if s.heldByBalance p.1 b then s.runClass p.1 b else 0)).foldl max 0
  let f := min 3 (max (median2 / 512) (ceilDiv (4 * h - (s.strand n).strlim) 4))
  if f = 3 && !(s.core core).loops.isEmpty then 2 else f

/-- The candidate a quadrant picks: the due one that has waited longest, else the admissible one (R145). -/
def State.pick (s : State) (core quad : Nat) : Option (Nat × Bool) :=
  let rs := (s.quadSlots core quad).filter fun (k, b) => s.ready k b
  let since (p : Nat × Bool) : Nat := (s.candOf p.1 p.2).since
  match argMin since (rs.filter fun p => (s.candOf p.1 p.2).isDue) with
  | some p => some p
  | none => argMin since (rs.filter fun p => s.admissible core (s.runClass p.1 p.2))

/-- A quadrant issues a filler word in a front cycle: it has issued no word, has no run in progress and no due or admissible ready
candidate (R159). -/
def State.fills (s : State) (core quad : Nat) : Bool :=
  ((s.core core).served.getD quad none).isNone && ((s.core core).quads.getD quad none).isNone && (s.pick core quad).isNone

/-- Filler budget of a core over 4,096 front cycles: FILLBUD/64 x 16,384 (R160). -/
def State.fillBudget (s : State) (core : Nat) : Nat := (s.strand (strandOf core)).fillbud * 256

/-- Half lane cycles of a front cycle at a ratio (R150). -/
def laneHalves (ratio : Nat) : Nat := if ratio = 0 then 1 else if ratio = 1 then 2 else 4

/-- The end of a front cycle of a core (R150, R158 to R160): the classes of the words that its quadrants issued, and of their filler
words, enter its load. The second part says that a filler word was withheld. -/
def State.coreCycle (s : State) (core : Nat) : Core × Bool :=
  let c := s.core core
  let f := s.fillerClass core
  let want := if f = 0 then 0 else (List.range 4).countP fun q => s.fills core q
  let room := s.fillBudget core - (c.fillers.take 4095).sum
  let n := min want room
  let issued := (c.served.map fun x => x.getD 0).sum
  let halves := c.lfrac + laneHalves c.ratio
  let x := s.strand (strandOf core)
  let edges := if x.throttled || x.heat then 1 else 0
  ({ c with cycle := c.cycle + 1, lcycle := c.lcycle + halves / 2, lfrac := halves % 2, served := [none, none, none, none], permitPos := 0,
            load := (issued + n * f) :: c.load.take 63, fillers := n :: c.fillers.take 4095,
            fillcnt := c.fillcnt + BitVec.ofNat 64 n, throtcnt := c.throtcnt + BitVec.ofNat 64 edges }, n < want)

/-- A slot's count of front cycles held by balance (R148). -/
def State.countBalance (s : State) (key : Nat) (b : Bool) (c : Cand) : Cand :=
  { c with balance := if s.heldByBalance key b then c.balance + 1 else 0 }

/-- The end of a front cycle of a string: its four cores count it (R150, R158, R160). A throttled string suppresses every second edge: one
is counted with each front cycle. -/
def State.frontCycle (s : State) (n : Nat) : State :=
  let rs := (strandCores n).map fun k => (k, s.coreCycle k)
  let held := s.groups.map fun (p : Nat × Group) =>
    if strandOf (keyCore p.1) = n then
      (p.1, { p.2 with candA := s.countBalance p.1 false p.2.candA, candB := s.countBalance p.1 true p.2.candB })
    else p
  let withheld := rs.any fun r => r.2.2
  let s := rs.foldl (fun s r => s.setCore r.1 r.2.1) { s with groups := held }
  s.modStrand n fun x =>
    let x := { x with phase := x.phase - 6000 }
    if withheld || x.forced || margZero x.strimb then { x with throttled := true, quiet := 0, forced := false } else { x with quiet := x.quiet + 1 }

/-! ## Runs (R145 to R148) -/

/-- CANDIDATE_DUE (R148): the candidate is marked. -/
def State.candidateDue (s : State) (key : Nat) (b : Bool) : Option State :=
  match s.group? key with
  | none => none
  | some g =>
    if s.ready key b && (g.cand b).isDue && !(g.cand b).due then some (s.setGroup key (g.setCand b { g.cand b with due := true }))
    else none

/-- CANDIDATE_DUE (R148). -/
def execCandidateDue (key : Nat) (slotB : Bool) (s : State) : Host.Outcome State Fault Refusal :=
  onEvent s (s.candidateDue key slotB)

/-- RUN_SELECT (R145 to R148): the run begins, in a front cycle in which its first word can still issue; the others of the quadrant count it. A due candidate admitted beyond m + L throttles the
string (R160). -/
def State.runSelect (s : State) (core quad : Nat) : Option State :=
  if ((s.core core).quads.getD quad (some ⟨0, false, 0, 0, 0, 0⟩)).isSome || ((s.core core).served.getD quad none).isSome then none
  else
    match s.pick core quad with
    | none => none
    | some (key, b) =>
      match s.group? key with
      | none => none
      | some g =>
        let cls := s.runClass key b
        let start := match (g.slot b).bind Part.cont with
          | some (_, n) => n
          | none => 0
        let forced := !s.admissible core cls
        let others := (s.quadSlots core quad).filter fun p => p ≠ (key, b) && s.ready p.1 p.2
        let s := others.foldl (fun s p => s.modGroup p.1 fun g => g.setCand p.2 { g.cand p.2 with passed := (g.cand p.2).passed + 1 }) s
        let s := s.modGroup key fun g =>
          (g.setCand b { since := (s.core core).cycle }).setSlot b ((g.slot b).map fun p => { p with cont := none })
        let s := if forced then s.modStrand (strandOf core) fun x => { x with throttled := true, forced := true } else s
        some (s.modCore core fun c => { c with quads := c.quads.set quad (some { key, slotB := b, cls, issued := start }) })

/-- RUN_SELECT (R145). -/
def execRunSelect (core quad : Nat) (s : State) : Host.Outcome State Fault Refusal := onEvent s (s.runSelect core quad)

/-- A run ends with words left: they form a continuation (R147). -/
def State.breakRun (s : State) (core quad : Nat) (r : Run) : State :=
  let s := s.modCore core fun c => { c with quads := c.quads.set quad none }
  s.modGroup r.key fun g =>
    (g.setCand r.slotB { since := (s.core core).cycle }).setSlot r.slotB ((g.slot r.slotB).map fun p => { p with cont := some (r.cls, r.issued) })

/-- The scoreboard holds the next word of a run in progress (R146). -/
def State.runHeld (s : State) (r : Run) : Bool :=
  match s.candidate r.key r.slotB with
  | none => false
  | some (g, p, t) =>
    match t.wordAt p with
    | some (_, .ok w) => s.scoreboard r.key r.slotB g p t w
    | _ => false

/-- STALL_BREAK (R146): the next word has been held for 8 front cycles and is held in a 9th. -/
def State.stallBreak (s : State) (core quad : Nat) : Option State :=
  match (s.core core).quads.getD quad none with
  | none => none
  | some r => if 8 ≤ r.held && s.runHeld r then some (s.breakRun core quad r) else none

/-- STALL_BREAK (R146). -/
def execStallBreak (core quad : Nat) (s : State) : Host.Outcome State Fault Refusal := onEvent s (s.stallBreak core quad)

/-! ## Outstanding values (R149, R233, R421) -/

/-- The oldest outstanding write of a kind performed and taken off the scoreboard. -/
def Group.arrive (g : Group) (atomic : Bool) : Option Group :=
  match g.outstanding.findIdx? fun p => p.atomic == atomic with
  | none => none
  | some k =>
    match g.outstanding[k]? with
    | none => none
    | some p =>
      some ({ g with outstanding := g.outstanding.eraseIdx k }.receive p)

/-- The oldest outstanding atomic of a group has performed: its units that were still to perform have (R421). -/
def State.performReply (s : State) (key : Nat) : State :=
  match (s.group? key).bind fun g => g.outstanding.find? Pending.atomic with
  | some p => s.performLate key fun o => o.reply = some p.dst
  | none => s

/-- LOAD_DATA_ARRIVAL (R149). -/
def execLoadDataArrival (key : Nat) (s : State) : Host.Outcome State Fault Refusal :=
  onEvent s (match s.group? key with
    | none => none
    | some g => (g.arrive false).map fun g => s.setGroup key g)

/-- TRANSLATION_COMPLETE (R233): the checks of the group's may-fault word have passed, and issue resumes. -/
def execTranslationComplete (key : Nat) (s : State) : Host.Outcome State Fault Refusal :=
  onEvent s (match s.group? key with
    | none => none
    | some g => if g.suspended then some (s.setGroup key { g with suspended := false }) else none)

/-! ## Spilled registers (R111) -/

/-- REGISTER_REFILL (R111): register `reg` of a group is spilled and is bound to physical storage again. -/
def execRegisterRefill (key reg : Nat) (s : State) : Host.Outcome State Fault Refusal :=
  onEvent s (match s.group? key with
    | none => none
    | some g =>
      match tabGet? g.vregs reg with
      | none => none
      | some r =>
        if r.spill = .none then none
        else some (s.setGroup key { g with vregs := tabSet g.vregs reg { r with spill := .none, used := 0 } }))

/-- Registers of a quadrant in physical storage: group key, register, stamp. -/
def State.physical (s : State) (core quad : Nat) : List (Nat × Nat × Nat) :=
  (s.groups.filter fun p : Nat × Group => keyCore p.1 = core && p.2.quad = quad).flatMap fun p =>
    (p.2.vregs.filter fun r => r.2.spill = .none).map fun r => (p.1, r.1, r.2.used)

/-- Registers spilled to way `w` of a core's reserve. -/
def State.wayLoad (s : State) (core w : Nat) : Nat :=
  ((s.groups.filter fun p : Nat × Group => keyCore p.1 = core).map fun p =>
    p.2.vregs.countP fun r => r.2.spill = .reserve w).sum

/-- Where a register spilled now goes: the first reserve way with space, else memory (R111). -/
def State.spillPlace (s : State) (core : Nat) : Spill :=
  let c := s.core core
  match ((List.range c.spillWays).map (· + c.scratchWays)).find? fun w => s.wayLoad core w < 256 with
  | some w => .reserve w
  | none => .memory

/-- Physical address of a group position's spill area (R111). -/
def State.spillArea (s : State) (key : Nat) : Nat := s.csr.spillbase.toNat + key * 32768

/-- A register put in a spill place; memory takes its 128 bytes at the offset of its register window (R111, R116). -/
def State.spillTo (s : State) (key n : Nat) (place : Spill) : State :=
  match s.group? key with
  | none => s
  | some g =>
    match tabGet? g.vregs n with
    | none => s
    | some r =>
      let s := s.setGroup key { g with vregs := tabSet g.vregs n { r with spill := place } }
      if place = .memory then
        s.homeWrite (.dram (s.spillArea key + 128 * n)) (r.lanes.flatMap fun w => toBytes 4 w.toNat)
      else s

/-- The least recently used registers of a quadrant spilled, as many as it holds beyond 2,048 (R111). -/
def State.spillOver (s : State) (core quad : Nat) : State :=
  let ps := sortBy (fun p : Nat × Nat × Nat => p.2.2) (s.physical core quad)
  (ps.take (ps.length - 2048)).foldl (fun s p => s.spillTo p.1 p.2.1 (s.spillPlace core)) s

/-- Registers that a step has bound, written or refilled take its stamp (R111). -/
def Group.stamp (g : Group) (now : Nat) : Group :=
  if g.vregs.any fun r => r.2.used = 0 then
    { g with vregs := g.vregs.map fun r : Nat × VReg => if r.2.used = 0 then (r.1, { r.2 with used := now }) else r }
  else g

/-- What every step ends with for physical registers: stamps, and the spilling of quadrants that hold too many (R111). -/
def State.spillAll (s : State) : State :=
  let s := { s with groups := s.groups.map (fun p : Nat × Group => (p.1, p.2.stamp (s.fresh + 1))), fresh := s.fresh + 1 }
  (s.groups.map fun p : Nat × Group => (keyCore p.1, p.2.quad)).eraseDups.foldl (fun s p => s.spillOver p.1 p.2) s

/-! ## One word (R142, R146) -/

/-- The instruction ends its run even where its slot goes on at the next word: a transfer that some lane takes, EXIT, SLEEP, WAITANY and
YIELD, and a JOIN that parks, be it for a moment (R146). -/
def Instr.endsRun (i : Instr) (X : Word) (depth : Nat) : Bool :=
  match i with
  | .bra _ _ | .brx _ _ | .call _ _ _ | .callx _ _ _ | .ret _ _ => X ≠ 0
  | .exit _ | .sleep _ _ | .tret | .waitany _ | .yield => true
  | .join => depth ≠ 0
  | _ => false

/-- The guard of a transfer. -/
def Instr.guardOf (i : Instr) : Guard :=
  match i with
  | .bra g _ | .brx g _ | .call g _ _ | .callx g _ _ | .ret g _ => g
  | _ => Guard.always

/-- A word that fails checks 2 to 6 of R142: the trap at the word, for the part's active lanes (log 15). -/
def decodeTrap (e : DecodeError) (p : Part) : Trap :=
  { code := match e with
      | .illegalInstruction => 0x01
      | .illegalPair => 0x02
    exmask := p.mask, tepc := p.pc }

/-- UNASSIGNED_OPCODE (R141): a full word whose OP is unassigned raises the illegal-instruction trap. -/
def execUnassignedOpcode (_w : DWord) (s : State) : Host.Outcome State Fault Refusal :=
  onIssue s fun i => .trap (decodeTrap .illegalInstruction i.part) s

/-- A group whose registers in `rs` are used by the word under way: they are stamped when the step ends (R111). -/
def Group.use (g : Group) (rs : List Nat) : Group :=
  { g with vregs := g.vregs.map fun r : Nat × VReg => if rs.contains r.1 then (r.1, { r.2 with used := 0 }) else r }

/-- A spilled register that a word reads and that must be refilled first (R111). -/
def Issue.refillFirst (i : Issue) (w : Instr) : Option Nat :=
  let rs := (i.reads w).regs
  (i.grp.vregs.find? fun r => r.2.spill != .none && rs.contains r.1).map Prod.fst

/-- The run of a slot is over: its next word begins a new one, and waits from the next front cycle (R146, R147). -/
def State.endRun (s : State) (key quad : Nat) (b : Bool) : State :=
  let core := keyCore key
  let mine (q : Option Run) : Bool := q.any fun r => r.key = key && r.slotB = b
  let s := s.modCore core fun c => if mine (c.quads.getD quad none) then { c with quads := c.quads.set quad none } else c
  s.modGroup key fun g => g.setCand b { since := (s.core core).cycle + 1 }

/-- A quadrant has had its turn in the present front cycle, with a word of class `cls` (R145, R158). -/
def State.serve (s : State) (core quad cls : Nat) : State := s.modCore core fun c => { c with served := c.served.set quad (some cls) }

/-- A word was performed: the registers that it read count as used, and the image slot of a restored team is free (R111, R424). -/
def State.performed (s' : State) (i : Issue) (w : Instr) : State :=
  let s' := s'.modGroup i.key fun g => g.use (i.reads w).regs
  { s' with images := s'.images.filter fun m => m.team ≠ i.grp.team }

/-- Order of the modes: a trap is taken in a higher one (R396). -/
def Mode.rank : Mode → Nat
  | .normal => 0
  | .user => 1
  | .supervisor => 2

/-- The word took a trap, or found no permit for one (R142, R404). TRET alone lowers the mode. -/
def State.wordTrapped (s' : State) (i : Issue) (w : Instr) : Bool :=
  match s'.group? i.key with
  | none => true
  | some g' => (g'.mode != i.grp.mode && (w != .tret || i.grp.mode.rank < g'.mode.rank)) || g'.entering.isSome || (match g'.slot i.b with
      | some q => (match q.wait with | some (.permit _) => true | _ => false)
      | none => false)

/-- What follows a word that has issued: ISSUED, the freeing of a restored team's image slot, the uses of registers, the end of its run and
its quadrant's turn (R111, R146, R416, R424). `s` is the state before the word, `s'` after it; a word that trapped has not issued, and
its run ended with the word before it. -/
def State.afterWord (s s' : State) (i : Issue) (raw : DWord) (w : Instr) : State :=
  let core := i.core
  let quad := i.grp.quad
  if s'.wordTrapped i w then (s'.endRun i.key quad i.b).serve core quad 0
  else
    let X := i.lanes (Instr.guardOf w)
    let goesOn : Bool := match s'.group? i.key with
      | none => false
      | some g' => g'.mode == i.grp.mode && (match g'.slot i.b with
          | some q => q.pc == i.part.pc + 8 && q.wait.isNone && q.park.isNone
          | none => false)
    let (cls, n) := match (s.core core).quads.getD quad none with
      | some r => (r.cls, r.issued + 1)
      | none => ((Header.ofNat raw.toNat).cls, 1)
    let s' := (s'.modTeam i.grp.team fun t => { t with issued := t.issued + 1 }).performed i w
    let s' :=
      if (Header.ofNat raw.toNat).last || 24 ≤ n || !goesOn || Instr.endsRun w X i.part.depth then s'.endRun i.key quad i.b
      else s'.modCore core fun c => { c with quads := c.quads.set quad (some { key := i.key, slotB := i.b, cls, issued := n }) }
    s'.serve core quad cls

end Sys2Proof.Machine
end

