-- ==== Sys2Proof/Machine/Regroup.lean ====
section
/-! DEFINITION. REGROUP: its checks, partners, pairing and the ends of its wait (R195 to R198, R391). -/

namespace Sys2Proof.Machine

/-! ## Waiting at a REGROUP -/

/-- What a group parked at a REGROUP waits for, with its slot and part. -/
structure RegWait where
  b : Bool
  part : Part
  buddy : Bool
  dst : Operand
  vF : Operand
  vL : Operand
  since : Nat

/-- The REGROUP wait of one slot. -/
def Group.regWaitAt (g : Group) (b : Bool) : Option RegWait :=
  match g.slot b with
  | some part =>
    match part.wait with
    | some (.regroup buddy dst vF vL since) => some { b, part, buddy, dst, vF, vL, since }
    | _ => none
  | none => none

/-- The REGROUP wait of a group. -/
def Group.regWait (g : Group) : Option RegWait := (g.regWaitAt false).or (g.regWaitAt true)

/-- A group leaves its REGROUP unpaired: d := 1 in its active lanes, and it goes on (R196, R197). -/
def Group.unpaired (g : Group) (w : RegWait) : Group := (g.put32 w.dst w.part.mask fun _ => 1).advance w.b

/-- Register numbers of a live range, first and last (R195). -/
def rangeOf (vF vL : Operand) : Option (Nat × Nat) :=
  match vF, vL with
  | .v a, .v b => some (a, b)
  | _, _ => none

/-- Registers in a live range. -/
def rangeSize (vF vL : Operand) : Nat :=
  match rangeOf vF vL with
  | some (a, b) => b + 1 - a
  | none => 0

/-! ## Buddies (R197) -/

/-- Group index of a group's buddy in its team: the same role, rgroup XOR 1. -/
def buddyIdx (t : Team) (g : Group) : Option Nat :=
  let r := g.rgroup ^^^ 1
  if r < cardGroups t.card g.role then some (roleBase t.card g.role + r) else none

/-- The buddy of a group with its key, when it is live and resides on the same core (R197). -/
def State.buddy (s : State) (key : Nat) (g : Group) : Option (Nat × Group) :=
  match s.team? g.team with
  | none => none
  | some t =>
    match buddyIdx t g with
    | none => none
    | some x =>
      if !t.live x then none
      else
        match s.groupKey g.team x with
        | none => none
        | some k => if keyCore k = keyCore key then (s.group? k).map fun h => (k, h) else none

/-- A REGROUP wait is over without a partner: a `.buddy` wait whose partner does not exist (any more), an `.any` wait of 256 front cycles
(R197). -/
def State.waitOver (s : State) (key : Nat) (g : Group) (w : RegWait) : Bool :=
  if w.buddy then (s.buddy key g).isNone else w.since + 256 ≤ (s.core (keyCore key)).cycle

/-- The register-budget trap of the write of d with which a group leaves its REGROUP unpaired (R110). -/
def State.unpairTrap (s : State) (key : Nat) (g : Group) (w : RegWait) : Option Trap :=
  match s.team? g.team with
  | some team => ({ key, b := w.b, grp := g, part := w.part, team } : Issue).budget w.part.mask [w.dst]
  | none => none

/-- A waiting group leaves its REGROUP unpaired, or traps where d does not fit its budget (R110, R197); a trap waits for the next front cycle when a
group at a higher position has taken a permit in this one (R447). -/
def State.unpair (s : State) (key : Nat) (g : Group) (w : RegWait) : State :=
  match s.unpairTrap key g w with
  | none => s.setGroup key (g.unpaired w)
  | some t =>
    if s.permitAllows key then (s.setGroup key (g.setSlot w.b (some { w.part with wait := none }))).takeTrap s key w.b t else s

/-- A group whose REGROUP wait is over goes on unpaired (R197). -/
def State.endRegWait (s : State) (key : Nat) : State :=
  match s.group? key with
  | none => s
  | some g =>
    match g.regWait with
    | none => s
    | some w => if s.waitOver key g w then s.unpair key g w else s

/-- Every such group. -/
def State.endRegWaits (s : State) : State := s.groups.foldl (fun s p => s.endRegWait p.1) s

/-! ## Pairing (R198) -/

/-- New lane `n` of a pair takes this lane: of the survivor (false) or of the donor (true). -/
def pairLane (ms md : Word) (n : Nat) : Option (Bool × Nat) :=
  let ls := lanesOf ms
  let ld := lanesOf md
  if n < ls.length then (ls[n]?).map fun l => (false, l) else (ld[n - ls.length]?).map fun l => (true, l)

/-- A per-lane value after the pairing; `dflt` is what a lane beyond both has. -/
def pairValue {α : Type} (ms md : Word) (vs vd dflt : Nat → α) (n : Nat) : α :=
  match pairLane ms md n with
  | some (false, l) => vs l
  | some (true, l) => vd l
  | none => dflt n

/-- The survivor after a pairing: lanes, predicates and lane origins remapped, the range bound, every other register unbound, and the
donor's cancelled slots and discarded tokens counted (R198, R391). Predicates, lane origins and lane roles beyond the new lanes keep
their values (log 16). -/
def Group.pairWith (S D : Group) (ms md : Word) (vF vL : Operand) : Group :=
  let v (f : Group → Nat → Bool) (n : Nat) : Bool := pairValue ms md (f S) (f D) (f S) n
  let regs : Tab VReg :=
    match rangeOf vF vL with
    | none => []
    | some (a, b) => (List.range (b + 1 - a)).map fun k =>
        (a + k, { lanes := laneList.map fun n => pairValue ms md (S.v (a + k)) (D.v (a + k)) (fun _ => 0) n })
  let slots := min 0xFFFF (bits S.evcxl 15 0 + D.events.countP EvSlot.armed)
  let tokens := min 0xFFFF (bits S.evcxl 31 16 + D.mailbox.length)
  { S with vregs := regs,
           preds := (List.range 7).map fun k => maskOf fun n => v (fun g l => (g.pred (k + 1)).getLsbD l) n,
           lorigin := laneList.map fun n => pairValue ms md (fun l => S.lorigin.getD l 0) (fun l => D.lorigin.getD l 0)
             (fun l => S.lorigin.getD l 0) n,
           helper := maskOf fun n => v (fun g l => g.helper.getLsbD l) n,
           vacant := maskOf fun n => v (fun g l => g.vacant.getLsbD l) n,
           evcxl := BitVec.ofNat 32 (tokens * 2 ^ 16 + slots) }

/-- Two groups, both at a REGROUP, pair: the lower group index survives, the other exits (R198). -/
def State.pair (s : State) (k1 : Nat) (g1 : Group) (w1 : RegWait) (k2 : Nat) (g2 : Group) (w2 : RegWait) : State :=
  let (ks, S, ws, kd, D, wd) := if g1.gidx < g2.gidx then (k1, g1, w1, k2, g2, w2) else (k2, g2, w2, k1, g1, w1)
  let n := popCount ws.part.mask + popCount wd.part.mask
  let lanes := maskOf fun l => l < n
  let S := S.pairWith D ws.part.mask wd.part.mask ws.vF ws.vL
  let S := (S.put32 ws.dst lanes fun _ => 0).setSlot ws.b (some { ws.part with mask := lanes })
  (s.setGroup ks (S.advance ws.b)).exitGroup kd

/-- The pairing of `S` would bind more registers than its role has: those of the range, and `d` when it lies outside (R110, R198). -/
def Team.pairOver (t : Team) (S : Group) (w : RegWait) : Bool :=
  let d := match w.dst, rangeOf w.vF w.vL with
    | .v n, some (a, b) => if a ≤ n && n ≤ b then 0 else 1
    | .v _, none => 1
    | _, _ => 0
  t.vregs S.role < rangeSize w.vF w.vL + d

/-- The register-budget trap of a pairing, at the survivor's REGROUP (R110; log 16). -/
def RegWait.budgetTrap (w : RegWait) (S : Group) : Trap :=
  { code := 0x0A, info := BitVec.ofNat 32 S.vregs.length, exmask := w.part.mask, tepc := w.part.pc }

/-- The issuing group has found a partner: the two pair. Where the survivor's budget does not allow it, the survivor traps with nothing
written, and the other waits on. -/
def State.meet (s : State) (i : Issue) (w : RegWait) (k : Nat) (h : Group) (y : RegWait) : Done :=
  if i.grp.gidx < h.gidx then
    if i.team.pairOver i.grp w then .trap (w.budgetTrap i.grp) s else .moved (s.pair i.key i.grp w k h y)
  else if i.team.pairOver h y then
    .park (.regroup w.buddy w.dst w.vF w.vL w.since)
      ((s.setGroup k (h.setSlot y.b (some { y.part with wait := none }))).takeTrap s k y.b (y.budgetTrap h))
  else .moved (s.pair i.key i.grp w k h y)

/-! ## REGROUP (R195 to R197) -/

/-- A walk request outstanding whose destination is the group's register window (R196, R245). -/
def State.windowRequest (s : State) (key : Nat) (g : Group) : Bool :=
  (s.core (keyCore key)).requests.any fun r =>
    r.team == g.team && r.window.isNone && recDkind r.record == 3 && recDst r.record % 64 == g.gidx

/-- The partner that an `.any` group pairs with: the one that has waited longest (R197). -/
def State.anyPartner (s : State) (i : Issue) (w : RegWait) : Option (Nat × Group × RegWait) :=
  let cs : List (Nat × Group × RegWait) := s.groups.filterMap fun p : Nat × Group =>
    match p.2.regWait with
    | some x =>
      if p.1 ≠ i.key && keyCore p.1 = i.core && p.2.team = i.grp.team && p.2.role = i.grp.role && !x.buddy && x.vF = w.vF &&
          x.vL = w.vL && popCount x.part.mask + popCount w.part.mask ≤ 32 then some (p.1, p.2, x)
      else none
    | none => none
  argMin (fun c => c.2.2.since) cs

/-- REGROUP (R195 to R198). -/
def execRegroup (buddy : Bool) (d vF vL : Operand) (s : State) : Host.Outcome State Fault Refusal :=
  onIssue s fun i =>
    let X := i.part.mask
    let w : RegWait := { b := i.b, part := i.part, buddy, dst := d, vF, vL, since := (s.core i.core).cycle }
    let alone (s : State) : Done := match i.budget X [d] with
      | some t => .trap t s
      | none => .moved (s.modGroup i.key fun g => g.unpaired w)
    let wait : Done := .park (.regroup buddy d vF vL w.since) s
    if i.grp.mode ≠ .normal || 1 < i.grp.partCount || i.team.vregs i.grp.role < rangeSize vF vL || s.windowRequest i.key i.grp then
      .trap (i.trap 0x03 X) s
    else
      if popCount X = 32 then alone s
      else if !i.grp.outstanding.isEmpty then .park .reissue s
      else if buddy then
        match s.buddy i.key i.grp with
        | none => alone s
        | some (k, h) =>
          match h.regWait with
          | none => wait
          | some y =>
            if !y.buddy || y.vF ≠ vF || y.vL ≠ vL then wait
            else if popCount X + popCount y.part.mask ≤ 32 then s.meet i w k h y
            else alone (s.unpair k h y)
      else
        match s.anyPartner i w with
        | some (k, h, y) => s.meet i w k h y
        | none => wait

/-- REGROUP_TIMEOUT (R197): an `.any` group unpaired after 256 front cycles goes on with d := 1. -/
def State.regroupTimeout (s : State) (key : Nat) : Option State :=
  match s.group? key with
  | none => none
  | some g =>
    match g.regWait with
    | none => none
    | some w => if !w.buddy && s.waitOver key g w then some (s.unpair key g w) else none

/-- REGROUP_TIMEOUT (R197). -/
def execRegroupTimeout (key : Nat) (s : State) : Host.Outcome State Fault Refusal := onEvent s (s.regroupTimeout key)

end Sys2Proof.Machine
end

