-- ==== Sys2Proof/Machine/Settle.lean ====
section
/-! DEFINITION. What becomes true without a word of its own after each step: event slots latch, waits end, held entries proceed, and
reports that waited for a permit are made (R144, R363, R369, R371, R374, R375, R381, R406, R411). -/

namespace Sys2Proof.Machine

/-! ## Monitors (R363, R375) -/

/-- A satisfied monitor serves its group: the event slot becomes pending, or the slot parked at that MWAIT goes on. A monitor whose
group is not resident, or is in a handler, stays until it is (R364). -/
def Group.takeHit (g : Group) (m : Monitor) : Option Group :=
  match m.hit with
  | none => none
  | some v =>
    match m.target with
    | .event n => some (g.pendSet n [lo32 v, hi32 v])
    | .slot b =>
      match g.slot b with
      | some p => if p.wait = some .monitor && p.pc = m.pc then some (g.setSlot b (some p.resume)) else none
      | none => none

/-- One monitor served, if it can be. -/
def State.serveMonitor (s : State) (m : Monitor) : State :=
  match s.groupKey m.team m.gidx with
  | none => s
  | some key =>
    match s.group? key with
    | none => s
    | some g =>
      match g.takeHit m with
      | some g' => { s.setGroup key g' with monitors := s.monitors.filter (· ≠ m) }
      | none => s

/-- Every satisfied monitor served. -/
def State.serveMonitors (s : State) : State := (s.monitors.filter fun m => m.hit.isSome).foldl State.serveMonitor s

/-! ## Event slots (R375) -/

/-- A group's slot latched when its condition holds; CNT, MON and MBX slots become pending elsewhere. -/
def State.latchSlot (s : State) (core : Nat) (t : Team) (g : Group) (n : Nat) : Group :=
  match s.slotCond core t (g.ev n) with
  | some d => g.pendSet n d
  | none => g

/-- Every slot of a group latched. -/
def State.latchGroup (s : State) (key : Nat) (g : Group) : Group :=
  match s.team? g.team with
  | none => g
  | some t => (List.range 16).foldl (fun g n => s.latchSlot (keyCore key) t g n) g

/-! ## Waits (R144) -/

/-- A parked slot whose condition has come: at a barrier, a route tag or a SLEEP it goes on at the next word; a WAITANY, which has issued,
performs (R204, R369, R371, R381). -/
def State.endWait (s : State) (core : Nat) (t : Team) (g : Group) (p : Part) : Part :=
  match p.wait with
  | some (.bar off token) | some (.barSync off token) =>
    match t.quarterOn core with
    | some q => if s.barPhase q off.toNat ≠ bits token 15 0 then p.resume else p
    | none => p
  | some (.tbar tag token) | some (.tbarSync tag token) =>
    match t.tags[tag]? with
    | some x => if x.phase ≠ token.toNat then p.resume else p
    | none => p
  | some (.sleep t) => if t ≤ s.time.toNat then p.resume else p
  | some (.waitany M) => if g.pnd &&& g.evmask &&& M ≠ 0 then { p with wait := some .reissue } else p
  | _ => p

/-- Both slots of a group. -/
def State.endWaits (s : State) (key : Nat) (g : Group) : Group :=
  match s.team? g.team with
  | none => g
  | some t =>
    { g with slotA := g.slotA.map fun p => s.endWait (keyCore key) t g p, slotB := g.slotB.map fun p => s.endWait (keyCore key) t g p }

/-- Latching and ends of waits of every resident group. -/
def State.latchAll (s : State) : State :=
  { s with groups := s.groups.map fun p : Nat × Group => (p.1, s.endWaits p.1 (s.latchGroup p.1 p.2)) }

/-! ## Reports that waited (R406, R411) -/

/-- Handler entries that waited for room in the fault ring, in the order in which their permits were taken (R406, R447). -/
def State.finishEntries (s : State) : State :=
  let waiting := s.groups.filterMap fun p : Nat × Group => p.2.entering.map fun e => (e.since, p.1)
  ((sortBy Prod.fst waiting).map Prod.snd).foldl State.finishEntry s

/-- The oldest context-fatal report of a core, made once permit 4 is free and the ring has room; without a ring it is discarded (R406, R411). -/
def State.fatalNext (s : State) (core : Nat) : State :=
  match (s.core core).fatalWaiting with
  | [] => s
  | (ctx, t, team, gidx) :: rest =>
    if s.ringLog.isSome && ((s.core core).permits.getD 4 false || !s.ringRoom) then s
    else (s.modCore core fun c => { c with fatalWaiting := rest }).fatalReport core ctx t team gidx

/-- Every core's. -/
def State.fatalReports (s : State) : State :=
  ((s.cores.filter fun p : Nat × Core => !p.2.fatalWaiting.isEmpty).map fun p => p.1).foldl State.fatalNext s

/-- What follows every step. -/
def State.settle (s : State) : State := s.finishEntries.fatalReports.serveMonitors.latchAll.endRegWaits.dropRamps

/-- A slot that has become ready has waited from now (R145, R148). -/
def State.freshen (before s : State) : State :=
  { s with groups := s.groups.map fun p : Nat × Group =>
      let up (b : Bool) (g : Group) : Group :=
        if s.ready p.1 b && !before.ready p.1 b then
          g.setCand b { since := (s.core (keyCore p.1)).cycle }
        else g
      (p.1, up true (up false p.2)) }

end Sys2Proof.Machine
end

