-- ==== Sys2Proof/Machine/Control.lean ====
section
/-! DEFINITION. Control flow: transfers, JOIN, EXIT, traps raised by words, TRET, YIELD (R120, R121, R153 to R156, R199 to R204, R400). -/

namespace Sys2Proof.Machine

/-- The fetch block that holds an address (R200). -/
def blockOf (pc : DWord) : DWord := pc &&& ~~~0x3F

/-- The link of CALL and CALLX (R121, R200). -/
def linkOf (pc : DWord) : DWord := blockOf pc + 64

/-- The target of a form-B word (R131, R200). -/
def branchTarget (pc : DWord) (ofs : BitVec 24) : DWord := blockOf pc + ofs.signExtend 64 * 64

/-- A transfer of the lanes of `X` to `target`, the others going on at the next word: the targets are checked, the link is written,
and the parts split (R120, R153, R156, R200). -/
def transferTo (s : State) (i : Issue) (X : Word) (link : Option Operand) (target : Nat → DWord) : Done :=
  match (lanesOf X).find? fun l => targetBad (target l) with
  | some l => .trap (i.trap 0x05 X 0 (target l)) s
  | none =>
    match i.budget X (match link with | some d => typeDests true d | none => []) with
    | some t => .trap t s
    | none =>
      let linked (g : Group) : Group := match link with
        | some d => g.put64 d X fun _ => linkOf i.pc
        | none => g
      match (linked i.grp).transfer i.b fun l => if X.getLsbD l then target l else i.pc + 8 with
      | some g => .moved (s.setGroup i.key g)
      | none => .trap (i.trap 0x0B X) s

/-- BRA. -/
def execBra (g : Guard) (ofs : BitVec 24) (s : State) : Host.Outcome State Fault Refusal :=
  onIssue s fun i => transferTo s i (i.lanes g) none fun _ => branchTarget i.pc ofs

/-- BRX. -/
def execBrx (g : Guard) (a : Operand) (s : State) : Host.Outcome State Fault Refusal :=
  onIssue s fun i => transferTo s i (i.lanes g) none fun l => i.src64 false a l

/-- CALL. -/
def execCall (g : Guard) (d : Operand) (ofs : BitVec 24) (s : State) : Host.Outcome State Fault Refusal :=
  onIssue s fun i => transferTo s i (i.lanes g) (some d) fun _ => branchTarget i.pc ofs

/-- CALLX. -/
def execCallx (g : Guard) (d a : Operand) (s : State) : Host.Outcome State Fault Refusal :=
  onIssue s fun i => transferTo s i (i.lanes g) (some d) fun l => i.src64 false a l

/-- RET. -/
def execRet (g : Guard) (a : Operand) (s : State) : Host.Outcome State Fault Refusal :=
  onIssue s fun i => transferTo s i (i.lanes g) none fun l => i.src64 false a l

/-- JOIN (R154, R155). -/
def execJoin (s : State) : Host.Outcome State Fault Refusal :=
  onIssue s fun i =>
    match i.grp.join i.b with
    | some g => .moved (s.setGroup i.key g)
    | none => .trap (i.trap 0x0C i.part.mask 0 i.pc) s

/-- EXIT (R154, R201). -/
def execExit (g : Guard) (s : State) : Host.Outcome State Fault Refusal :=
  onIssue s fun i =>
    let X := i.lanes g
    if X = 0 then .next s
    else if i.grp.mode ≠ .normal then .trap (i.trap 0x03 X) s
    else
      match i.grp.exitLanes i.b X with
      | none => .trap (i.trap 0x0C X 0 i.pc) s
      | some gr =>
        let s := s.setGroup i.key gr
        .moved (if gr.parts.isEmpty then s.exitGroup i.key else s)

/-- TRAP (R202): user vector for k below 128, supervisor vector otherwise; TEPC is the next word. -/
def execTrap (k : BitVec 8) (s : State) : Host.Outcome State Fault Refusal :=
  onIssue s fun i =>
    let X := i.lanes Guard.always
    .trap { i.trap (if k.toNat < 128 then 0x10 else 0x11) X (k.setWidth 32) 0 X with tepc := i.pc + 8 } s

/-- BRK (R202). -/
def execBrk (k : BitVec 16) (s : State) : Host.Outcome State Fault Refusal :=
  onIssue s fun i =>
    let X := i.lanes Guard.always
    .trap (i.trap 0x12 X (k.setWidth 32) 0 X) s

/-- Every group of a team ends abnormally (R400, R412). -/
def State.abendTeam (s : State) (team : Nat) : State := s.abendTeams fun k _ => k == team

/-- The frame that TRET and the trap CSRs use: of the current mode, else the last written (R397). -/
def Group.frame (g : Group) : Frame :=
  match g.mode with
  | .user => g.uframe
  | .supervisor => g.sframe
  | .normal => if g.lastS then g.sframe else g.uframe

/-- TRET (R203, R400). -/
def execTret (s : State) : Host.Outcome State Fault Refusal :=
  onIssue s fun i =>
    let g := i.grp
    let X := i.lanes Guard.always
    let f := g.frame
    if g.mode = .normal || 1 < g.partCount then .trap (i.trap 0x03 X) s
    else
      let act := if g.mode = .supervisor then bits g.taction 1 0 else 0
      if act = 1 then .moved (s.abendGroup i.key)
      else if act = 2 then .moved (s.abendTeam g.team)
      else if act = 3 then .moved (s.contextFatal i.key { code := f.tcause.toNat % 256, addr := f.taddr, tepc := f.tepc, tmask := f.tmask, exmask := f.exmask })
      else if f.rewritten && targetBad f.tepc then .trap (i.trap 0x05 X 0 f.tepc) s
      else if g.mode = .supervisor && i.team.vregs g.role < g.vregs.length then .moved (s.abendGroup i.key)
      else .moved (s.setGroup i.key (g.restore f))

/-- YIELD (R204). -/
def execYield (s : State) : Host.Outcome State Fault Refusal := onIssue s fun i => s.yielded i

/-! ## Held asynchronous traps and permits (R399, R404, R410) -/

/-- ASYNC_TRAP_TAKE (R399): the oldest held trap, at slot A's part. A reported cause that finds no permit stays held and waits its
back-off, without a word (R404). Permits are taken in ascending position within a front cycle (R447). -/
def State.asyncTake (s : State) (key : Nat) : Option State :=
  match s.group? key with
  | none => none
  | some g =>
    match g.heldTraps with
    | [] => none
    | t :: rest =>
      let c := s.core (keyCore key)
      if !g.mayTakeHeld || (g.heldUntil.any fun n => c.cycle < n) || keyPos key + 1 < c.permitPos then none
      else
        let b := g.slotA.isNone
        match g.slot b with
        | none => none
        | some p =>
          let t := { t with tepc := p.pc }
          if reportedCause t.code && s.ringLog.isSome && c.freePermit.isNone then
            some (s.setGroup key { g with heldUntil := some (c.cycle + g.backoff), backoff := nextBackoff g.backoff })
          else
            let s := s.setGroup key { g with heldTraps := rest, heldUntil := none }
            some (s.takeTrap s key b t)

/-- ASYNC_TRAP_TAKE (R399). -/
def execAsyncTrapTake (key : Nat) (s : State) : Host.Outcome State Fault Refusal := onEvent s (s.asyncTake key)

/-- PERMIT_RETRY (R404): the back-off has passed and the slot issues its word again. -/
def State.permitRetry (s : State) (key : Nat) (b : Bool) : Option State :=
  match s.group? key with
  | none => none
  | some g =>
    match g.slot b with
    | none => none
    | some p =>
      match p.wait with
      | some (.permit t) =>
        if t ≤ (s.core (keyCore key)).cycle then some (s.setGroup key (g.setSlot b (some { p with wait := none }))) else none
      | _ => none

/-- PERMIT_RETRY (R404). -/
def execPermitRetry (key : Nat) (slotB : Bool) (s : State) : Host.Outcome State Fault Refusal := onEvent s (s.permitRetry key slotB)

end Sys2Proof.Machine
end

