-- ==== Sys2Proof/Machine/Crypto.lean ====
section
/-! DEFINITION. What boot and attestation compute: SHA-512 (FIPS 180-4), HKDF over it (RFC 5869) and Ed25519 (RFC 8032), as R440 and R442
name them. A byte string is a list of bytes. -/

namespace Sys2Proof.Machine

/-! ## SHA-512 -/

/-- The greatest `r` below 2^(n + 1) with r^k ≤ x, found bit by bit from bit `n` down. -/
def rootBits (k x : Nat) : Nat → Nat → Nat
  | 0, r => if (r + 1) ^ k ≤ x then r + 1 else r
  | n + 1, r => rootBits k x n (if (r + 2 ^ (n + 1)) ^ k ≤ x then r + 2 ^ (n + 1) else r)

/-- The first 64 bits of the fraction of the k-th root of a small number. -/
def rootFraction (k p : Nat) : DWord := BitVec.ofNat 64 (rootBits k (p * 2 ^ (64 * k)) 69 0)

/-- The primes below 410: there are eighty. -/
def smallPrimes : List Nat := (List.range 410).filter fun n => 2 ≤ n && (List.range n).all fun d => d < 2 || n % d ≠ 0

/-- The initial hash value: square roots of the first eight primes. -/
def shaInit : List DWord := (smallPrimes.take 8).map (rootFraction 2)

/-- The round constants: cube roots of the first eighty primes. -/
def shaRounds : List DWord := smallPrimes.map (rootFraction 3)

/-- Bytes as 64-bit words, most significant byte first. -/
def shaWords : Nat → List Byte → List DWord
  | 0, _ => []
  | n + 1, bs => BitVec.ofNat 64 (fromBytes (bs.take 8).reverse) :: shaWords n (bs.drop 8)

/-- Words as bytes, most significant byte first. -/
def shaBytes (ws : List DWord) : List Byte := ws.flatMap fun w => (toBytes 8 w.toNat).reverse

/-- The message schedule's next word from the latest sixteen, latest first. -/
def shaNext (ws : List DWord) : DWord :=
  let w (k : Nat) : DWord := ws.getD (k - 1) 0
  let small0 (x : DWord) := x.rotateRight 1 ^^^ x.rotateRight 8 ^^^ (x >>> 7)
  let small1 (x : DWord) := x.rotateRight 19 ^^^ x.rotateRight 61 ^^^ (x >>> 6)
  small1 (w 2) + w 7 + small0 (w 15) + w 16

/-- The schedule of a block, latest word first, after `n` words more. -/
def shaSchedule : Nat → List DWord → List DWord
  | 0, ws => ws
  | n + 1, ws => shaSchedule n (shaNext ws :: ws)

/-- One round on the working variables a to h. -/
def shaRound (v : List DWord) (kw : DWord) : List DWord :=
  match v with
  | [a, b, c, d, e, f, g, h] =>
    let big0 := a.rotateRight 28 ^^^ a.rotateRight 34 ^^^ a.rotateRight 39
    let big1 := e.rotateRight 14 ^^^ e.rotateRight 18 ^^^ e.rotateRight 41
    let t1 := h + big1 + ((e &&& f) ^^^ (~~~e &&& g)) + kw
    let t2 := big0 + ((a &&& b) ^^^ (a &&& c) ^^^ (b &&& c))
    [t1 + t2, a, b, c, d + t1, e, f, g]
  | _ => v

/-- One block of 128 bytes. -/
def shaBlock (hash : List DWord) (block : List Byte) : List DWord :=
  let ws := (shaSchedule 64 (shaWords 16 block).reverse).reverse
  let v := (List.zipWith (· + ·) shaRounds ws).foldl shaRound hash
  List.zipWith (· + ·) hash v

/-- Blocks in order. -/
def shaBlocks : Nat → List DWord → List Byte → List DWord
  | 0, hash, _ => hash
  | n + 1, hash, bs => shaBlocks n (shaBlock hash (bs.take 128)) (bs.drop 128)

/-- SHA-512 of a byte string: 64 bytes. -/
def sha512 (m : List Byte) : List Byte :=
  let n := (m.length + 17 + 127) / 128
  let padded := m ++ 0x80 :: List.replicate (128 * n - m.length - 17) 0 ++ (toBytes 16 (8 * m.length)).reverse
  shaBytes (shaBlocks n shaInit padded)

/-! ## HKDF -/

/-- HMAC over SHA-512. -/
def hmac (key m : List Byte) : List Byte :=
  let k := padBytes (if 128 < key.length then sha512 key else key) 128
  sha512 ((k.map (· ^^^ 0x5C)) ++ sha512 (k.map (· ^^^ 0x36) ++ m))

/-- HKDF's first 32 bytes: extract, then one step of expand. -/
def hkdf32 (salt secret info : List Byte) : List Byte := (hmac (hmac salt secret) (info ++ [1])).take 32

/-! ## Ed25519 -/

/-- The field's prime, and the order of the base point. -/
def edP : Nat := 2 ^ 255 - 19
def edL : Nat := 2 ^ 252 + 27742317777372353535851937790883648493

/-- b^e mod p, for exponents below 2^n. -/
def edPow (b e : Nat) : Nat → Nat
  | 0 => 1
  | n + 1 =>
    let r := edPow b (e / 2) n
    let r2 := r * r % edP
    if e % 2 = 1 then r2 * b % edP else r2

/-- Inverse, and difference, in the field. -/
def edInv (x : Nat) : Nat := edPow x (edP - 2) 255
def edSub (x y : Nat) : Nat := (x + edP - y % edP) % edP

/-- The curve's constant d = -121665/121666. -/
def edD : Nat := edSub 0 (121665 * edInv 121666 % edP)

/-- A point in extended coordinates: X, Y, Z, T with x = X/Z, y = Y/Z, xy = T/Z. -/
structure EdPoint where
  x : Nat
  y : Nat
  z : Nat
  t : Nat
  deriving DecidableEq, Repr

/-- The neutral element. -/
def edZero : EdPoint := { x := 0, y := 1, z := 1, t := 0 }

/-- The sum of two points, by the complete formula. -/
def EdPoint.add (p q : EdPoint) : EdPoint :=
  let a := edSub p.y p.x * edSub q.y q.x % edP
  let b := (p.y + p.x) * (q.y + q.x) % edP
  let c := 2 * p.t * q.t * edD % edP
  let d := 2 * p.z * q.z % edP
  let e := edSub b a
  let f := edSub d c
  let g := (d + c) % edP
  let h := (b + a) % edP
  { x := e * f % edP, y := g * h % edP, z := f * g % edP, t := e * h % edP }

/-- A multiple of a point, for factors below 2^n. -/
def EdPoint.mul (p : EdPoint) (k : Nat) : Nat → EdPoint
  | 0 => edZero
  | n + 1 =>
    let r := p.mul (k / 2) n
    let r2 := r.add r
    if k % 2 = 1 then r2.add p else r2

/-- Two representations of one point. -/
def EdPoint.same (p q : EdPoint) : Bool := p.x * q.z % edP == q.x * p.z % edP && p.y * q.z % edP == q.y * p.z % edP

/-- The 32 bytes of a point: y, and the low bit of x in the top bit. -/
def EdPoint.encode (p : EdPoint) : List Byte :=
  let i := edInv p.z
  toBytes 32 (p.y * i % edP + p.x * i % edP % 2 * 2 ^ 255)

/-- The point with a given y and low bit of x. -/
def edFind (y sign : Nat) : Option EdPoint :=
  let u := edSub (y * y) 1
  let v := (edD * y * y + 1) % edP
  let w := u * edInv v % edP
  let r := edPow w ((edP + 3) / 8) 255
  let r := if r * r % edP = w then r else r * edPow 2 ((edP - 1) / 4) 255 % edP
  if edP ≤ y || r * r % edP ≠ w || (r = 0 && sign = 1) then none
  else
    let x := if r % 2 = sign then r else edP - r
    some { x, y, z := 1, t := x * y % edP }

/-- The point that 32 bytes stand for. -/
def edDecode (bs : List Byte) : Option EdPoint := let n := fromBytes (bs.take 32); edFind (n % 2 ^ 255) (n / 2 ^ 255)

/-- The base point: y = 4/5, x even. -/
def edBase : EdPoint := (edFind (4 * edInv 5 % edP) 0).getD edZero

/-- The number that a hash stands for, modulo the order of the base point. -/
def edHash (m : List Byte) : Nat := fromBytes (sha512 m) % edL

/-- A signature of a message under a public key verifies: S is below the order, and [8][S]B = [8]R + [8][k]A (log 5). -/
def edVerify (key m sig : List Byte) : Bool :=
  let S := fromBytes ((sig.drop 32).take 32)
  match edDecode key, edDecode sig with
  | some A, some R =>
    S < edL && ((edBase.mul S 256).mul 8 4).same ((R.add (A.mul (edHash (sig.take 32 ++ key ++ m)) 256)).mul 8 4)
  | _, _ => false

/-- The secret scalar of a 32-byte private key. -/
def edScalar (seed : List Byte) : Nat := fromBytes ((sha512 seed).take 32) % 2 ^ 254 / 8 * 8 + 2 ^ 254

/-- The public key of a private key. -/
def edPublic (seed : List Byte) : List Byte := (edBase.mul (edScalar seed) 256).encode

/-- The signature of a message by a private key. -/
def edSign (seed m : List Byte) : List Byte :=
  let r := edHash ((sha512 seed).drop 32 ++ m)
  let R := (edBase.mul r 256).encode
  R ++ toBytes 32 ((r + edHash (R ++ edPublic seed ++ m) * edScalar seed) % edL)

/-! ## The device's keys (R440, R442) -/

/-- The private key of the device identity: derived from the fused unique secret (R442). -/
def identitySeed : List Byte := hkdf32 Config.identitySalt Config.uniqueSecret Config.identityInfo

/-- The identity public key, 32 bytes (R442). -/
def identityKey : List Byte := edPublic identitySeed

/-- A signature by the identity key (R442). -/
def identitySign (m : List Byte) : List Byte := edSign identitySeed m

/-- The ROM key's SHA-512 hash matches the fuses (R440, R441). -/
def keyMatchesFuses : Bool := sha512 Config.romKey == Config.fusedKeyHash

end Sys2Proof.Machine
end

