-- ==== Sys2Proof/Machine/Place.lean ====
section
/-! DEFINITION. Placing teams: room, the choice of core, carve-out conversion and return, the state a team starts in, its record copy, and
the freeing of its resources (R10, R11, R16 to R24, R107, R108, R112 to R114, R277). -/

namespace Sys2Proof.Machine

/-! ## What is in use -/

/-- Groups of a card on one core (R10, R11). -/
def groupsPerCore (card : List DWord) : Nat := if cardStrTeam card then cardGroupSum card / 4 else cardGroupSum card

/-- The cores of a place: a string's four, or one core (R11). -/
def coresAt (card : List DWord) (w : Nat) : List Nat := if cardStrTeam card then strandCores w else [w]

/-- Occupied positions of a core. -/
def State.positions (s : State) (core : Nat) : List Nat :=
  (s.groups.filter fun p : Nat × Group => keyCore p.1 = core).map fun p => p.1 % Config.positions

/-- The quarters on a core. -/
def State.quartersOn (s : State) (core : Nat) : List Quarter := s.teams.filterMap fun p : Nat × Team => p.2.quarterOn core

/-- Physical operand slots and tiles of a core that teams hold (R277). -/
def State.slotsUsed (s : State) (core : Nat) : List Nat := (s.quartersOn core).flatMap fun q => q.reserve ++ q.claims.map fun c => c.2
def State.tilesUsed (s : State) (core : Nat) : List Nat := (s.quartersOn core).flatMap fun q => q.tiles

/-- Route tags of a string in use (R107). -/
def State.tagsUsed (s : State) (n : Nat) : Nat :=
  (s.teams.map fun p : Nat × Team => if p.2.quarters.any fun q => strandOf q.core == n then cardTags p.2.card else 0).sum

/-- Scratch allocations of a core in KiB: base and size. -/
def State.allocs (s : State) (core : Nat) : List (Nat × Nat) :=
  ((s.quartersOn core).map fun q => (q.base, q.kib)).filter fun a : Nat × Nat => a.2 ≠ 0

/-! ## What is kept (R418) -/

/-- What is kept on a core for urgent teams that wait. -/
def State.keptOn (s : State) (core : Nat) : List Keep := s.kept.filter fun x => x.core = core

/-- Scratch ranges of a core that are not free: allocations, and what is kept. -/
def State.ranges (s : State) (core : Nat) : List (Nat × Nat) :=
  s.allocs core ++ ((s.keptOn core).map fun x => (x.base, x.kib)).filter fun a : Nat × Nat => a.2 ≠ 0

/-- A team as the cause of pre-emptions. -/
def Team.cause (t : Team) : Cause := ⟨t.ctx, t.cardIdx, t.recidx⟩

/-- The state as the dispatcher sees it for one team: what is kept for it is free. -/
def State.serving (s : State) (c : Cause) : State := { s with kept := s.kept.filter fun x => x.cause ≠ c }

/-! ## Scratch ranges and carve-out (R112 to R114) -/

/-- First-fit from offset 0 among `limit` KiB (R112). -/
def firstFit (allocs : List (Nat × Nat)) (limit kib : Nat) : Option Nat :=
  let starts := sortBy id (0 :: allocs.map fun a => a.1 + a.2)
  starts.find? fun b => b + kib ≤ limit && allocs.all fun a => a.1 + a.2 ≤ b || b + kib ≤ a.1

/-- One conversion of way S to scratch, where R113 permits it. -/
def Core.convert (c : Core) : Option Core :=
  if 20 ≤ c.scratchWays then none
  else if 3 < c.cacheWays && c.spillWays ≤ c.rsv then some { c with scratchWays := c.scratchWays + 1 }
  else if 1 < c.spillWays then some { c with scratchWays := c.scratchWays + 1, spillWays := c.spillWays - 1 }
  else none

/-- A range of `kib` fits now, or after conversions that R113 permits. -/
def Core.hasRange (allocs : List (Nat × Nat)) (kib : Nat) : Nat → Core → Bool
  | 0, _ => false
  | k + 1, c =>
    (firstFit allocs (c.scratchWays * 32) kib).isSome ||
    match c.convert with
    | some c' => Core.hasRange allocs kib k c'
    | none => false

/-- The lines of each set cut to the number of cache ways: the others are written back or dropped (R113). -/
def Core.trim (c : Core) : Core :=
  { c with l1 := c.l1.foldl (fun acc y => if (acc.countP fun z : L1Line => z.line % 256 = y.line % 256) < c.cacheWays then acc ++ [y] else acc) [] }

/-- Registers spilled to a way moved to another reserve way with space, or to memory (R113, R114). -/
def State.emptyWay (s : State) (core way : Nat) : State :=
  (s.groups.filter fun p : Nat × Group => keyCore p.1 = core).foldl (fun (s : State) (p : Nat × Group) =>
    (p.2.vregs.filter fun r => r.2.spill = .reserve way).foldl (fun (s : State) (r : Nat × VReg) =>
      s.spillTo p.1 r.1 (s.spillPlace core)) s) s

/-- One way converted (R113). -/
def State.convertWay (s : State) (core : Nat) : Option State :=
  match (s.core core).convert with
  | none => none
  | some c => some ((s.setCore core c.trim).emptyWay core (s.core core).scratchWays)

/-- Reserve ways beyond RSV leave for the cache, the highest first (R114). -/
def State.shrinkReserve : Nat → State → Nat → State
  | 0, s, _ => s
  | k + 1, s, core =>
    let c := s.core core
    if c.spillWays ≤ c.rsv then s
    else State.shrinkReserve k ((s.setCore core { c with spillWays := c.spillWays - 1 }).emptyWay core (c.scratchWays + c.spillWays - 1)) core

/-- The highest scratch ways that hold no allocation return (R114). -/
def State.returnWays : Nat → State → Nat → State
  | 0, s, _ => s
  | k + 1, s, core =>
    let c := s.core core
    if c.scratchWays = 0 || (s.allocs core).any fun a => c.scratchWays * 32 < a.1 + a.2 + 32 then s
    else
      let s := s.setCore core { c with scratchWays := c.scratchWays - 1, spillWays := c.spillWays + 1 }
      State.returnWays k (s.shrinkReserve 24 core) core

/-- A write of CARVE sets RSV, 1 to 4 (R112). -/
def State.writeCarve (s : State) (core : Nat) (v : Word) : State :=
  let r := bits v 2 0
  if 1 ≤ r && r ≤ 4 then s.modCore core fun c => { c with rsv := r } else s

/-- CARVE_WRITE (R112). -/
def execCarveWrite (core : Nat) (v : Word) (s : State) : Host.Outcome State Fault Refusal :=
  onEvent s (if core < Config.numCores then some (s.writeCarve core v) else none)

/-! ## Room and the choice of core (R107, R108) -/

/-- What a team asks of each core, and of the string: `locks` for a restored team, by quarter. -/
structure Shape where
  card : List DWord
  kib : Nat
  locks : List Nat := []
  /-- Walk requests that come with it, by quarter: an engine holds 256 (R242; log 90). -/
  requests : List Nat := []

/-- A core has the room of a quarter `k` of a shape. -/
def State.coreRoom (s : State) (x : Shape) (core k : Nat) : Bool :=
  let kept (f : Keep → Nat) : Nat := ((s.keptOn core).map f).sum
  (s.positions core).length + kept Keep.groups + groupsPerCore x.card ≤ 64 &&
    (s.slotsUsed core).length + kept Keep.slots + cardOpSlots x.card ≤ 64 &&
    (s.tilesUsed core).length + kept Keep.tiles + cardAcct x.card ≤ 16 && (s.core core).locks.length + x.locks.getD k 0 ≤ 64 &&
    (x.requests.getD k 0 = 0 || (s.core core).requests.length + x.requests.getD k 0 ≤ 256) &&
    Core.hasRange (s.ranges core) x.kib 25 (s.core core)

/-- A core, or a string for a string team, has room for a shape. -/
def State.roomAt (s : State) (x : Shape) (w : Nat) : Bool :=
  let cs := coresAt x.card w
  let n := if cardStrTeam x.card then w else strandOf w
  s.tagsUsed n + ((s.kept.filter fun y => strandOf y.core = n).map Keep.tags).sum + cardTags x.card ≤ 8 &&
    (cs.zipIdx).all fun p : Nat × Nat => s.coreRoom x p.1 p.2

/-- Resident groups of a core and of a string. -/
def State.residentCount (s : State) (core : Nat) : Nat := (s.positions core).length
def State.strandResident (s : State) (n : Nat) : Nat := ((strandCores n).map s.residentCount).sum

/-- The cores or strings with room. -/
def State.rooms (s : State) (x : Shape) : List Nat :=
  (List.range (if cardStrTeam x.card then Config.numStrings else Config.numCores)).filter fun w => s.roomAt x w

/-- The choice among them (R108): fewest resident groups, then the string with fewest, then the lowest number. -/
def State.bestOf (s : State) (card : List DWord) (ws : List Nat) : Option Nat :=
  if cardStrTeam card then argMin s.strandResident ws
  else argMin (fun w => s.residentCount w * 1024 + s.strandResident (strandOf w)) ws

/-- Scratch allocation of a team that is placed: of a material or stage team, with ARGSIZE taken as 4 (R87). -/
def Team.kib (t : Team) : Nat := allocKib t.card (if t.launch.isSome then 64 else cardArgSize t.card * 16)

/-- Lock entries that an image needs, by quarter (R107). -/
def State.imageLocks (s : State) (m : Image) (t : Team) : List Nat :=
  (List.range 4).map fun k =>
    (m.loops.countP fun l => l.1 == k) + m.requests.countP fun r => r.1 == k && r.2.window.isNone && takesLock s m.team t r.2.record

/-- The image of a saved team. -/
def State.image? (s : State) (team : Nat) : Option Image := s.images.find? fun m => m.team == team

/-- Walk requests that come with a team, by quarter: those of its image, or those that move with it. -/
def State.requestsOf (s : State) (k : Nat) (t : Team) : List Nat :=
  match s.image? k with
  | some m => (List.range 4).map fun j => m.requests.countP fun r => r.1 == j
  | none => t.quarters.map fun q => (s.core q.core).requests.countP fun r => r.team == k

/-- The shape of a team that waits to be placed, or moves. -/
def State.shapeOf (s : State) (k : Nat) (t : Team) : Shape :=
  { card := t.card, kib := t.kib, locks := match s.image? k with | some m => s.imageLocks m t | none => [], requests := s.requestsOf k t }

/-- A slot parked as one that slot `n`'s event would wake: at a WAITANY whose mask holds it, or asleep (R390). -/
def Part.wokenBy (p : Part) (n : Nat) : Bool :=
  match p.wait with
  | some (.waitany M) => M.getLsbD n
  | some (.sleep _) => true
  | _ => false

/-- Slot `n` of a group that is out marks its team runnable when it becomes pending (R390). -/
def Group.marks (g : Group) (n : Nat) : Bool :=
  g.evmask.getLsbD n && ((g.slotA.any fun p => p.wokenBy n) || g.slotB.any fun p => p.wokenBy n)

/-- A sleep of a slot has run out (log 42). -/
def Part.slept (p : Part) (now : Nat) : Bool :=
  match p.wait with
  | some (.sleep t) => t ≤ now
  | _ => false

/-- What has happened since the save marks a group's team runnable (R364, R390). -/
def State.markedBy (s : State) (team : Nat) (g : Group) : Bool :=
  let timeDue (n : Nat) : Bool := match g.events[n]? with
    | some e => e.armed && e.kind = .time && e.object.toNat ≤ s.time.toNat
    | none => false
  let waits (n : Nat) : Bool := (g.events[n]?).any fun e => !e.pend
  let hit (p : MonTarget → Bool) : Bool := s.monitors.any fun m => m.team == team && m.gidx == g.gidx && m.hit.isSome && p m.target
  ((List.range 16).any fun n => g.marks n && waits n && (timeDue n || hit fun x => x == .event n)) ||
    hit (fun x => match x with | .slot _ => true | .event _ => false) ||
    (g.slotA.any fun p => p.slept s.time.toNat) || g.slotB.any fun p => p.slept s.time.toNat

/-- A team may be restored now: its queue is enabled and something marks it runnable (R424). -/
def State.mayRestore (s : State) (k : Nat) (t : Team) : Bool :=
  match t.phase with
  | .saved _ =>
    (4096 ≤ t.ctx || bit (s.queueWord t.ctx 1) 16) &&
      (t.runnable || (match s.image? k with
        | some m => m.groups.any fun g => s.markedBy k g
        | none => false))
  | _ => false

/-- A team waits to be placed. -/
def State.waits (s : State) (k : Nat) (t : Team) : Bool := (t.phase = .dealt && s.pending.contains k) || s.mayRestore k t

/-- Where a waiting team would be placed now: its chunk's core or string, once the teams of the chunk with lower record indices have been
placed (R19), else by R108. -/
def State.targetOf (s : State) (k : Nat) (t : Team) : Option Nat :=
  let s := s.serving t.cause
  let x := s.shapeOf k t
  match t.home with
  | some w =>
    let first := s.pending.find? fun j =>
      match s.team? j with
      | some u => u.home.isSome && u.chunk == t.chunk
      | none => false
    if first = some k && s.roomAt x w then some w else none
  | none => s.bestOf t.card (s.rooms x)

/-- A saved team that may be restored has a place. -/
def State.restorable (s : State) (k : Nat) (t : Team) : Bool := s.mayRestore k t && (s.targetOf k t).isSome

/-- The first saved team, in the order of saving, that may be restored and has a place. -/
def State.nextRestore (s : State) : Option Nat :=
  (s.images.find? fun m => match s.team? m.team with
    | some t => s.restorable m.team t
    | none => false).map fun m => m.team

/-- Every core of the place has a free range now. -/
def State.fitsNow (s : State) (x : Shape) (w : Nat) : Bool :=
  (coresAt x.card w).all fun c => (firstFit (s.ranges c) ((s.core c).scratchWays * 32) x.kib).isSome

/-- A way of a core converted for the first team that waits for it (R113). -/
def State.carveStep (s : State) (core : Nat) : Option State :=
  let wanted := s.teams.any fun p : Nat × Team =>
    s.waits p.1 p.2 && match s.targetOf p.1 p.2 with
      | some w => (coresAt p.2.card w).contains core &&
          (firstFit ((s.serving p.2.cause).ranges core) ((s.core core).scratchWays * 32) p.2.kib).isNone
      | none => false
  if wanted then s.convertWay core else none

/-- CARVE_CONVERSION (R113). -/
def execCarveConversion (core : Nat) (s : State) : Host.Outcome State Fault Refusal := onEvent s (s.carveStep core)

/-! ## Placement (R20, R23, R24, R108, R277) -/

/-- The numbers below `n` that are not in use, lowest first. -/
def freeNumbers (used : List Nat) (n : Nat) : List Nat := (List.range n).filter fun k => !used.contains k

/-- The position a group takes on a core, in the quadrant with the most free positions (R108). That quadrant q holds the positions 16q to 16q + 15,
and that the lowest free one is taken, is the model's choice (log 88). -/
def State.freePosition (s : State) (core : Nat) : Option (Nat × Nat) :=
  let used := s.positions core
  match argMin (fun q => used.countP fun p => p / 16 = q) [0, 1, 2, 3] with
  | none => none
  | some quad => ((List.range 16).map (16 * quad + ·)).find? (fun p => !used.contains p) |>.map fun p => (quad, p)

/-- A group placed on a core. -/
def State.placeGroup (s : State) (core : Nat) (g : Group) : State :=
  match s.freePosition core with
  | some (quad, p) => s.setGroup (posKey core p) { g with quad }
  | none => s

/-- The core of a group of a role by its index in the role, at place `w` (R11). -/
def groupCore (card : List DWord) (w role rgroup : Nat) : Nat :=
  if cardStrTeam card then 4 * w + rgroup / max 1 (cardGroups card role / 4) else w

/-- Quarter of the string team's core on which a group runs (R11). -/
def groupQuarter (card : List DWord) (role rgroup : Nat) : Nat := groupCore card 0 role rgroup

/-- A group as it starts (R23, R24). -/
def startGroup (team : Nat) (card : List DWord) (g : Nat) : Group :=
  let role := roleOf card g
  let rgroup := g - roleBase card role
  { team, gidx := g, role, rgroup, quarter := groupQuarter card role rgroup
    slotA := some { pc := BitVec.ofNat 64 (cardEntry card + cardEofs card role * 64), mask := 0xFFFFFFFF }
    lorigin := laneList.map fun l => BitVec.ofNat 32 (g * 32 + l) }

/-- A quarter's resources allocated on a core: scratch zeroed, tiles +0, lists empty (R21, R277, R315). -/
def State.newQuarter (s : State) (card : List DWord) (kib core : Nat) : Quarter × State :=
  let c := s.core core
  let base := (firstFit (s.ranges core) (c.scratchWays * 32) kib).getD 0
  let tiles := (freeNumbers (s.tilesUsed core) 16).take (cardAcct card)
  let n := tiles.length
  let q : Quarter :=
    { core, base, kib, reserve := (freeNumbers (s.slotsUsed core) 64).take (cardOpSlots card), tiles
      vconf := List.replicate n {}, lists := List.replicate n {}, steps := List.replicate n 0 }
  (q, s.setCore core { c with
        chip := cellsClear c.chip (base * 1024) ((base + kib) * 1024),
        acc := tiles.foldl (fun a p => cellsClear a (p * 4096) ((p + 1) * 4096)) c.acc })

/-- A team's quarters allocated at a place. -/
def State.newQuarters (s : State) (card : List DWord) (kib w : Nat) : List Quarter × State :=
  (coresAt card w).foldl (fun acc c =>
    let (q, s') := acc.2.newQuarter card kib c
    (acc.1 ++ [q], s')) ([], s)

/-- A team's groups placed at a place, in ascending index (R108). -/
def State.placeGroups (s : State) (card : List DWord) (w : Nat) (gs : List Group) : State :=
  gs.foldl (fun s g => s.placeGroup (groupCore card w g.role g.rgroup) g) s

/-! ## The record copy and the start (R20, R21, R88, R410) -/

/-- Bytes written from scratch offset 0 on, in every quarter of a team. -/
def State.writeRecord (s : State) (t : Team) (ws : List DWord) : State :=
  t.quarters.foldl (fun s q => s.writeLoc (q.scratch 0) (ws.flatMap fun w => toBytes 8 w.toNat)) s

/-- The launch record (R88). -/
def Launch.record (l : Launch) : List DWord :=
  let helper (e : LaneEntry) : Bool := match e with
    | .pixel _ _ _ _ h => h
    | .slot _ _ => false
  [l.va, BitVec.ofNat 64 (l.mat * 2 ^ 48 + l.entries.length * 2 ^ 40 + l.entries.countP helper * 2 ^ 32 + l.kind),
   BitVec.ofNat 64 l.seq, 0, 0, 0, 0, 0]

/-- A team whose record copy is complete starts: its groups may issue. -/
def State.begin (s : State) (k : Nat) (t : Team) : State :=
  let s := s.setTeam k { t with phase := .running, startTime := s.uptime, recPermit := none }
  { s with groups := s.groups.map fun p : Nat × Group =>
      if p.2.team = k then
        let c : Cand := { since := (s.core (keyCore p.1)).cycle }
        (p.1, { p.2 with candA := c, candB := c })
      else p }

/-- A record-fetch fault of a team, at the record address `addr`; a string team's is reported by the core of its first quarter, the model's choice
(log 88). Its report holds a permit of the placing core, and the record is read again once that is returned
(R21, R406, R410). Without a permit or room in the ring it waits; with no ring the report is discarded. -/
def State.recordFault (s : State) (k : Nat) (t : Team) (addr : Nat) : Option State :=
  match s.ringLog, t.quarters.head? with
  | none, _ => some s.dropReport
  | some _, none => none
  | some _, some q =>
    match (s.core q.core).freePermit with
    | none => none
    | some p =>
      if !s.ringRoom then none
      else
        let token := q.core * 8 + p
        let s := (s.setPermit q.core p true).setTeam k { t with recPermit := some token }
        some (s.appendReport
          { code := 0x21, src := 2, token, ctx := t.ctx, addr := BitVec.ofNat 64 addr, info := BitVec.ofNat 32 (t.recidx % 2 ^ 24),
            team := t.id, core := q.core })

/-- A placed team's record copied, each of its words as taken then or before (R22; log 82), and its start. -/
def State.teamStart (s : State) (k : Nat) : Option State :=
  match s.team? k with
  | none => none
  | some t =>
    let held := match t.recPermit with
      | some tok => (s.core (tok / 8)).permits.getD (tok % 8) false
      | none => false
    if t.phase ≠ .placed || held then none
    else
      match t.launch with
      | some n =>
        match tabGet? s.launches n with
        | some l => if l.written then some ((s.writeRecord t l.record).begin k t) else none
        | none => some (s.begin k t)
      | none =>
        let n := cardArgSize t.card * 2
        let va := cardArgBase t.card + t.recidx * cardArgSize t.card * 16
        match s.readCardWords (t.quarters.head?.map Quarter.core) t.ctx t.cardIdx va n with
        | .ok ws => some ((s.writeRecord t ws).begin k t)
        | .error _ => s.recordFault k t va

/-- TEAM_START (R20, R21). -/
def execTeamStart (team : Nat) (s : State) : Host.Outcome State Fault Refusal := onEvent s (s.teamStart team)

/-! ## Freeing (R114, R427) -/

/-- What a drained team frees goes first to the urgent team that caused its pre-emption (R418); route tags are counted once. -/
def Team.keeps (t : Team) : List Keep :=
  match t.phase with
  | .draining _ (some cause) => t.quarters.zipIdx.map fun q =>
      { cause, core := q.1.core, groups := groupsPerCore t.card, slots := q.1.reserve.length + q.1.claims.length, tiles := q.1.tiles.length,
        tags := if q.2 = 0 then cardTags t.card else 0, base := q.1.base, kib := q.1.kib }
  | _ => []

/-- A team's resources freed: positions, scratch, operand slots, tiles, lists, region entries, tags and monitors. -/
def State.freeTeam (s : State) (k : Nat) : State :=
  match s.team? k with
  | none => s
  | some t =>
    let cores := t.quarters.map Quarter.core
    let s := { s with groups := s.groups.filter fun p : Nat × Group => p.2.team ≠ k }
    let s := s.setTeam k { t with quarters := [], regions := [], tags := [], blocks := [] }
    cores.foldl (fun s c => s.returnWays 24 c) s

/-- A team leaves for good: its resources are freed, and kept where R418 gives them to an urgent team. -/
def State.vacate (s : State) (k : Nat) : State :=
  match s.team? k with
  | none => s
  | some t => { s.freeTeam k with kept := s.kept ++ t.keeps }

end Sys2Proof.Machine
end

