-- ==== Sys2Proof/Machine/Walk.lean ====
section
/-! DEFINITION. The walk engine: KICK, REGION, RACQ, RPUB and RREL, the steps of its requests, sliced multicast, demand-window copies,
and WALKACT (R242 to R262, R410). -/

namespace Sys2Proof.Machine

/-! ## KICK (R257, R258) -/

/-- The lowest record that breaks the rules, or all of them. -/
def State.readRecords (s : State) (i : Issue) (q : Quarter) (off n : Nat) : Except Nat (List (Nat × List DWord)) :=
  let rs := (List.range n).map fun k => (off + 64 * k, s.readRecord q (off + 64 * k))
  match rs.findIdx? fun r => recordBad s i r.2 with
  | some k => .error k
  | none => .ok rs

/-- KICK. -/
def execKick (g : Guard) (a b : Operand) (s : State) : Host.Outcome State Fault Refusal :=
  onIssue s fun i =>
    let X := i.lanes g
    match lowLane X, i.team.quarterOn i.core with
    | none, _ => .next s
    | some _, none => .trap (i.trap 0x03 X) s
    | some l, some q =>
      let off := (i.srcN a l).toNat
      let n := (i.srcN b l).toNat
      let va : DWord := BitVec.ofNat 64 (Config.scrBase + off)
      if n = 0 || 32 < n then .trap (i.trap 0x03 X) s
      else if off % 64 ≠ 0 then .trap (i.trap alignFault X 0 va) s
      else if i.alloc < off + 64 * n then .trap (i.trap accessFault X 0 va) s
      else
        match s.readRecords i q off n with
        | .error k => .trap (i.trap 0x03 X (BitVec.ofNat 32 k)) s
        | .ok rs =>
          let c := s.core i.core
          let locks := rs.countP fun r : Nat × List DWord => takesLock s i.grp.team i.team r.2
          if !i.grp.quiet || 256 < c.requests.length + n || 64 < c.locks.length + locks then .park .reissue s
          else
            let s := rs.foldl (fun (s : State) (r : Nat × List DWord) => s.queueRequest i.core i.grp.team i.grp.gidx r.1 r.2 0) s
            .next (s.suspend i.key)

/-! ## REGION (R253, R254, R259) -/

/-- The scratch range of a region. -/
def Region.range (r : Region) : Nat × Nat :=
  match r.body with
  | .ring g => (g.base, g.base + g.n * g.slotSz)
  | .window w => (w.base, w.base + w.size)

/-- A range [lo, hi) overlaps another configured handle of the team on a core. -/
def Team.regionClash (t : Team) (core lo hi : Nat) : Bool :=
  t.regions.any fun r => r.core == core && decide (lo < (Region.range r).2) && decide ((Region.range r).1 < hi)

/-- The lowest free entry of a core's region table. -/
def State.freeEntry (s : State) (core : Nat) : Option Nat :=
  (List.range 64).find? fun e => s.teams.all fun p : Nat × Team => p.2.regions.all fun r => !(r.core == core && r.entry == e)

/-- A handle configured, or no entry free: the status goes to `d` (R259). -/
def State.configure (s : State) (i : Issue) (X : Word) (d : Operand) (h : Nat) (body : RegionBody) : Done :=
  let ans (s : State) (v : Word) : Done := .next ((s.modGroup i.key fun g => g.put32 d X fun _ => v).suspend i.key)
  match s.freeEntry i.core with
  | none => ans s 1
  | some entry =>
    ans (s.modTeam i.grp.team fun t => { t with regions := t.regions ++ [{ handle := h, core := i.core, entry, body }] }) 0

/-- REGION.ring. -/
def execRegionRing (g : Guard) (h : Nat) (d a b : Operand) (s : State) : Host.Outcome State Fault Refusal :=
  onIssue s fun i =>
    let X := i.lanes g
    match lowLane X with
    | none => .next s
    | some l =>
      let base := (i.srcN a l).toNat
      let x := i.srcN b l
      let n := bits x 6 0
      let sz := bits x 23 8
      let owner := bits x 27 24
      if (i.team.region? h).isSome || n = 0 || 64 < n || base % 128 ≠ 0 || sz = 0 || sz % 128 ≠ 0 ||
          cardRoles i.team.card ≤ owner then .trap (i.trap 0x03 X) s
      else if i.alloc ≤ base then .trap (i.trap accessFault X 0 (BitVec.ofNat 64 (Config.scrBase + base))) s
      else if i.alloc < base + n * sz || i.team.regionClash i.core base (base + n * sz) then .trap (i.trap 0x03 X) s
      else
        match i.budget X [d] with
        | some t => .trap t s
        | none => s.configure i X d h (.ring { base, slotSz := sz, n, owner, free := n })

/-- REGION.window. -/
def execRegionWindow (g : Guard) (h : Nat) (d a b : Operand) (s : State) : Host.Outcome State Fault Refusal :=
  onIssue s fun i =>
    let X := i.lanes g
    match lowLane X, i.team.quarterOn i.core with
    | none, _ => .next s
    | some _, none => .trap (i.trap 0x03 X) s
    | some l, some q =>
      let off := (i.srcN a l).toNat
      if (i.team.region? h).isSome || off % 64 ≠ 0 then .trap (i.trap 0x03 X) s
      else if i.alloc < off + 64 then .trap (i.trap accessFault X 0 (BitVec.ofNat 64 (Config.scrBase + off))) s
      else
        let d' := s.readRecord q off
        let lo := recDst d'
        if recordBad s i d' || recDkind d' ≠ 1 || recMc d' || recCkind d' ≠ 0 ||
            i.team.regionClash i.core lo (lo + recBytes d') then .trap (i.trap 0x03 X) s
        else
          match i.budget X [d] with
          | some t => .trap t s
          | none => s.configure i X d h (.window { base := lo, size := recBytes d', advance := i.srcN b l, record := d' })

/-- A REGION operation on a configured handle: its status and effect, or none when the handle is not of its kind (R259). -/
def regionWord (s : State) (g : Guard) (h : Nat) (d : Operand) (f : Issue → Region → Option (Word × (Team → Team))) :
    Host.Outcome State Fault Refusal :=
  onIssue s fun i =>
    let X := i.lanes g
    if X = 0 then .next s
    else
      match (i.team.region? h).bind (f i), i.budget X [d] with
      | none, _ => .trap (i.trap 0x03 X) s
      | some _, some t => .trap t s
      | some (v, e), none => .next ((s.modTeam i.grp.team e).modGroup i.key fun g => g.put32 d X fun _ => v)

/-- The stored record with ADVANCE added to SRC, modulo 2^49. -/
def Window.advanced (w : Window) : List DWord :=
  let x := dwordAt w.record 0
  w.record.set 0 (setField x 48 0 ((recSrc w.record : Int) + w.advance.toInt + 2 ^ 49).toNat)

/-- REGION.absent. -/
def execRegionAbsent (g : Guard) (h : Nat) (d : Operand) (s : State) : Host.Outcome State Fault Refusal :=
  regionWord s g h d fun _ r =>
    match r.body with
    | .ring _ => none
    | .window w =>
      if w.state = .copying then some (1, id)
      else some (0, fun t => t.setWindow h { w with state := .absent, record := Window.advanced w })

/-- REGION.present. -/
def execRegionPresent (g : Guard) (h : Nat) (d : Operand) (s : State) : Host.Outcome State Fault Refusal :=
  regionWord s g h d fun _ r =>
    match r.body with
    | .ring _ => none
    | .window w => if w.state = .copying then some (1, id) else some (0, fun t => t.setWindow h { w with state := .present })

/-- REGION.free. -/
def execRegionFree (g : Guard) (h : Nat) (d : Operand) (s : State) : Host.Outcome State Fault Refusal :=
  regionWord s g h d fun i r =>
    let busy : Bool := match r.body with
      | .ring x => !x.writing.isEmpty || !x.reading.isEmpty ||
          i.team.quarters.any fun q => !((s.core q.core).ringRequests i.grp.team h).isEmpty
      | .window w => w.state == .copying
    if busy then some (1, id) else some (0, fun t => { t with regions := t.regions.filter fun r => r.handle ≠ h })

/-! ## RACQ, RPUB and RREL (R260 to R262) -/

/-- A ring word's shape: the ring, the executing lanes and the budget of `ds`. -/
def ringWord (s : State) (g : Guard) (h : Nat) (ds : List Operand) (f : Issue → Ring → Word → Nat → Done) :
    Host.Outcome State Fault Refusal :=
  onIssue s fun i =>
    let X := i.lanes g
    match lowLane X, i.team.ring? h, i.budget X ds with
    | none, _, _ => .next s
    | some _, none, _ => .trap (i.trap 0x03 X) s
    | some _, some _, some t => .trap t s
    | some l, some r, none => f i r X l

/-- RACQ's answer in `d`. -/
def State.ringAnswer (s : State) (i : Issue) (X : Word) (d : Operand) (v : Word) : Done :=
  .next (s.modGroup i.key fun g => g.put32 d X fun _ => v)

/-- RACQ.fill. -/
def execRacqFill (g : Guard) (h : Nat) (try_ : Bool) (d : Operand) (s : State) : Host.Outcome State Fault Refusal :=
  ringWord s g h [d] fun i r X _ =>
    if r.state = .broken then s.ringAnswer i X d 0xFFFFFFFD
    else if 0 < r.filled then
      let (x, r') := r.fillAcquire
      (s.modTeam i.grp.team fun t => t.setRing h r').ringAnswer i X d (BitVec.ofNat 32 x)
    else if r.state = .closed then s.ringAnswer i X d 0xFFFFFFFE
    else if try_ then s.ringAnswer i X d 0xFFFFFFFF
    else .park .reissue s

/-- RACQ.free: groups and requests are served in the order in which they arrive (R251). -/
def execRacqFree (g : Guard) (h : Nat) (try_ : Bool) (d : Operand) (s : State) : Host.Outcome State Fault Refusal :=
  ringWord s g h [d] fun i r X _ =>
    let me : Acquirer := .group i.grp.gidx
    let first := r.waiters.isEmpty || r.waiters.head? = some me
    if r.state = .broken then s.ringAnswer i X d 0xFFFFFFFD
    else if r.state = .closed then s.ringAnswer i X d 0xFFFFFFFE
    else if 0 < r.free && first then
      let (x, r') := r.freeAcquire me
      (s.modTeam i.grp.team fun t => t.setRing h r').ringAnswer i X d (BitVec.ofNat 32 x)
    else if try_ then s.ringAnswer i X d 0xFFFFFFFF
    else
      .park .reissue (s.modTeam i.grp.team fun t =>
        t.setRing h { r with waiters := if me ∈ r.waiters then r.waiters else r.waiters ++ [me] })

/-- RPUB: the group's earlier accesses have performed, then the slot is published; the ring may close (R252, R261). -/
def execRpub (g : Guard) (h : Nat) (a : Operand) (s : State) : Host.Outcome State Fault Refusal :=
  ringWord s g h [] fun i r X l =>
    let x := (i.srcN a l).toNat
    if r.state = .broken then .next s
    else if !(r.writing.any fun p : Nat × Acquirer => p.1 == x && (match p.2 with | .group _ => true | .request _ _ => false)) then
      .trap (i.trap 0x03 X (BitVec.ofNat 32 x)) s
    else if !i.grp.quiet then .park .reissue s
    else
      .next (s.modTeam i.grp.team fun t =>
        let t := t.setRing h (r.publish x)
        closeRings s t i.grp.team t.roleExited)

/-- RREL: the group's earlier loads have completed, then the slot is released. -/
def execRrel (g : Guard) (h : Nat) (a : Operand) (s : State) : Host.Outcome State Fault Refusal :=
  ringWord s g h [] fun i r X l =>
    let x := (i.srcN a l).toNat
    if r.state = .broken then .next s
    else if !(r.reading.any fun y => y == x) then .trap (i.trap 0x03 X (BitVec.ofNat 32 x)) s
    else if !i.grp.quiet then .park .reissue s
    else .next (s.modTeam i.grp.team fun t => t.setRing h (r.release x))

/-! ## Requests -/

/-- Request `id` of a core. -/
def Core.request? (c : Core) (id : Nat) : Option Request := c.requests.find? fun r => r.id == id

/-- A request of a core replaced. -/
def State.setRequest (s : State) (core : Nat) (r : Request) : State :=
  s.modCore core fun c => { c with requests := c.requests.map fun x => if x.id = r.id then r else x }

/-- The ring that a request writes into, with its region. -/
def Team.requestRing (t : Team) (r : Request) : Option (Region × Ring) :=
  let h := recDst r.record % 16
  match t.region? h, t.ring? h with
  | some g, some x => some (g, x)
  | _, _ => none

/-- A walk fault (R247, R410): the request stops, and its group or the lowest live one takes the trap; with no group live it is cancelled
and only the report is made. -/
def State.walkFault (s : State) (core : Nat) (r : Request) (code va : Nat) (dst : Bool) : State :=
  let st := if code = pageFault then 4 else if dst then 2 else 1
  let info : Word := BitVec.ofNat 32 (r.num + st * 256 + (if dst then 5 else 4) * 4096)
  let addr : DWord := BitVec.ofNat 64 va
  (s.setRequest core { r with phase := .stopped addr info }).raiseHeld core r.team r.gidx { code := 0x20, addr, info }

/-- A stopped request. -/
def Request.isStopped (r : Request) : Bool :=
  match r.phase with
  | .stopped _ _ => true
  | _ => false

/-! ## One step (R242, R244, R245) -/

/-- The place of the element at dense place `x`: none for fill; or the cause and the address that fails. A source in the scratch aperture
is the issuing team's own (R255). -/
def State.elementLoc (s : State) (core : Nat) (t : Team) (d : List DWord) (x : Nat) : Except (Nat × Nat) (Option Loc) :=
  match recElement d x with
  | none => .ok none
  | some va =>
    match apertureOff va with
    | some o =>
      match t.quarterOn core with
      | some q => if t.allocBytes core < o + recEsz d then .error (accessFault, va) else .ok (some (q.scratch o))
      | none => .error (accessFault, va)
    | none =>
      match s.engineLoc (some core) t.ctx { r := true } va (recEsz d) with
      | .ok loc => .ok (some loc)
      | .error (code, _) => .error (code, va)

/-- The bytes of `k` elements from dense place `x` on. -/
def State.elements (s : State) (core : Nat) (t : Team) (d : List DWord) (x : Nat) : Nat → Except (Nat × Nat) (List Byte)
  | 0 => .ok []
  | k + 1 =>
    match s.elementLoc core t d x with
    | .error e => .error e
    | .ok loc =>
      let bs := match loc with
        | some loc => s.readLoc loc (recEsz d)
        | none => recFill d
      match s.elements core t d (x + 1) k with
      | .ok rest => .ok (bs ++ rest)
      | .error e => .error e

/-- Bytes written to global memory from `va` on, an element at a time (DKIND 0). -/
def State.storeGlobal (s : State) (core ctx esz va : Nat) : Nat → List Byte → Except (Nat × Nat) State
  | 0, _ => .ok s
  | k + 1, bs =>
    match s.engineLoc (some core) ctx { w := true } va esz with
    | .error (code, _) => .error (code, va)
    | .ok loc => (s.homeWrite loc (bs.take esz)).storeGlobal core ctx esz (va + esz) k (bs.drop esz)

/-- Bytes written to a group's registers from window offset `o` on: the registers are bound first; none when its budget does not
allow it (DKIND 3). -/
def Group.fillRegs (g : Group) (budget o : Nat) (bs : List Byte) : Option Group :=
  let regs := (List.range ((o + bs.length - 1) / 128 + 1 - o / 128)).map (o / 128 + ·)
  let fresh := regs.countP fun n => !g.bound n
  if g.mode ≠ .supervisor && fresh ≠ 0 && budget < g.vregs.length + fresh then none
  else
    let g := regs.foldl (fun g n => if g.bound n then g else g.setV n 0xFFFFFFFF fun _ => 0) g
    some (g.setWin o bs)

/-- How a step's writes end. -/
inductive StepEnd where
  | ok (s : State)
  | fault (code va : Nat)
  | status (n : Nat)

/-- A tile's bytes `bs` from destination byte `off` on written where DKIND says (R245). -/
def State.storeTile (s : State) (core : Nat) (r : Request) (t : Team) (off : Nat) (bs : List Byte) : StepEnd :=
  let d := r.record
  let dst := recDst d
  match recDkind d, t.quarterOn core with
  | 0, _ =>
    match s.storeGlobal core t.ctx (recEsz d) (dst + off) (bs.length / recEsz d) bs with
    | .ok s' => .ok s'
    | .error (code, va) => .fault code va
  | 1, some q => .ok (s.writeLoc (q.scratch (dst + off)) bs)
  | 2, some q =>
    .ok ((bs.foldl (fun (acc : State × Nat) b =>
      match q.opOffset acc.2 with
      | some o => (acc.1.writeLoc (.win core o) [b], acc.2 + 1)
      | none => (acc.1, acc.2 + 1)) (s, dst + off)).1)
  | 3, _ =>
    let g := dst % 64
    match (if t.live g then s.groupKey r.team g else none) with
    | none => .ok s
    | some key =>
      match s.group? key with
      | none => .ok s
      | some x =>
        match x.fillRegs (t.vregs x.role) (dst / 256 % 256 * 128 + off) bs with
        | some x' => .ok (s.setGroup key x')
        | none => .status 3
  | 4, _ =>
    match t.requestRing r, r.slot with
    | some (g, x), some k =>
      match t.quarterOn g.core with
      | some q => .ok (s.writeLoc (q.scratch (x.base + k * x.slotSz + off)) bs)
      | none => .ok s
    | _, _ => .ok s
  | _, _ => .ok s

/-- Barrier bytes posted for CKIND 1 (R246). -/
def State.postBytes (s : State) (core : Nat) (r : Request) (t : Team) (n : Nat) : State :=
  if recCkind r.record ≠ 1 then s
  else
    match t.quarterOn core with
    | some q => s.barStep q (recComp r.record) fun o => o.post (BitVec.ofNat 64 n)
    | none => s

/-- A request whose last step has retired ends: its counter add, its slot's publication, its locks and its place (R246, R251, R255). A
window's copy waits for WINDOW_COPY_END. -/
def State.finishRequest (s : State) (core : Nat) (r : Request) (t : Team) : State :=
  if r.window.isSome then s.setRequest core r
  else
    let ended (s : State) : State :=
      let s := s.modCore core fun c => c.dropRequest r.id
      match (if recDkind r.record = 4 then t.requestRing r else none), r.slot with
      | some (_, x), some k =>
        s.modTeam r.team fun t =>
          let t := t.setRing (recDst r.record % 16) (x.publish k)
          closeRings s t r.team t.roleExited
      | _, _ => s
    if recCkind r.record ≠ 2 then ended s
    else
      match s.engineAdd (some core) t.ctx (recComp r.record) (recBytes r.record) with
      | .ok s' => ended s'
      | .error (code, _, va) =>
        if code = pageFault then (s.setRequest core r).walkFault core r code va true
        else s.endRequest core r 2

/-- The retirement of a request's next step. -/
def State.retireStep (s : State) (core : Nat) (r : Request) (t : Team) : State :=
  let d := r.record
  let T := recBytes d
  let n := min 4096 (T - r.done)
  if T ≤ r.done then s.finishRequest core r t
  else
    match s.elements core t d (r.done / recEsz d) (n / recEsz d) with
    | .error (code, va) => s.walkFault core r code va false
    | .ok bs =>
      match s.storeTile core r t r.done bs with
      | .fault code va => s.walkFault core r code va true
      | .status k => s.endRequest core r k
      | .ok s =>
        let r := { r with done := r.done + n, phase := .running }
        let s := (s.setRequest core r).postBytes core r t n
        if r.done < T then s
        else
          match s.team? r.team with
          | some t => s.finishRequest core r t
          | none => s

/-! ## Sliced multicast (R250) -/

/-- Two teams of one grid; every launch of a picture is a grid of its own (R87). -/
def Team.sameGrid (t u : Team) : Bool := u.ctx == t.ctx && u.cardIdx == t.cardIdx && u.launch == t.launch

/-- The request of a multicast's member core, with the core that holds it now and its team (R248, R250). -/
def State.castMember (s : State) (t : Team) (d : List DWord) (member : Nat) : Option (Nat × Request × Team) :=
  s.cores.findSome? fun p : Nat × Core => p.2.requests.findSome? fun r =>
    match s.team? r.team with
    | some u =>
      if recMc r.record && r.window.isNone && r.member == member && t.sameGrid u && recMcBase r.record == recMcBase d &&
          recMcMask r.record == recMcMask d && recMcSeq r.record == recMcSeq d then some (p.1, r, u) else none
    | none => none

/-- Every member's request, in rank order, once all have issued. -/
def State.castAll (s : State) (t : Team) (d : List DWord) : Option (List (Nat × Request × Team)) :=
  (mcCores d).mapM fun c => s.castMember t d c

/-- A team of the grid that may still issue a request on a core: it is there, or waits to be placed there. -/
def Team.mayJoin (t u : Team) (core : Nat) : Bool :=
  t.sameGrid u && match u.phase with
    | .ended => false
    | .saved _ => true
    | .dealt => u.home.all fun w => (coresAt u.card w).contains core
    | _ => u.quarters.any fun q => q.core == core

/-- A multicast request that has not begun has lost a member: on some member core whose request has not been issued a team of the grid has
ended, and none is left to issue it (R250; log 35). -/
def State.castLost (s : State) (t : Team) (r : Request) : Bool :=
  let left (c : Nat) : Bool := s.grids.any fun g =>
    g.ctx == t.ctx && g.cardIdx == t.cardIdx && t.launch.isNone && g.left.contains c && cardArgCount g.card ≤ g.dealt
  recMc r.record && r.window.isNone && r.phase = .waiting && r.done = 0 && r.arrived.isEmpty &&
    (mcCores r.record).any fun c =>
      left c && (s.castMember t r.record c).isNone && s.teams.all fun p : Nat × Team => !t.mayJoin p.2 c

/-- The members of a multicast that have begun and whose requests have not ended, in rank order. -/
def State.castPresent (s : State) (t : Team) (d : List DWord) : List (Nat × Request × Team) :=
  ((mcCores d).filterMap fun c => s.castMember t d c).filter fun m => m.2.1.phase ≠ .waiting

/-- Bytes [lo, hi) of the slice of rank `rank` (R250). -/
def castSlice (d : List DWord) (rank : Nat) : Nat × Nat :=
  let T := recBytes d
  let S := ceilDiv T (128 * (mcCores d).length) * 128
  (min T (rank * S), min T ((rank + 1) * S))

/-- Rank of a member (R250). -/
def Request.rank (r : Request) : Nat := (mcCores r.record).countP (· < r.member)

/-- Bytes that have arrived at a request of the slice of a rank. -/
def Request.has (r : Request) (rank : Nat) : Nat := tabGet r.arrived rank 0

/-- What a member moves next: the bytes from a destination offset on, within its slice and one walk step (R242, R250); none once its slice is
moved. -/
def Request.castNext (r : Request) : Option (Nat × Nat) :=
  let (lo, hi) := castSlice r.record r.rank
  let pos := lo + r.has r.rank
  if hi ≤ pos then none else some (pos, min (4096 - pos % 4096) (hi - pos))

/-- Destination bytes from the first on that have all arrived. -/
def Request.prefixLen (r : Request) : Nat :=
  ((List.range (mcCores r.record).length).find? fun k =>
    let (lo, hi) := castSlice r.record k
    r.has k < hi - lo).elim (recBytes r.record) fun k => (castSlice r.record k).1 + r.has k

/-- DONE of a multicast request: the bytes of its steps that have retired, each once all its bytes have arrived (R242). -/
def Request.castDone (r : Request) : Nat :=
  let n := r.prefixLen
  if n = recBytes r.record then n else n / 4096 * 4096

/-- Bytes of a member's slice written into one member's destination; a member to which every slice has arrived completes with all T bytes. -/
def State.deliver (s : State) (m : Nat × Request × Team) (rank off : Nat) (bs : List Byte) : State :=
  let (core, r, t) := m
  match s.storeTile core r t off bs with
  | .ok s =>
    let r := { r with arrived := tabSet r.arrived rank (r.has rank + bs.length) }
    let r := { r with done := r.castDone }
    let s := s.setRequest core r
    if r.done < recBytes r.record then s
    else
      let s := s.postBytes core r t r.done
      match s.team? r.team with
      | some t => s.finishRequest core r t
      | none => s
  | _ => s

/-- A loop on a core reads an operand slot that `n` bytes from `off` on of a request's destination lie in (R283). -/
def State.slotsRead (s : State) (core : Nat) (r : Request) (off n : Nat) : Bool :=
  let lo := recDst r.record + off
  recDkind r.record = 2 && (s.core core).loopReads r.team ((List.range ((lo + n - 1) / 8192 + 1 - lo / 8192)).map (lo / 8192 + ·))

/-- A member moves the next bytes of its slice into the destination of every member whose request has not ended, which waits while a loop on the
core of one reads the slots there (R242, R250, R283; log 35). The multicast begins once every member has issued. -/
def State.castStep (s : State) (core : Nat) (r : Request) (t : Team) : Option State :=
  let d := r.record
  if recBytes d ≤ r.done then some (s.finishRequest core r t)
  else if s.castLost t r then some (s.endRequest core r 5)
  else if r.phase = .waiting then
    (s.castAll t d).map fun ms => ms.foldl (fun s m => s.setRequest m.1 { m.2.1 with phase := .running }) s
  else
    match r.castNext with
    | none => none
    | some (off, n) =>
      let ms := s.castPresent t d
      if ms.any fun m => s.slotsRead m.1 m.2.1 off n then none
      else
        match s.elements core t d (off / recEsz d) (n / recEsz d) with
        | .error (code, va) => some (s.walkFault core r code va false)
        | .ok bs => some (ms.foldl (fun s m => s.deliver m r.rank off bs) s)

/-- The multicast requests that have lost a member end with STATUS 5 (R247, R250). -/
def State.castLeave (s : State) : State :=
  let lost := s.cores.flatMap fun p : Nat × Core => p.2.requests.filterMap fun r =>
    match s.team? r.team with
    | some u => if s.castLost u r then some (p.1, r) else none
    | none => none
  lost.foldl (fun s r => s.endRequest r.1 r.2 5) s

/-! ## The events -/

/-- A request may take a step: it is not stopped, its slot is acquired, and no loop reads the slots it writes (R283). -/
def State.mayWalk (s : State) (core : Nat) (r : Request) : Bool :=
  let d := r.record
  !r.isStopped && (r.window.isNone || r.done < recBytes d) && (recDkind d ≠ 4 || r.slot.isSome) &&
    (recMc d || !s.slotsRead core r r.done (min 4096 (recBytes d - r.done)))

/-- The next step of a request, when it may be taken. -/
def State.walkStep (s : State) (core req : Nat) : Option State :=
  match (s.core core).request? req with
  | none => none
  | some r =>
    match s.team? r.team with
    | none => none
    | some t =>
      if !s.mayWalk core r then none
      else if recMc r.record then s.castStep core r t
      else some (s.retireStep core r t)

/-- WALK_STEP_RETIRE (R242). -/
def execWalkStepRetire (core req : Nat) (s : State) : Host.Outcome State Fault Refusal := onEvent s (s.walkStep core req)

/-- A DKIND 4 request's free-acquire (R251, R252, R255). -/
def State.acquireSlot (s : State) (core req : Nat) : Option State :=
  match (s.core core).request? req with
  | none => none
  | some r =>
    match s.team? r.team with
    | none => none
    | some t =>
      match (if recDkind r.record = 4 && r.slot.isNone then t.requestRing r else none) with
      | none => none
      | some (_, g) =>
        let me : Acquirer := .request core req
        if g.state ≠ .opened then some (s.endRequest core r 4)
        else if g.free = 0 || g.waiters.head? ≠ some me then none
        else
          let (x, g') := g.freeAcquire me
          let lo := g.base + x * g.slotSz
          let s := (s.setRequest core { r with slot := some x }).modTeam r.team fun t => t.setRing (recDst r.record % 16) g'
          some (s.modCore core fun c =>
            { c with locks := c.locks.map fun k =>
                if k.owner = .request req then
                  { k with ranges := { space := .scratch r.team, lo, hi := lo + g.slotSz - 1, dest := true } :: k.ranges }
                else k })

/-- RING_ACQUIRE_REQUEST (R251). -/
def execRingAcquireRequest (core req : Nat) (s : State) : Host.Outcome State Fault Refusal := onEvent s (s.acquireSlot core req)

/-- The end of a demand window's copy (R253). -/
def State.copyEnd (s : State) (core req : Nat) : Option State :=
  match (s.core core).request? req with
  | none => none
  | some r =>
    match r.window with
    | none => none
    | some h =>
      if r.done < recBytes r.record then none
      else
        some ((s.modCore core fun c => c.dropRequest req).modTeam r.team fun t =>
          match t.window? h with
          | some w => t.setWindow h { w with state := .present }
          | none => t)

/-- WINDOW_COPY_END (R253). -/
def execWindowCopyEnd (core req : Nat) (s : State) : Host.Outcome State Fault Refusal := onEvent s (s.copyEnd core req)

/-- The stopped request that a WALKACT write on a core names by its number: one of the writer's team, on this core or else on another of its cores,
before one of another team (R410; log 90). -/
def State.walkNamed (s : State) (core : Nat) (writer : Option Nat) (num : Nat) : Option (Nat × Request) :=
  let here (c : Nat) (own : Bool) : Option (Nat × Request) :=
    ((s.core c).requests.find? fun r => r.num = num && r.isStopped && (!own || writer = some r.team)).map fun r => (c, r)
  let cores := ((writer.bind s.team?).map fun t => t.quarters.map Quarter.core).getD []
  ((core :: cores).findSome? fun c => here c true).or (here core false)

/-- A WALKACT write: a stopped request goes on at its faulting step, or ends with the STATUS of its TINFO (R410). -/
def State.walkAct (s : State) (core : Nat) (writer : Option Nat) (num : Nat) (resume : Bool) : Option State :=
  match s.walkNamed core writer num with
  | none => none
  | some (c, r) =>
    match r.phase with
    | .stopped _ info =>
      some (if resume then s.setRequest c { r with phase := .running } else s.endRequest c r (bits info 11 8))
    | _ => none

/-- WALKACT_RESUME (R410). -/
def execWalkactResume (core req : Nat) (s : State) : Host.Outcome State Fault Refusal := onEvent s (s.walkAct core none req true)

/-- WALKACT_END (R410). -/
def execWalkactEnd (core req : Nat) (s : State) : Host.Outcome State Fault Refusal := onEvent s (s.walkAct core none req false)

end Sys2Proof.Machine
end

