-- ==== Sys2Proof/Machine/Queues.lean ====
section
/-! DEFINITION. Queues and the dispatcher: doorbells, CTRL, hardware queue slots, the card check, dealing, the end of a team, retirement,
the call sheet and LAUNCH (R14 to R19, R25 to R27, R50 to R66, R209, R216, R427). -/

namespace Sys2Proof.Machine

/-! ## Queue records (R50) -/

/-- QTBASE, SPILLBASE and CTXTAB have been written (R216). -/
def State.dispatches (s : State) : Bool := s.csr.qtbaseSet && s.csr.spillbaseSet && s.csr.ctxtabSet

/-- The device serves the doorbell aperture: it is not in RECOVERY (R441). -/
def State.serves (s : State) : Bool := s.boot ≠ .recovery

def State.qHead (s : State) (q : Nat) : Nat := (s.queueWord q 2).toNat
def State.qTail (s : State) (q : Nat) : Nat := (s.queueWord q 3).toNat
def State.qProgress (s : State) (q : Nat) : Nat := (s.queueWord q 4).toNat
def State.qAllow (s : State) (q : Nat) : Nat := bits (s.queueWord q 5) 63 32
def State.qRelmark (s : State) (q : Nat) : Nat := (s.queueWord q 6).toNat
def State.qFlag (s : State) (q n : Nat) : Bool := bit (s.queueWord q 1) n
def State.qPrio (s : State) (q : Nat) : Nat := bits (s.queueWord q 1) 10 8
def State.qSize (s : State) (q : Nat) : Nat := 2 ^ bits (s.queueWord q 1) 4 0

/-- A field of doubleword `k` of a record written. -/
def State.setQ (s : State) (q k hi lo v : Nat) : State := s.setQueueWord q k (setField (s.queueWord q k) hi lo v)

/-- Virtual address of ring position `j` of a queue (R50). -/
def State.ringVa (s : State) (q j : Nat) : Nat := (s.queueWord q 0).toNat + j % s.qSize q * 128

/-- DBIGN counts an ignored doorbell (R50, R59). That the 32-bit count wraps is the model's choice (log 78). -/
def State.ignoreBell (s : State) (q : Nat) : State := s.setQ q 7 63 32 (bits (s.queueWord q 7) 63 32 + 1)

/-- SKIPS counts a skipped release, and saturates (R50). -/
def State.skipRelease (s : State) (q : Nat) : State := s.setQ q 7 31 16 (min 0xFFFF (bits (s.queueWord q 7) 31 16 + 1))

/-- A release of cards (R64). That the 32-bit ALLOW wraps is the model's choice (log 78). -/
def State.release (s : State) (q count : Nat) : State :=
  let s := s.setQ q 5 63 32 (s.qAllow q + count)
  s.setQueueWord q 6 (BitVec.ofNat 64 (s.qHead q + s.qAllow q))

/-! ## Retirement (R52, R64) -/

/-- PROGRESS past every card that has retired. -/
def State.progressLoop : Nat → State → Nat → State
  | 0, s, _ => s
  | k + 1, s, q =>
    let p := s.qProgress q
    if s.retired.contains (q, p) then
      State.progressLoop k ({ s with retired := s.retired.filter (· ≠ (q, p)) }.setQueueWord q 4 (BitVec.ofNat 64 (p + 1))) q
    else s

/-- A card retires: PROGRESS advances, and a deferred release is made at the instant PROGRESS reaches RELMARK. -/
def State.retireCard (s : State) (q idx : Nat) : State :=
  let s := { s with retired := s.retired ++ [(q, idx)], ahead := s.ahead.filter fun a => !(a.queue = q && a.card = idx) }
  let s := State.progressLoop (s.retired.length + 1) s q
  if bit (s.queueWord q 7) 0 && s.qRelmark q ≤ s.qProgress q then
    (s.release q (tabGet s.deferred q 1)).setQ q 7 0 0 0
  else s

/-! ## The doorbell aperture (R51, R56, R57, R59, R60) -/

/-- A doorbell write (R59). -/
def State.doorbell (s : State) (q w : Nat) : Option State :=
  if !(s.serves && s.dispatches && q < Config.numQueues) then none
  else if !s.qFlag q 16 || s.qFlag q 18 then some (s.ignoreBell q)
  else if w ≤ s.qTail q then none
  else if s.qProgress q + s.qSize q < w then some ((s.setQ q 1 21 21 1).ignoreBell q)
  else some (s.setQueueWord q 3 (BitVec.ofNat 64 w))

/-- DOORBELL (R59). -/
def execDoorbell (q : Nat) (w : DWord) (s : State) : Host.Outcome State Fault Refusal := onEvent s (s.doorbell q w.toNat)

/-- PROGRESS_READ (R60): never below a value returned before. -/
def execProgressRead (q : Nat) (s : State) : Host.Outcome State Fault Refusal :=
  onEvent s (if !(s.serves && q < Config.numQueues) then some { s with hostReply := 0 }
    else
      let v := if s.csr.qtbaseSet then max (s.qProgress q) (tabGet s.progressRead q 0) else 0
      some { s with hostReply := BitVec.ofNat 64 v, progressRead := tabSet s.progressRead q v })

/-- PRIO_WRITE (R56, R57). -/
def execPrioWrite (q : Nat) (w : DWord) (s : State) : Host.Outcome State Fault Refusal :=
  onEvent s (if s.serves && s.dispatches && q < Config.numQueues then some (s.setQ q 1 10 8 (bits w 2 0)) else none)

/-- A context-table entry with a non-zero `zero` field (R219). -/
def State.ctxBad (s : State) (ctx : Nat) : Bool :=
  let w (k : Nat) : DWord := read64 s.mem (s.ctxEntry ctx + 8 * k)
  bits (w 0) 63 46 ≠ 0 || bits (w 0) 11 0 ≠ 0 || bits (w 1) 63 16 ≠ 0 || bits (w 2) 63 5 ≠ 0 || w 3 ≠ 0

/-- A record or context that makes the enable fail (R51, R219). -/
def State.recordFails (s : State) (q : Nat) : Bool :=
  let w0 := s.queueWord q 0
  let w1 := s.queueWord q 1
  bits w0 63 49 ≠ 0 || bits w0 6 0 ≠ 0 || bits w1 27 24 ≠ 0 || bit w1 20 || bits w1 15 11 ≠ 0 || bits w1 7 5 ≠ 0 ||
  16 < bits w1 4 0 || bits (s.queueWord q 5) 31 0 ≠ 0 || bits (s.queueWord q 7) 15 1 ≠ 0 || s.ctxBad q

/-- A CTRL write is served for queue `q`. -/
def State.ctrl (s : State) (q : Nat) (f : State) : Option State :=
  if s.serves && s.dispatches && q < Config.numQueues then some f else none

/-- CTRL_ENABLE: value 1. -/
def execCtrlEnable (q : Nat) (s : State) : Host.Outcome State Fault Refusal :=
  onEvent s (s.ctrl q (if s.qFlag q 16 then s else if s.recordFails q then s.setQ q 1 31 28 1 else s.setQ q 1 16 16 1))

/-- What a disable does (R57). -/
def State.disable (s : State) (q : Nat) : State := s.setQ q 1 16 16 0

/-- CTRL_DISABLE: value 2. -/
def execCtrlDisable (q : Nat) (s : State) : Host.Outcome State Fault Refusal := onEvent s (s.ctrl q (s.disable q))

/-- STOPPED and STOPCODE cleared. -/
def State.clearStop (s : State) (q : Nat) : State := (s.setQ q 1 23 23 0).setQ q 1 31 28 0

/-- CTRL_RESUME: value 3. Card HEAD is read anew, with nothing of it taken before (R57). -/
def execCtrlResume (q : Nat) (s : State) : Host.Outcome State Fault Refusal :=
  onEvent s (s.ctrl q (
    let h := s.qHead q
    { s.clearStop q with ahead := s.ahead.filter fun a => !(a.queue = q && a.card = h) }))

/-- CTRL_SKIP: value 4, card HEAD retired unread. -/
def execCtrlSkip (q : Nat) (s : State) : Host.Outcome State Fault Refusal :=
  onEvent s (s.ctrl q (
    let h := s.qHead q
    let s := if h < s.qTail q then (s.setQueueWord q 2 (BitVec.ofNat 64 (h + 1))).retireCard q h else s
    s.clearStop q))

/-- CTRL_CLEAR: value 5, FAIL, OVF and DBIGN. -/
def execCtrlClear (q : Nat) (s : State) : Host.Outcome State Fault Refusal :=
  onEvent s (s.ctrl q (((s.setQ q 1 22 22 0).setQ q 1 21 21 0).setQ q 7 63 32 0))

/-! ## The card check (R14) -/

/-- The roles of a card. -/
def cardRoleList (c : List DWord) : List Nat := List.range (cardRoles c)

/-- The card-check code: the first check that fails, 0 when none does (R14). -/
def cardCode (c : List DWord) : Nat :=
  let w (k : Nat) : DWord := dwordAt c k
  let roles := cardRoleList c
  let zeros := bits (w 2) 31 21 ≠ 0 || bits (w 2) 15 0 ≠ 0 || bits (w 4) 59 52 ≠ 0 || bits (w 4) 47 45 ≠ 0 || bit (w 4) 39 ||
    bit (w 4) 26 || bits (w 4) 15 0 ≠ 0 || bits (w 5) 31 0 ≠ 0 || roles.any (fun k => bits (w (6 + k)) 23 0 ≠ 0) ||
    [0, 1, 2, 3].any (fun k => !roles.contains k && w (6 + k) ≠ 0) || ((List.range 6).any fun k => w (10 + k) ≠ 0)
  let sum := cardGroupSum c
  if zeros then 1
  else if bits (w 0) 63 49 ≠ 0 || bits (w 0) 5 0 ≠ 0 || roles.any (fun k => 2 ^ 49 ≤ cardEntry c + cardEofs c k * 64) then 2
  else if 16 < cardArgSize c || (cardArgSize c ≠ 0 && (bits (w 1) 63 49 ≠ 0 || bits (w 1) 3 0 ≠ 0 ||
      2 ^ 49 < cardArgBase c + cardArgCount c * cardArgSize c * 16)) then 3
  else if 16777216 < cardArgCount c then 4
  else if bits (w 3) 63 49 ≠ 0 || bits (w 3) 2 0 ≠ 0 then 5
  else if roles.any fun k => cardGroups c k = 0 || cardVregs c k = 0 || 192 < cardVregs c k then 6
  else if (if cardStrTeam c then decide (64 < sum) || roles.any (fun k => cardGroups c k % 4 ≠ 0) else decide (16 < sum)) then 7
  else if 640 < cardScratch c || 16 < cardEvents c || 8 < cardTags c || 64 < cardOpSlots c || 16 < cardAcct c then 8
  else 0

/-! ## Reading cards (R52, R53) -/

/-- The grid of a queue that still has records to deal. -/
def State.undealt (s : State) (q : Nat) : Option Grid :=
  s.grids.find? fun g => g.ctx == q && g.dealt < cardArgCount g.card

/-- The read condition of R53, but for residency. After a skip card HEAD - 1 is the skipped one, which has no records: an older card that is still
being dealt is dealt to its end before card HEAD is read, and the queue is runnable for it, the model's choice (log 88). -/
def State.canRead (s : State) (q : Nat) : Bool :=
  s.qFlag q 16 && !s.qFlag q 23 && decide (s.qHead q < s.qTail q) && (!s.qFlag q 17 || decide (0 < s.qAllow q)) &&
    (!s.qFlag q 19 || s.qProgress q == s.qHead q) && (s.undealt q).isNone

/-- A queue is runnable (R54). -/
def State.runnable (s : State) (q : Nat) : Bool :=
  s.qFlag q 16 && !s.qFlag q 23 && ((s.undealt q).isSome || s.canRead q)

/-- A word of a card, or of one of its records, is taken for when the device uses it, any time between the card's publication and its retirement:
of what software changes meanwhile the device so sees the old or the new value word by word (R22, R61; log 82). -/
def State.readAhead (s : State) (q j va : Nat) : State :=
  if q < Config.numQueues && s.qProgress q ≤ j && j < s.qTail q && !s.ahead.any (fun a => a.queue = q && a.card = j && a.va = va) then
    match s.engineRead none q va 4 with
    | .ok x => { s with ahead := s.ahead ++ [{ queue := q, card := j, va, word := BitVec.ofNat 32 x }] }
    | .error _ => s
  else s

/-- Card HEAD of a queue read and checked, each of its words as taken then or before (R14, R53, R61; log 82). -/
def State.cardRead (s : State) (q : Nat) : Option State :=
  if !(s.dispatches && s.resident.contains q && s.canRead q) then none
  else
    let h := s.qHead q
    match s.readCardWords none q h (s.ringVa q h) 16 with
    | .error _ => some (s.stopQueue q 9)
    | .ok card =>
      let code := cardCode card
      if code ≠ 0 then some (s.stopQueue q code)
      else
        let s := if s.qFlag q 17 then s.setQ q 5 63 32 (s.qAllow q - 1) else s
        let s := s.setQueueWord q 2 (BitVec.ofNat 64 (h + 1))
        let urgent := s.urgentCards.contains (q, h)
        let s := { s with urgentCards := s.urgentCards.filter (· ≠ (q, h)) }
        if cardArgCount card = 0 then some (s.retireCard q h)
        else some { s with grids := s.grids ++ [{ ctx := q, cardIdx := h, card, urgent }] }

/-- CARD_READ (R53). -/
def execCardRead (q : Nat) (s : State) : Host.Outcome State Fault Refusal := onEvent s (s.cardRead q)

/-! ## Hardware queue slots (R54) -/

/-- Order of service: highest priority, then round-robin in queue number after `rr`. -/
def State.serveKey (s : State) (rr q : Nat) : Nat := (7 - s.qPrio q) * 4096 + (q + 4095 - rr) % 4096

/-- Runnable queues that are out are switched in: into free slots, or in place of the lowest-priority resident. -/
def State.switchIn (s : State) : List Nat → List Nat → List Nat
  | res, [] => res
  | res, q :: rest =>
    if res.length < 64 then s.switchIn (res ++ [q]) rest
    else
      match argMin (fun x => s.qPrio x) res with
      | some low => if s.qPrio low < s.qPrio q then s.switchIn (res.filter (· ≠ low) ++ [q]) rest else res
      | none => res

/-- The queues that should be resident. -/
def State.wantResident (s : State) : List Nat :=
  let stay := s.resident.filter s.runnable
  let out := (List.range Config.numQueues).filter fun q => !stay.contains q && s.runnable q
  s.switchIn stay (sortBy (s.serveKey s.rrSwitch) out)

/-- QUEUE_SWITCH (R54). -/
def State.queueSwitch (s : State) : Option State :=
  if !s.dispatches then none
  else
    let res := s.wantResident
    if res = s.resident then none
    else
      let last := (res.filter fun q => !s.resident.contains q).getLast?.getD s.rrSwitch
      some { s with resident := res, rrSwitch := last }

def execQueueSwitch (s : State) : Host.Outcome State Fault Refusal := onEvent s s.queueSwitch

/-! ## Dealing (R17 to R19, R55, R56) -/

/-- A number for a new team: the next whose low 32 bits name no team that the device holds (R24). -/
def State.freeTeamNumber (s : State) : Nat :=
  (((List.range (s.teams.length + 1)).map (s.nextTeam + ·)).find? fun k => s.teams.all fun p : Nat × Team => p.2.id ≠ k % 2 ^ 32).getD s.nextTeam

/-- A new team, waiting to be placed. -/
def State.addTeam (s : State) (t : Nat → Team) : State :=
  let k := s.freeTeamNumber
  { s with nextTeam := k + 1, teams := tabSet s.teams k (t k), pending := s.pending ++ [k] }

/-- Records of a chunk dealt to one core or string. -/
def State.dealTeams (s : State) (g : Grid) (w prio chunk first : Nat) : Nat → State
  | 0 => s
  | n + 1 =>
    (s.addTeam fun k =>
      { id := k % 2 ^ 32, ctx := g.ctx, cardIdx := g.cardIdx, recidx := first, card := g.card, prio, urgent := g.urgent,
        home := some w, chunk }).dealTeams g w prio chunk (first + 1) n

/-- The places with room for the undealt records of a queue (R18). -/
def State.chunkRooms (s : State) (q : Nat) : List Nat :=
  match s.undealt q with
  | some g => (s.serving ⟨g.ctx, g.cardIdx, g.dealt⟩).rooms { card := g.card, kib := allocKib g.card (cardArgSize g.card * 16) }
  | none => []

/-- A retaken team of a queue waits and has room: it goes before the queue's undealt records (R419). -/
def State.retakenWaits (s : State) (q : Nat) : Bool :=
  s.teams.any fun p : Nat × Team =>
    p.2.ctx == q && p.2.phase = .dealt && p.2.home.isNone && s.waits p.1 p.2 && (s.targetOf p.1 p.2).isSome

/-- A resident queue that may be dealt from has undealt records, and C > 0 for them (R55). -/
def State.hasChunk (s : State) (q : Nat) : Bool :=
  s.dispatches && s.resident.contains q && s.qFlag q 16 && !s.qFlag q 23 && !(s.chunkRooms q).isEmpty

/-- A chunk of a queue may be dealt: no retaken team goes before it (R55, R419). -/
def State.mayDeal (s : State) (q : Nat) : Bool := s.hasChunk q && !s.retakenWaits q

/-- Where a team that waits for any place comes from: its queue, or, numbered after the queues, the launch queue of a classify engine (R55, R84,
R87). -/
def State.sourceOf (s : State) (t : Team) : Nat :=
  match t.launch.bind (tabGet? s.launches) with
  | some l => Config.numQueues + l.engine
  | none => t.ctx

/-- Its priority: that sampled when it was dealt; a retaken team goes ahead of its queue's undealt chunks, so it waits no longer than they do
(R56, R84, R419). -/
def State.waitPrio (s : State) (t : Team) : Nat :=
  if t.ctx < Config.numQueues && t.home.isNone && s.hasChunk t.ctx then max t.prio (s.qPrio t.ctx) else t.prio

/-- Order in which what waits is served: by priority, and at equal priority round-robin over queues and launch queues after the one served last
(R55, R84; log 57). -/
def State.turnKey (s : State) (prio src : Nat) : Nat := (7 - prio) * 8192 + 1 + (src + Config.numQueues + 8 - s.rrDeal) % (Config.numQueues + 9)

/-- The highest priority of a saved team that may be restored and has a place: the saved teams go ahead of chunks of that priority or lower, in
the order in which they were saved (R424; log 57). -/
def State.savedPrio (s : State) : Option Nat :=
  let ps := s.images.filterMap fun m => match s.team? m.team with
    | some t => if s.restorable m.team t then some t.prio else none
    | none => none
  if ps.isEmpty then none else some (ps.foldl max 0)

/-- Order of the saved teams among what waits: ahead of every chunk of their priority. -/
def savedKeyAt (prio : Nat) : Nat := (7 - prio) * 8192

/-- The orders of all that waits and has a place (R19, R55, R56, R84, R87, R419, R424): a dealt team, whose chunk has its place already, comes
first of all. -/
def State.contenders (s : State) : List Nat :=
  (s.teams.filterMap fun p : Nat × Team =>
    if s.waits p.1 p.2 && (s.targetOf p.1 p.2).isSome then
      match p.2.phase with
      | .saved _ => none
      | _ => some (if p.2.home.isSome then 0 else s.turnKey (s.waitPrio p.2) (s.sourceOf p.2))
    else none) ++ (s.savedPrio.map savedKeyAt).toList ++
  s.resident.filterMap fun q => if s.mayDeal q then some (s.turnKey (s.qPrio q) q) else none

/-- Nothing that waits goes before `key`. -/
def State.isNext (s : State) (key : Nat) : Bool := s.contenders.all fun x => key ≤ x

/-- A team that waits for any place leaves it to those that go before it, of its own launch queue the teams that have waited longer too (R87). -/
def State.yields (s : State) (k : Nat) (t : Team) : Bool :=
  let key := s.turnKey (s.waitPrio t) (s.sourceOf t)
  t.home.isNone && (!s.isNext key || (s.pending.takeWhile (· ≠ k)).any fun j => match s.team? j with
    | some u => u.home.isNone && (s.targetOf j u).isSome && s.turnKey (s.waitPrio u) (s.sourceOf u) = key
    | none => false)

/-- The next chunk, of the highest-priority resident queue with undealt records and room (R18, R55). -/
def State.dealChunk (s : State) : Option State :=
  match s.resident.find? fun q => s.mayDeal q && s.isNext (s.turnKey (s.qPrio q) q) with
  | none => none
  | some q =>
    match s.undealt q with
    | none => none
    | some g =>
      let ws := s.chunkRooms q
      match s.bestOf g.card ws with
      | none => none
      | some w =>
        let left := cardArgCount g.card - g.dealt
        let n := clampNat 1 64 (ceilDiv left (2 * ws.length))
        let s := s.dealTeams g w (s.qPrio q) s.freeTeamNumber g.dealt n
        some { s with
          rrDeal := q
          grids := s.grids.map fun x =>
            if x.ctx = g.ctx && x.cardIdx = g.cardIdx then { x with dealt := x.dealt + n, live := x.live + n } else x }

/-- DEAL_CHUNK (R18). -/
def execDealChunk (s : State) : Host.Outcome State Fault Refusal := onEvent s s.dealChunk

/-- A waiting team placed whole from its record, once nothing that goes before it has room (R20). -/
def State.teamPlace (s : State) (k : Nat) : Option State :=
  match s.team? k with
  | none => none
  | some t =>
    if t.phase ≠ .dealt || !s.pending.contains k || s.yields k t then none
    else
      match s.targetOf k t with
      | none => none
      | some w =>
        let s : State := { s.serving t.cause with rrDeal := if t.home.isNone then s.sourceOf t else s.rrDeal }
        if !s.fitsNow (s.shapeOf k t) w then none
        else
          let n := cardGroupSum t.card
          let (qs, s) := s.newQuarters t.card t.kib w
          let s := s.setTeam k { t with
            phase := .placed, quarters := qs, fates := List.replicate n .live, regions := [], tags := List.replicate (cardTags t.card) {},
            issued := 0, placedAt := s.fresh, blocks := [] }
          let s := s.placeGroups t.card w ((List.range n).map (startGroup k t.card))
          some { s with pending := s.pending.filter (· ≠ k), fresh := s.fresh + 1 }

/-- TEAM_PLACE (R20, R108). -/
def execTeamPlace (team : Nat) (s : State) : Host.Outcome State Fault Refusal := onEvent s (s.teamPlace team)

/-! ## The end of a team (R25 to R27, R427) -/

/-- The grid of a team after it has ended: failed when it must be, at each abnormal end, retired when it was the last (R26, R27). -/
def State.gridEnd (s : State) (t : Team) (failed : Bool) : State :=
  match s.grids.find? fun g => g.ctx == t.ctx && g.cardIdx == t.cardIdx && decide (t.ctx < 4096) with
  | none => s
  | some g =>
    let s := if failed then s.failGrid g.ctx g.cardIdx else s
    let g' := { g with live := g.live - 1, failed := g.failed || failed }
    let others := s.grids.filter fun x => !(x.ctx = g.ctx && x.cardIdx = g.cardIdx)
    if g'.live = 0 && cardArgCount g'.card ≤ g'.dealt then { s with grids := others }.retireCard g.ctx g.cardIdx
    else { s with grids := s.grids.map fun x => if x.ctx = g.ctx && x.cardIdx = g.cardIdx then g' else x }

/-- The completion increment (R25); a counter that cannot be reached is reported, with CORE 0, since R407 gives that field no value where no core
reports: the model's choice (log 53). The second part says that the grid fails. -/
def State.completion (s : State) (t : Team) : Bool × State :=
  let va := cardComplete t.card
  if t.abend ≠ 0 || t.discarded then (true, s)
  else if va = 0 then (false, s)
  else
    match s.engineAdd none t.ctx va 1 with
    | .ok s => (false, s)
    | .error (_, _, a) =>
      (true, { s with fresh := s.fresh + 1 }.deviceReport
        { code := 0x26, src := Config.freeNat s.fresh % 7, ctx := t.ctx, addr := BitVec.ofNat 64 a,
          info := BitVec.ofNat 32 (t.recidx % 2 ^ 24), team := t.id })

/-- Steps 2 and 5: its requests and loops end, its resources are freed. -/
def State.endTeam (s : State) (k : Nat) (t : Team) : State :=
  let s := t.quarters.foldl (fun (s : State) (q : Quarter) =>
    let s := s.endRequests q.core 4 false fun r => r.team == k
    ((s.core q.core).loops.filter fun l => l.team == k).foldl (fun s l => s.endLoop q.core l) s) s
  let s := { s with grids := s.grids.map fun (g : Grid) =>
    if g.ctx = t.ctx && g.cardIdx = t.cardIdx then { g with left := (g.left ++ t.quarters.map Quarter.core).eraseDups } else g }
  let s := (s.vacate k).modTeam k fun t => { t with phase := .ended }
  { s with monitors := s.monitors.filter fun m => m.team ≠ k }.castLeave

/-- The end of a team whose groups have all exited or ended: its rows perform, its resources are freed, then, once no contribution of it is
parked, its counter is incremented and its grid may retire. -/
def State.teamComplete (s : State) (k : Nat) : Option State :=
  match s.team? k with
  | none => none
  | some t =>
    let placed : Bool := match t.phase with
      | .dealt | .saved _ => false
      | _ => true
    let finished := (t.phase = .ended) || (placed && t.liveGroups.isEmpty)
    let moving := s.drains.any fun d => d.team == k && !d.parked
    let parked := s.drains.any fun d => d.team == k
    if !finished || moving || (t.phase = .ended && parked) then none
    else
      let s := match t.phase with
        | .draining until_ _ =>
          if s.uptime ≤ until_ then { s with csr := { s.csr with predrains := s.csr.predrains + 1 } } else s
        | _ => s
      let s := if t.phase = .ended then s else s.endTeam k t
      if parked then some s
      else
        let (failed, s) := s.completion t
        let s := s.gridEnd t failed
        some { s with teams := tabErase s.teams k,
                      launches := match t.launch with | some n => tabErase s.launches n | none => s.launches }

/-- TEAM_COMPLETE (R25, R427). -/
def execTeamComplete (team : Nat) (s : State) : Host.Outcome State Fault Refusal := onEvent s (s.teamComplete team)

/-! ## The call sheet (R62 to R64) -/

/-- One entry of the table. -/
def sheetEntry (lo hi : DWord) : SheetEntry :=
  { valid := bit lo 63, offset := bits hi 31 0, policy := bits lo 43 42, queue := bits lo 31 20, count := bits lo 7 0 }

/-- A used entry that makes the arm fail. -/
def sheetBad (period : Nat) (lo hi : DWord) : Bool :=
  bit lo 63 && (bits hi 63 32 ≠ 0 || bits lo 62 44 ≠ 0 || bits lo 41 32 ≠ 0 || bits lo 19 8 ≠ 0 || period ≤ bits hi 31 0 ||
    bits lo 43 42 = 3 || bits lo 7 0 = 0)

/-- Start of the first period of a sheet after TIME `t`. -/
def Sheet.nextStart (x : Sheet) (t : Nat) : Nat :=
  if t < x.epoch then x.epoch else x.epoch + ((t - x.epoch) / x.period + 1) * x.period

/-- The start at which a change takes effect: the next period start of the table in use, or of the new one. -/
def State.nextStart (s : State) (x : Sheet) : Nat := (s.sheet.getD x).nextStart s.time.toNat

/-- CSCTL := 1: the table read and checked (R62). A place that is refused, code 3, counts before a bad entry, code 2 (log 78). -/
def State.armSheet (s : State) : State :=
  let base := s.csr.cstable.toNat
  let period := s.csr.csperiod.toNat
  let word (k : Nat) : DWord := BitVec.ofNat 64 (s.readPhys (base + 8 * k) 8)
  if period < 1000 || base % 16 ≠ 0 || Config.dramBytes < base + 4096 then { s with csr := { s.csr with csctl := 3 } }
  else
    match (List.range 256).find? fun e => sheetBad period (word (2 * e)) (word (2 * e + 1)) with
    | some e => { s with csr := { s.csr with csctl := BitVec.ofNat 32 (e * 256 + 2) } }
    | none =>
      let x : Sheet := { period, epoch := s.csr.csepoch.toNat,
                         entries := (List.range 256).map fun e => sheetEntry (word (2 * e)) (word (2 * e + 1)) }
      { s with csr := { s.csr with csctl := 1 }, sheetChange := .install x (s.nextStart x) }

/-- CSCTL := 0: the sheet is disarmed at the next period start. -/
def State.disarmSheet (s : State) : State :=
  { s with csr := { s.csr with csctl := 0 },
           sheetChange := match s.sheet with
             | some x => .disarm (x.nextStart s.time.toNat)
             | none => .keep }

/-- CSCTL_ARM (R62). -/
def execCsctlArm (s : State) : Host.Outcome State Fault Refusal := onEvent s (some s.armSheet)

/-- CSCTL_DISARM (R62). -/
def execCsctlDisarm (s : State) : Host.Outcome State Fault Refusal := onEvent s (some s.disarmSheet)

/-- The period number at TIME `t`, from 0. -/
def Sheet.periodAt (x : Sheet) (t : Nat) : Nat := (t - x.epoch) / x.period

/-- The TIME at which a change of the table takes effect. -/
def SheetChange.at? : SheetChange → Option Nat
  | .keep => none
  | .install _ t | .disarm t => some t

/-- The TIME up to which the table in use fires: a change that has come ends it just before its period start (R62). -/
def State.sheetClock (s : State) : Nat :=
  match s.sheetChange.at? with
  | some t => if t ≤ s.time.toNat then t - 1 else s.time.toNat
  | none => s.time.toNat

/-- The latest period an entry has reached and not fired for, with the instant at which it fell due (R63). -/
def Sheet.due (x : Sheet) (e : SheetEntry) (t : Nat) : Option (Nat × Nat) :=
  if !e.valid || t < x.epoch + e.offset then none
  else
    let n := (t - x.epoch - e.offset) / x.period
    if e.fired ≤ n then some (n, x.epoch + n * x.period + e.offset) else none

/-- The entry that fires next: the earliest instant, then the lowest index (R63). -/
def State.sheetNext (s : State) : Option Nat :=
  match s.sheet with
  | none => none
  | some x =>
    let at_ (i : Nat) : Option (Nat × Nat) := (x.entries[i]?).bind fun e => x.due e s.sheetClock
    let ds := (List.range x.entries.length).filter fun i => (at_ i).isSome
    argMin (fun i => match at_ i with | some (_, t) => t | none => 0) ds

/-- The change made at the period start, once every entry of the old table that fell due before it has fired: a new table fires from the
period on that is under way then (R62, R63; log 78). -/
def State.sheetSwap (s : State) : Option State :=
  if s.sheetNext.isSome then none
  else
    match s.sheetChange with
    | .keep => none
    | .install x t =>
      if s.time.toNat < t then none
      else some { s with sheet := some { x with entries := x.entries.map fun e => { e with fired := x.periodAt t } }, sheetChange := .keep }
    | .disarm t => if s.time.toNat < t then none else some { s with sheet := none, sheetChange := .keep }

/-- CALL_SHEET_SWAP (R62). -/
def execCallSheetSwap (s : State) : Host.Outcome State Fault Refusal := onEvent s s.sheetSwap

/-- What the firing of an entry does to its queue (R64). -/
def State.fireQueue (s : State) (e : SheetEntry) : State :=
  let q := e.queue
  let overrun := decide (s.qProgress q < s.qRelmark q)
  let deferred := bit (s.queueWord q 7) 0
  if !s.csr.qtbaseSet then s
  else if !s.qFlag q 17 || !s.qFlag q 16 then s.skipRelease q
  else if !overrun then s.release q e.count
  else if e.policy = 1 && !deferred then { s with deferred := tabSet s.deferred q e.count }.setQ q 7 0 0 1
  else if e.policy = 2 then
    let first := s.qHead q + s.qAllow q
    { s with urgentCards := s.urgentCards ++ (List.range e.count).map fun k => (q, first + k) }.release q e.count
  else s.skipRelease q

/-- The firing of an entry: whole periods passed over count in CSMISS (R63). -/
def State.sheetFire (s : State) (i : Nat) : Option State :=
  if s.sheetNext ≠ some i then none
  else
    match s.sheet with
    | none => none
    | some x =>
      match x.entries[i]? with
      | none => none
      | some e =>
        match x.due e s.sheetClock with
        | none => none
        | some (n, _) =>
          let s := { s with sheet := some { x with entries := x.entries.set i { e with fired := n + 1 } },
                            csr := { s.csr with csmiss := s.csr.csmiss + BitVec.ofNat 64 (n - e.fired) } }
          some (s.fireQueue e)

/-- CALL_SHEET_FIRE (R63, R64). -/
def execCallSheetFire (entry : Nat) (s : State) : Host.Outcome State Fault Refusal := onEvent s (s.sheetFire entry)

/-- What the call sheet does next at this TIME: an entry fires, or the table changes. -/
def State.sheetTurn (s : State) : Option State :=
  match s.sheetNext with
  | some i => s.sheetFire i
  | none => s.sheetSwap

/-- Everything that the call sheet does at this TIME. -/
def State.sheetAll : Nat → State → State
  | 0, s => s
  | k + 1, s =>
    match s.sheetTurn with
    | some s' => State.sheetAll k s'
    | none => s

/-- The next TIME at which an entry falls due or the table changes. -/
def State.sheetInstant (s : State) : Option Nat :=
  let due := match s.sheet with
    | some x => (x.entries.filter fun e => e.valid).map fun e => x.epoch + e.fired * x.period + e.offset
    | none => []
  match due ++ s.sheetChange.at?.toList with
  | [] => none
  | t :: ts => some (ts.foldl min t)

/-- Nanoseconds of the reference oscillator after which TIME reaches `t` (R49). -/
def State.waitFor (s : State) (t : Nat) : Nat :=
  ceilDiv ((t - s.time.toNat) * 2 ^ 32 - s.timeFrac) ((2 ^ 32 : Int) + s.timerate.toInt).toNat

/-- `n` nanoseconds pass, and the call sheet acts at each instant at which something falls due (R62, R63). -/
def State.passInstants : Nat → State → Nat → State
  | 0, s, n => s.passTime n
  | k + 1, s, n =>
    let s := s.sheetAll 1024
    match s.sheetInstant.map s.waitFor with
    | some m => if n < m then s.passTime n else State.passInstants k (s.passTime m) (n - m)
    | none => s.passTime n

/-! ## LAUNCH (R65, R66, R209) -/

/-- The status of a LAUNCH and its effect: the card appended at ring position TAIL. -/
def State.launchCard (s : State) (q : Nat) (card : List DWord) : Nat × State :=
  if 4095 < q || !s.dispatches || !s.qFlag q 16 || !s.qFlag q 18 then (2, s)
  else if s.qFlag q 23 then (3, s)
  else if s.qSize q ≤ s.qTail q - s.qProgress q then (1, s)
  else
    match s.engineWrites none q (s.ringVa q (s.qTail q)) (card.map BitVec.toNat) with
    | .error _ => (4, s)
    | .ok s => (0, s.setQueueWord q 3 (s.queueWord q 3 + 1))

/-- LAUNCH: once for the group, after its earlier accesses have performed. -/
def execLaunch (g : Guard) (d a b : Operand) (s : State) : Host.Outcome State Fault Refusal :=
  onIssue s fun i =>
    let X := i.lanes g
    let before := s
    let s := s.revoke i.grp.team
    match lowLane X with
    | none => .next s
    | some l =>
      let va := i.src64 false b l
      if va.toNat % 128 ≠ 0 || Config.vaLimit ≤ va.toNat then .trap (i.trap 0x03 X) before
      else
        match i.budget X [d] with
        | some t => .trap t before
        | none =>
          let acc : Access := ({ size := 128, align := 128, need := { r := true }, acc := 10, plain := false } : Access).by i
          match s.check i acc va with
          | .error f => .trap (i.trap f.code X (f.info 10) va) before
          | .ok loc =>
            if !i.grp.quiet then .park .reissue s
            else
              let card := (List.range 16).map fun k => (BitVec.ofNat 64 (s.readLocNat (loc.plus (8 * k)) 8) : DWord)
              let s := s.fillLanes i (BitVec.twoPow 32 l) fun _ => va
              let (v, s) := s.launchCard (i.srcN a l).toNat card
              .next ((s.modGroup i.key fun g => g.put32 d X fun _ => BitVec.ofNat 32 v).suspend i.key)

end Sys2Proof.Machine
end

