-- ==== Sys2Proof/Machine/Preempt.lean ====
section
/-! DEFINITION. Pre-emption, drain, retake, save and restore, hot-spot migration and heat (R107, R117, R118, R414 to R426, R433). -/

namespace Sys2Proof.Machine

/-! ## The choice (R416) -/

/-- What becomes of a victim. -/
inductive Choice where
  | drain | retake | save (slot : Nat)
  deriving DecidableEq, Repr

/-- PREEMPTCTL (R415). -/
def State.preempts (s : State) : Bool := bit s.csr.preemptctl 0
def State.drainWindow (s : State) : Nat := bits s.csr.preemptctl 31 16

/-- E: the time since the team started; 0 before that. -/
def State.ranFor (s : State) (t : Team) : Nat := if t.phase = .placed then 0 else s.uptime - t.startTime

/-- The resident groups of a team with their keys. -/
def State.teamGroups (s : State) (k : Nat) : List (Nat × Group) := s.groups.filter fun p : Nat × Group => p.2.team = k

/-- A slot waits for a permit. -/
def Part.awaitsPermit (p : Part) : Bool :=
  match p.wait with
  | some (.permit _) => true
  | _ => false

/-- A group is in handler mode, waits for a permit, or holds one. -/
def Group.interrupted (g : Group) : Bool :=
  g.mode != .normal || g.entering.isSome || g.heldUntil.isSome || !g.tokens.isEmpty || g.slotA.any Part.awaitsPermit || g.slotB.any Part.awaitsPermit

/-- The drain row. -/
def State.drains? (s : State) (t : Team) : Bool :=
  s.drainWindow ≠ 0 && cardIHint t.card ≠ 0 && t.issued ≠ 0 &&
    (256 * cardIHint t.card - t.issued) * s.ranFor t ≤ s.drainWindow * 1000 * t.issued

/-- The retake row. -/
def State.retakes? (s : State) (k : Nat) (t : Team) : Bool :=
  !bit s.csr.preemptctl 1 && cardIdem t.card && cardIHint t.card ≠ 0 && !t.revoked && t.issued ≤ 64 * cardIHint t.card &&
    (s.teamGroups k).all fun p => !p.2.interrupted

/-- Image slots that hold a team, or are being written. -/
def State.slotsTaken (s : State) : List Nat :=
  (s.images.map fun m => m.slot) ++ s.teams.filterMap fun p : Nat × Team =>
    match p.2.phase with
    | .saving n _ _ => some n
    | _ => none

/-- The lowest free image slot: which free one an image takes is the model's choice (log 88). -/
def State.freeSlot (s : State) : Option Nat := (List.range s.csr.savecnt.toNat).find? fun n => !s.slotsTaken.contains n

/-- The first row of R416 that applies; `late` skips the drain row (R418). -/
def State.choice (s : State) (k : Nat) (t : Team) (late : Bool) : Option Choice :=
  if !late && s.drains? t then some .drain
  else if s.retakes? k t then some .retake
  else s.freeSlot.map Choice.save

/-- The choice takes effect; `cause` is the urgent team for which the victim leaves. -/
def State.choose (s : State) (k : Nat) (t : Team) (cause : Option Cause) : Choice → State
  | .drain => s.setTeam k { t with phase := .draining (s.uptime + s.drainWindow * 1000) cause }
  | .retake => s.setTeam k { t with phase := .retaking }
  | .save n => s.setTeam k { t with phase := .saving n s.uptime (t.phase != .placed) }

/-! ## Victims (R414) -/

/-- A team that may become a victim: resident, with live groups, and not being pre-empted. -/
def Team.exposed (t : Team) : Bool := (t.phase = .placed || t.phase = .running) && !t.liveGroups.isEmpty

/-- Place of a team in the order of R414: priority, then its choice. -/
def victimRank (t : Team) : Choice → Nat
  | .retake => t.prio * 4
  | .drain => t.prio * 4 + 1
  | .save _ => t.prio * 4 + 2

/-- The first victim among the teams that `p` picks: the latest placed of the least rank. -/
def State.victim (s : State) (p : Team → Bool) : Option (Nat × Team × Choice) :=
  let cs := s.teams.filterMap fun x : Nat × Team =>
    if x.2.exposed && p x.2 then (s.choice x.1 x.2 false).map fun c => (x.1, x.2, c) else none
  let least := (cs.map fun x => victimRank x.2.1 x.2.2).foldl min (8 * 4)
  let latest := (cs.map fun x => x.2.1.placedAt).foldl max 0
  argMin (fun x : Nat × Team × Choice => latest - x.2.1.placedAt) (cs.filter fun x => victimRank x.2.1 x.2.2 = least)

/-- The state in which every team that is leaving has left: what is still to be freed counts as free. -/
def State.whenLeft (s : State) : State :=
  (s.teams.filter fun p : Nat × Team => p.2.leaving || (match p.2.phase with | .draining _ _ => true | _ => false)).foldl
    (fun (s : State) (p : Nat × Team) => s.vacate p.1) s

/-- The urgent teams that have no room on any core or string, dealt or next in their card, with their priorities. -/
def State.urgentNeeds (s : State) : List (Nat × Cause) :=
  let f := s.whenLeft
  (s.teams.filterMap fun p : Nat × Team =>
    if p.2.urgent && s.waits p.1 p.2 && ((f.serving p.2.cause).rooms (s.shapeOf p.1 p.2)).isEmpty then some (p.2.prio, p.2.cause) else none) ++
  s.grids.filterMap fun g =>
    let cause : Cause := ⟨g.ctx, g.cardIdx, g.dealt⟩
    if g.urgent && g.dealt < cardArgCount g.card && s.resident.contains g.ctx && s.qFlag g.ctx 16 && !s.qFlag g.ctx 23 &&
        ((f.serving cause).rooms { card := g.card, kib := allocKib g.card (cardArgSize g.card * 16) }).isEmpty then
      some (s.qPrio g.ctx, cause)
    else none

/-- The one of the highest priority. -/
def State.urgentNeed (s : State) : Option (Nat × Cause) := argMin (fun x : Nat × Cause => 7 - x.1) s.urgentNeeds

/-- The next victim of an urgent team, with what becomes of it, and the cause. -/
def State.urgentVictim (s : State) : Option (Nat × Team × Choice × Cause) :=
  if !s.preempts then none
  else
    match s.urgentNeed with
    | none => none
    | some (u, cause) => (s.victim fun t => t.prio < u).map fun x => (x.1, x.2.1, x.2.2, cause)

/-- PREEMPT_VICTIM (R414): the team that comes next in order is pre-empted for the urgent team. -/
def State.preemptVictim (s : State) (team : Nat) : Option State :=
  match s.urgentVictim with
  | some (k, t, c, cause) => if k = team then some (s.choose k t (some cause) c) else none
  | none => none

/-- An urgent team still waits, dealt or in its card. -/
def State.causeWaits (s : State) (c : Cause) : Bool :=
  (s.teams.any fun p : Nat × Team => p.2.urgent && p.2.cause = c && s.waits p.1 p.2) ||
    s.grids.any fun g => g.urgent && g.ctx = c.ctx && g.cardIdx = c.cardIdx && g.dealt ≤ c.recidx && c.recidx < cardArgCount g.card

/-- Nothing is kept for a team that waits no more (R418). -/
def State.unreserve (s : State) : State := if s.kept.isEmpty then s else { s with kept := s.kept.filter fun x => s.causeWaits x.cause }

/-- PREEMPT_VICTIM (R414, R416). -/
def execPreemptVictim (team : Nat) (s : State) : Host.Outcome State Fault Refusal := onEvent s (s.preemptVictim team)

/-- Every eligible resident team of a queue made a victim, in the order of R414. -/
def State.preemptQueue : Nat → State → Nat → State
  | 0, s, _ => s
  | n + 1, s, q =>
    match s.victim fun t => t.ctx = q with
    | some (k, t, c) => State.preemptQueue n (s.choose k t none c) q
    | none => s

/-- PREEMPTCTX (R426). -/
def execPreemptctx (w : DWord) (s : State) : Host.Outcome State Fault Refusal :=
  let q := w.toNat
  onEvent s (s.ctrl q (
    let s := s.disable q
    if s.preempts then State.preemptQueue s.teams.length s q else s))

/-! ## Drain (R418) -/

/-- A drained team that has not completed in its window is chosen again without the drain row; with no other choice it runs on. -/
def State.drainTimeout (s : State) (k : Nat) : Option State :=
  match s.team? k with
  | none => none
  | some t =>
    match t.phase with
    | .draining until_ cause =>
      if s.uptime ≤ until_ then none
      else
        match s.choice k t true with
        | some c => some (s.choose k t cause c)
        | none => some (s.setTeam k { t with phase := .running })
    | _ => none

/-- DRAIN_TIMEOUT (R418). -/
def execDrainTimeout (team : Nat) (s : State) : Host.Outcome State Fault Refusal := onEvent s (s.drainTimeout team)

/-! ## Issue has stopped (R419, R420) -/

/-- No group of the team is in a run, in a check, or entering a handler. -/
def State.stopped (s : State) (k : Nat) : Bool :=
  (s.teamGroups k).all fun p => !p.2.suspended && p.2.entering.isNone && !s.runs p.1 false p.2 && !s.runs p.1 true p.2

/-- Rows of the team are still on their way to their homes. -/
def State.rowsMoving (s : State) (k : Nat) : Bool := s.drains.any fun d => d.team == k && !d.parked

/-- A core without the requests, loops and locks of a team. -/
def Core.dropTeam (c : Core) (k : Nat) : Core :=
  let requests := c.requests.filter fun r => r.team = k
  let loops := c.loops.filter fun l => l.team = k
  { c with requests := c.requests.filter fun r => r.team ≠ k, loops := c.loops.filter fun l => l.team ≠ k,
           locks := c.locks.filter fun e => !(match e.owner with
             | .request id => requests.any fun r => r.id == id
             | .loop id => loops.any fun l => l.id == id) }

/-- The team's requests, loops and locks leave its cores. -/
def State.dropWork (s : State) (k : Nat) (t : Team) : State :=
  t.quarters.foldl (fun s q => s.modCore q.core fun c => c.dropTeam k) s

/-! ## Retake (R419) -/

/-- The team's work is discarded; it waits to start again from its record, ahead of the undealt chunks of its queue. -/
def State.retake (s : State) (k : Nat) : Option State :=
  match s.team? k with
  | none => none
  | some t =>
    if t.phase ≠ .retaking || t.moving || t.liveGroups.isEmpty || !s.stopped k || s.rowsMoving k ||
        !(s.teamGroups k).all (fun p => p.2.quiet) then none
    else
      let s := { s.dropWork k t with monitors := s.monitors.filter fun m => m.team ≠ k }
      let s := (s.freeTeam k).modTeam k fun t =>
        { t with phase := .dealt, home := none, fates := [], issued := 0, recPermit := none }
      some { s with
        pending := k :: s.pending
        launches := match t.launch with
          | some n => (match tabGet? s.launches n with
            | some l => tabSet s.launches n { l with written := false }
            | none => s.launches)
          | none => s.launches
        csr := { s.csr with preretakes := s.csr.preretakes + 1 } }

/-- RETAKE (R419). -/
def execRetake (team : Nat) (s : State) : Host.Outcome State Fault Refusal := onEvent s (s.retake team)

/-! ## Cells moved between a core and an image -/

/-- Cells [a, a + n) counted from their first. -/
def cellsCut {w : Nat} (m : Sparse w) (a n : Nat) : Sparse w :=
  (m.filter fun c => a ≤ c.1 && c.1 < a + n).map fun c => (c.1 - a, c.2)

/-- The canonical form of listed cells; of two at one index the first counts. -/
def cellsNormal {w : Nat} (x : Sparse w) : Sparse w := x.foldr (fun c m => cellSet m c.1 c.2) []

/-- Cells [a, a + n) replaced by `x`, counted from `a`. -/
def cellsPaste {w : Nat} (m : Sparse w) (a n : Nat) (x : Sparse w) : Sparse w :=
  m.filter (fun c => c.1 < a) ++ (cellsNormal (x.filter fun c => c.1 < n)).map (fun c => (c.1 + a, c.2)) ++ m.filter fun c => a + n ≤ c.1

/-- Cells in canonical form of a list of values. -/
def cellsOf {w : Nat} (l : List (BitVec w)) : Sparse w :=
  (l.zipIdx.filter fun c => c.1 != 0).map fun c => (c.2, c.1)

/-- The bytes of words, little-endian. -/
def wordCells (x : Sparse 32) : Sparse 8 :=
  x.flatMap fun c => ((toBytes 4 c.2.toNat).zipIdx.filter fun b => b.1 != 0).map fun b => (4 * c.1 + b.2, b.1)

/-! ## A slot's bytes (R422, R423) -/

/-- First byte of a quarter of an image slot. -/
def State.slotBase (s : State) (slot k : Nat) : Nat := s.csr.savebase.toNat + slot * 2 ^ 24 + k * 2 ^ 22

/-- A `zero` row of a quarter: offset and size. -/
def imageZeroRows : List (Nat × Nat) := [(0x090000, 0x70000), (0x1A0000, 0x60000), (0x2C8000, 0x38000), (0x340000, 0xC0000)]

/-- Bytes of device memory replaced by the device. -/
def State.putBytes (s : State) (a n : Nat) (x : Sparse 8) : State :=
  ({ s.recall a n with mem := cellsPaste (w := 8) s.mem a n x }).notify a n

/-- Bytes whose form is the device's own: free values (R423; log 8). -/
def State.putOwn (s : State) (a n : Nat) : State :=
  { s.putBytes a n (cellsOf ((List.range n).map fun i => (Config.freeWord (s.fresh + i)).setWidth 8)) with fresh := s.fresh + n }

/-- A walk request's record with DONE (R243). -/
def Request.saved (r : Request) : List Byte :=
  ((r.record.take 7) ++ [BitVec.ofNat 64 ((dwordAt r.record 7).toNat / 2 ^ 24 * 2 ^ 24 + r.done % 2 ^ 24)]).flatMap fun x => toBytes 8 x.toNat

/-- The list area of team tile `j` (R315). -/
def Quarter.listBytes (q : Quarter) (j : Nat) : List Byte :=
  (List.range 2048).flatMap fun n =>
    let e := q.areaEntry j (n / 32) (n % 32)
    toBytes 4 e.1.toNat ++ toBytes 4 e.2.toNat

/-- The area of a group in its quarter: its place among the quarter's groups in ascending index (log 41). -/
def Image.area (m : Image) (g : Group) : Nat := m.groups.countP fun x => x.quarter = g.quarter && x.gidx < g.gidx

/-- Bytes of doublewords. -/
def dwordBytes (l : List Nat) : List Byte := l.flatMap fun x => toBytes 8 x

/-- A verdict configuration in its quarter's region area: the fields of R307, the predicate and `.audit`, and both rows of thresholds
(log 41). -/
def VConf.savedBytes (c : VConf) : List Byte :=
  dwordBytes [c.saofs * 2 ^ 32 + c.sbofs, c.nent * 2 ^ 32, c.list, VPred.toNat c.pred * 2 + c.audit.toNat] ++
    padBytes (c.th.flatMap fun w => toBytes 4 w.toNat) 256 ++ padBytes (c.pth.flatMap fun w => toBytes 4 w.toNat) 256

/-- A queued loop in its quarter's region area: the operand words and types of its MLOOP (R296), its owner, its steps done and its steps
consumed (log 41). -/
def Loop.savedBytes (l : Loop) : List Byte :=
  dwordBytes [l.bslot * 2 ^ 16 + l.aslot * 2 ^ 8 + l.tile + l.nstep * 2 ^ 32,
    l.wb * 2 ^ 24 + l.db * 2 ^ 16 + l.wa * 2 ^ 8 + l.da +
      (l.nt.toNat * 2 ^ 13 + l.sc.toNat * 2 ^ 12 + NumType.toNat l.tb * 2 ^ 8 + NumType.toNat l.ta) * 2 ^ 32,
    l.gidx, l.done + l.scaled * 2 ^ 32]

/-- The 12 KiB of a quarter's region entries, verdict configurations and queued loops (R254, R422): entries in the layout of R254 by
ascending handle from byte 0 on, configurations by team tile from 0x800 on, loops in queue order from 0x3000 - 8 x 64 on (log 41). -/
def State.regionArea (s : State) (m : Image) (k : Nat) (p : QuarterImage) : Sparse 8 :=
  let id := match s.team? m.team with
    | some t => t.id
    | none => 0
  let rs := sortBy Region.handle (m.regions.filter fun r => r.core = p.quarter.core)
  let at_ (a : Nat) (l : List Byte) : Sparse 8 := (cellsOf l).map fun c => (c.1 + a, c.2)
  (rs.zipIdx.flatMap fun r => at_ (128 * r.2) (dwordBytes (r.1.words id))) ++
  (p.quarter.vconf.zipIdx.flatMap fun c => at_ (0x800 + 544 * c.2) c.1.savedBytes) ++
  (((m.loops.filter fun l => l.1 = k).zipIdx).flatMap fun l => at_ (0x2E00 + 64 * l.2) l.1.2.savedBytes)

/-- One quarter written. Areas for parts that the team has not, and rows it does not fill, keep what memory holds (log 41). -/
def State.writeQuarter (s : State) (m : Image) (k : Nat) (p : QuarterImage) : State :=
  let b := s.slotBase m.slot k
  let q := p.quarter
  let s := ((s.putOwn b 0x1000).putBytes (b + 0x1000) 0x3000 (s.regionArea m k p)).putOwn (b + 0x8000) 0x8000
  let s := ((m.requests.filter fun r => r.1 = k).zipIdx).foldl (fun (s : State) (r : (Nat × Request) × Nat) =>
    s.putBytes (b + 0x4000 + 64 * r.2) 64 (cellsOf r.1.2.saved)) s
  let s := (m.groups.filter fun g => g.quarter = k).foldl (fun (s : State) (g : Group) =>
    let a := b + 0x10000 + m.area g * 0x8000
    (s.putBytes a 0x6300 (cellsOf ((List.range 0x6300).map g.winByte))).putOwn (a + 0x6300) 0x1D00) s
  let s := imageZeroRows.foldl (fun (s : State) (r : Nat × Nat) => s.putBytes (b + r.1) r.2 []) s
  let s := s.putBytes (b + 0x100000) (q.kib * 1024) p.scratch
  let s := q.claims.foldl (fun (s : State) (c : Nat × Nat) =>
    s.putBytes (b + 0x200000 + c.1 * 8192) 8192 (cellsCut p.opmem (c.1 * 8192) 8192)) s
  let s := s.putBytes (b + 0x280000) (q.tiles.length * 16384) (wordCells p.tiles)
  let s := match p.partials with
    | some x => s.putBytes (b + 0x2C0000) 0x8000 (wordCells x)
    | none => s
  (List.range q.lists.length).foldl (fun (s : State) j => s.putBytes (b + 0x300000 + j * 16384) 16384 (cellsOf (q.listBytes j))) s

/-- What an image slot holds outside its `zero` rows. -/
def State.slotBytes (s : State) (m : Image) : Memory :=
  s.mem.filter fun c =>
    let b := s.slotBase m.slot 0
    b ≤ c.1 && c.1 < b + m.parts.length * 2 ^ 22 &&
      let o := (c.1 - b) % 2 ^ 22
      !imageZeroRows.any fun r => r.1 ≤ o && o < r.1 + r.2

/-! ## Save (R420) -/

/-- A wait as it is saved (R197, R404, R420): a wait for a permit, a partner or engine work is left, and the word issues again; any other
stands in the image. -/
def Part.saved (p : Part) : Part :=
  match p.wait with
  | some .reissue | some .window | some (.permit _) | some .matrix | some (.msync _ _ _ _ _) | some (.regroup _ _ _ _ _) =>
    { p with wait := none, turn := false }
  | _ => p

/-- A wait once its team is restored: one at a barrier or for events has left its word, which issues again; the arrival of BAR.sync or
TBAR.sync is not made twice, MWAIT resumes past its word, and SLEEP keeps its deadline (R204, R364, R369, R424; log 42). -/
def Part.restored (p : Part) : Part :=
  match p.wait with
  | some (.bar _ _) | some (.tbar _ _) | some (.waitany _) => { p with wait := none }
  | _ => p

/-- The parts that a frame holds, changed by `f`. -/
def Frame.mapParts (f : Part → Part) (x : Frame) : Frame := { x with slotA := x.slotA.map f, slotB := x.slotB.map f }

/-- Every part of a group's slots and frames changed by `f`. -/
def Group.mapSlots (g : Group) (f : Part → Part) : Group :=
  { g with slotA := g.slotA.map f, slotB := g.slotB.map f, uframe := g.uframe.mapParts f, sframe := g.sframe.mapParts f }

/-- A group's registers in no spill place. -/
def Group.unspilled (g : Group) : Group :=
  { g with vregs := g.vregs.map fun r : Nat × VReg => (r.1, { r.2 with spill := .none, used := 0 }) }

/-- A group as it is saved: registers in no place, back-off 256 where it waited for a permit (R404, R423). -/
def Group.saved (g : Group) : Group :=
  let waited := g.slotA.any Part.awaitsPermit || g.slotB.any Part.awaitsPermit || g.heldUntil.isSome
  { (g.mapSlots Part.saved).unspilled with
    candA := {}, candB := {}, backoff := if waited then 256 else g.backoff, heldUntil := none }

/-- A part that stands at a word which issues as soon as it is restored: it was ready, or the wait at its word is over with the save. -/
def Part.standing (p : Part) : Bool := p.park.isNone && p.saved.wait.isNone

/-- Index of the quarter on a core. -/
def Team.quarterIdx (t : Team) (core : Nat) : Nat := (t.quarters.findIdx? fun q => q.core == core).getD 0

/-- A quarter as it is saved. -/
def State.savedQuarter (s : State) (k : Nat) (q : Quarter) : QuarterImage :=
  let c := s.core q.core
  let usesPartials : Bool := match c.loops with
    | l :: _ => l.team == k && l.sc
    | [] => false
  { quarter := q
    scratch := cellsCut c.chip (q.base * 1024) (q.kib * 1024)
    opmem := (sortBy (fun x : Nat × Nat => x.1) q.claims).flatMap fun x =>
      (cellsCut c.chip (0x100000 + x.2 * 8192) 8192).map fun y => (y.1 + x.1 * 8192, y.2)
    tiles := q.tiles.zipIdx.flatMap fun x => (cellsCut c.acc (x.1 * 4096) 4096).map fun y => (y.1 + x.2 * 4096, y.2)
    partials := if usesPartials then some c.partials else (c.loops.find? fun l => l.team == k && l.saved.isSome).bind Loop.saved }

/-- The loops of a team on a core as they are saved: the one that uses the partial slots takes their words with it (R289). -/
def Core.savedLoops (c : Core) (k : Nat) : List Loop :=
  (c.loops.zipIdx.filter fun l => l.1.team = k).map fun l =>
    if l.2 = 0 && l.1.sc && l.1.saved.isNone then { l.1 with saved := some c.partials } else l.1

/-- The image of a team. -/
def State.imageOf (s : State) (k : Nat) (t : Team) (slot : Nat) (ran : Bool) : Image :=
  let clock := (s.core ((t.quarters.map Quarter.core).headD 0)).cycle
  { team := k, slot, ran, elapsed := s.uptime - t.startTime
    parts := t.quarters.map (s.savedQuarter k)
    groups := (s.teamGroups k).map fun p => p.2.saved
    regions := t.regions
    tags := t.tags.map fun x => { x with due := x.due.map (· - clock) }
    requests := t.quarters.zipIdx.flatMap fun q => ((s.core q.1.core).requests.filter fun r => r.team = k).map fun r => (q.2, r)
    loops := t.quarters.zipIdx.flatMap fun q => ((s.core q.1.core).savedLoops k).map fun l => (q.2, l) }

/-- A multicast of the team whose partners have all issued runs to its end first: while some member has bytes of its slice to move (R248). -/
def State.castRunning (s : State) (k : Nat) (t : Team) : Bool :=
  t.quarters.any fun q => (s.core q.core).requests.any fun r => r.team == k && recMc r.record && r.window.isNone &&
    ((s.castAll t r.record).isSome || (r.phase ≠ .waiting && (s.castPresent t r.record).any fun m => m.2.1.castNext.isSome))

/-- The team's state written to its slot, and its resources freed. -/
def State.save (s : State) (k : Nat) : Option State :=
  match s.team? k with
  | none => none
  | some t =>
    match t.phase with
    | .saving slot since ran =>
      let gs := s.teamGroups k
      let waitsReply := gs.any fun p =>
        !p.2.late.isEmpty || p.2.outstanding.any fun x => !x.atomic || s.uptime < since + 50000
      if t.moving || t.liveGroups.isEmpty || !s.stopped k || waitsReply || s.rowsMoving k || s.castRunning k t then none
      else
        let ready := gs.any fun p => p.2.slotA.any Part.standing || p.2.slotB.any Part.standing
        let m := s.imageOf k t slot ran
        let s := gs.foldl (fun (s : State) (p : Nat × Group) => s.modTeam k fun t => t.leaveQueues p.2.gidx) s
        let m := { m with regions := match s.team? k with | some t => t.regions | none => [] }
        let s := m.parts.zipIdx.foldl (fun (s : State) (p : QuarterImage × Nat) => s.writeQuarter m p.2 p.1) s
        let m := { m with bytes := s.slotBytes m }
        let s := ((s.dropWork k t).freeTeam k).modTeam k fun t =>
          { t with phase := .saved slot, home := none, tags := m.tags
                   runnable := ready || !m.requests.isEmpty || !m.loops.isEmpty || m.tags.any fun x => x.due.isSome }
        some { s with images := (s.images.filter fun x => x.team ≠ k) ++ [m]
                      csr := { s.csr with presaves := s.csr.presaves + 1 } }
    | _ => none

/-- SAVE (R420 to R423). -/
def execSave (team : Nat) (s : State) : Host.Outcome State Fault Refusal := onEvent s (s.save team)

/-! ## Replies for saved teams (R421) -/

/-- Keys from here on name groups of saved teams: team x 64 + group index. -/
def savedKey : Nat := Config.numCores * Config.positions

/-- The bytes of a reply in the reply buffer: the 32 lanes of each of its registers (log 41). -/
def Pending.replyBytes (p : Pending) : List Byte := padBytes (p.values.flatMap fun v => v.flatMap fun w => toBytes 4 w.toNat) 256

/-- A reply for a group of a saved team goes to the reply buffer of its quarter in the image. -/
def State.savedReply (s : State) (team gidx : Nat) : Option State :=
  match s.images.find? fun m => m.team == team && (s.team? team).any fun t => (match t.phase with | .saved _ => true | _ => false) with
  | none => none
  | some m =>
    match m.groups.find? fun g => g.gidx == gidx with
    | none => none
    | some g =>
      match g.outstanding.find? Pending.atomic with
      | none => none
      | some p =>
        let n := m.replies.length
        let same := s.slotBytes m = m.bytes
        let s := if n < 128 then s.putBytes (s.slotBase m.slot g.quarter + 0x8000 + 256 * n) 256 (cellsOf p.replyBytes) else s
        let g' := { g with outstanding := g.outstanding.erase p }
        let m' := { m with groups := m.groups.map (fun x => if x.gidx = gidx then g' else x), replies := m.replies ++ [(gidx, p)] }
        let m' := if same then { m' with bytes := s.slotBytes m' } else m'
        some { s with images := s.images.map fun x => if x.team = team then m' else x }

/-- ATOM_REPLY (R421): for a resident group, or into the image of a saved one. -/
def execAtomReply (key : Nat) (s : State) : Host.Outcome State Fault Refusal :=
  onEvent s (
    if savedKey ≤ key then s.savedReply ((key - savedKey) / 64) ((key - savedKey) % 64)
    else
      let s := s.performReply key
      match s.group? key with
      | none => none
      | some g => (g.arrive true).map fun g => s.setGroup key g)

/-- A restored group with its buffered replies merged into their destinations. -/
def Group.merged (g : Group) (rs : List (Nat × Pending)) : Group :=
  (rs.filter fun r => r.1 = g.gidx).foldl (fun g r => g.receive r.2) g

/-! ## Restore (R424) -/

/-- Undefined register and scratch values of a team whose slot has been changed: free values (R423). -/
def Group.scrambled (g : Group) (n : Nat) : Group :=
  let n := n + g.gidx * 8192
  { g with vregs := g.vregs.map fun r : Nat × VReg =>
             (r.1, { r.2 with lanes := (List.range 32).map fun l => Config.freeWord (n + r.1 * 32 + l) })
           sregs := (List.range 32).map fun i => Config.freeWord (n + 6144 + i)
           preds := (List.range 7).map fun i => Config.freeWord (n + 6176 + i) }

/-- A changed image. -/
def Image.scrambled (m : Image) (n : Nat) : Image :=
  { m with groups := m.groups.map fun g => g.scrambled n
           parts := m.parts.zipIdx.map fun p =>
             { p.1 with scratch := cellsOf ((List.range (p.1.quarter.kib * 1024)).map fun i =>
                 (Config.freeWord (n + 2 ^ 20 + p.2 * 2 ^ 20 + i)).setWidth 8) } }

/-- A quarter's contents put on the core on which it has been allocated. -/
def State.fillQuarter (s : State) (p : QuarterImage) (q : Quarter) : Quarter × State :=
  let old := p.quarter
  let n := old.claims.length
  let q' := { old with core := q.core, base := q.base, kib := q.kib, tiles := q.tiles, reserve := q.reserve.drop n
                       claims := List.zipWith (fun (c : Nat × Nat) x => (c.1, x)) old.claims q.reserve }
  let s := s.modCore q.core fun c =>
    { c with
      chip := q'.claims.foldl (fun x c => cellsPaste x (0x100000 + c.2 * 8192) 8192 (cellsCut p.opmem (c.1 * 8192) 8192))
        (cellsPaste c.chip (q.base * 1024) (q.kib * 1024) p.scratch)
      acc := q.tiles.zipIdx.foldl (fun x t => cellsPaste x (t.1 * 4096) 4096 (cellsCut p.tiles (t.2 * 4096) 4096)) c.acc }
  (q', s)

/-- Requests moved: where each stood, by core and number, and where it stands now. -/
abbrev Moves := List ((Nat × Nat) × (Nat × Nat))

/-- A region entered in the table of its new core, and the requests that its ring names moved, each with its own core. -/
def Region.moved (r : Region) (core entry : Nat) (ids : Moves) : Region :=
  let f : Acquirer → Acquirer := fun a => match a with
    | .request c id => match ids.find? fun x => x.1 == (c, id) with
      | some x => .request x.2.1 x.2.2
      | none => .request c id
    | .group g => .group g
  { r with core, entry, body := match r.body with
      | .ring g => .ring { g with writing := g.writing.map fun x => (x.1, f x.2), waiters := g.waiters.map f }
      | .window w => .window w }

/-- The number that a restored request takes: its own when that is free. -/
def Core.requestId (c : Core) (id : Nat) : Nat := if c.requests.all fun r => r.id ≠ id then id else c.freeRequest

/-- A request queued again with its range locks; a ring slot that it holds is a destination (R255). -/
def State.requeue (s : State) (core : Nat) (t : Team) (r : Request) (id : Nat) : State :=
  let ring : List LockRange := match (if recDkind r.record = 4 then t.ring? (recDst r.record % 16) else none), r.slot with
    | some g, some x => [{ space := .scratch r.team, lo := g.base + x * g.slotSz, hi := g.base + x * g.slotSz + g.slotSz - 1, dest := true }]
    | _, _ => []
  let lock : Lock := { owner := .request id, ranges := ring ++ destRange s r.team t r.record ++ sourceRange s r.team t r.record }
  s.modCore core fun c =>
    { c with requests := c.requests ++ [{ r with id }]
             locks := if r.window.isNone && takesLock s r.team t r.record then c.locks ++ [lock] else c.locks }

/-- Requests queued again on other cores: each with its old core and its new one. -/
def State.requeueAll (s : State) (t : Team) (rs : List (Nat × Nat × Request)) : Moves × State :=
  rs.foldl (fun (acc : Moves × State) (x : Nat × Nat × Request) =>
    let (old, new, r) := x
    let id := (acc.2.core new).requestId r.id
    (acc.1 ++ [((old, r.id), (new, id))], acc.2.requeue new t r id)) ([], s)

/-- A loop queued again with its range locks; it keeps its unconsumed partials until its turn (R289). -/
def State.requeueLoop (s : State) (ctx : Nat) (q : Quarter) (l : Loop) : State :=
  s.modCore q.core fun c =>
    let l := { l with id := c.nextLoop }
    { c with nextLoop := c.nextLoop + 1, loops := c.loops ++ [l], locks := c.locks ++ [loopLock ctx q l] }

/-- The drains of a team belong to the cores to which its quarters have moved (R304). -/
def State.moveDrains (s : State) (k : Nat) (old new : List Quarter) : State :=
  let place (c : Nat) : Nat := match (old.zip new).find? fun x => x.1.core == c with
    | some x => x.2.core
    | none => c
  { s with drains := s.drains.map fun d => if d.team = k then { d with core := place d.core } else d }

/-- The quarters of a team allocated at a place and filled from saved quarters. -/
def State.restoreQuarters (s : State) (t : Team) (w : Nat) (parts : List QuarterImage) : List Quarter × State :=
  let (qs, s) := s.newQuarters t.card t.kib w
  (List.zip parts qs).foldl (fun (acc : List Quarter × State) (x : QuarterImage × Quarter) =>
    let (q, s) := acc.2.fillQuarter x.1 x.2
    (acc.1 ++ [q], s)) ([], s)

/-- The regions of a team entered at its new quarters. -/
def State.moveRegions (s : State) (k : Nat) (old : List Quarter) (qs : List Quarter) (rs : List Region) (ids : Moves) : State :=
  rs.foldl (fun (s : State) (r : Region) =>
    let j := (old.findIdx? fun q => q.core == r.core).getD 0
    let core := match qs[j]? with
      | some q => q.core
      | none => r.core
    let entry := (s.freeEntry core).getD r.entry
    s.modTeam k fun t =>
      { t with regions := t.regions ++ [r.moved core entry ids] }) s

/-- Groups at a new place, waiting from now. -/
def State.putGroups (s : State) (card : List DWord) (w : Nat) (gs : List Group) : State :=
  gs.foldl (fun (s : State) (g : Group) =>
    let c : Cand := { since := (s.core (groupCore card w g.role g.rgroup)).cycle }
    s.placeGroup (groupCore card w g.role g.rgroup) { g with candA := c, candB := c }) s

/-- A saved team placed again at `w`. -/
def State.restoreAt (s : State) (k : Nat) (t : Team) (m : Image) (w : Nat) : State :=
  let (m, s) := if s.slotBytes m = m.bytes then (m, s) else (m.scrambled s.fresh, { s with fresh := s.fresh + 2 ^ 23 })
  let (qs, s) := s.restoreQuarters t w m.parts
  let clock := (s.core ((qs.map Quarter.core).headD 0)).cycle
  let s := s.setTeam k { t with
    phase := if m.ran then .running else .placed
    quarters := qs, regions := [], placedAt := s.fresh, blocks := []
    tags := m.tags.map fun x => { x with due := x.due.map (· + clock) }
    startTime := s.uptime - m.elapsed }
  let s := { s.putGroups t.card w (m.groups.map fun g => (g.mapSlots Part.restored).merged m.replies) with fresh := s.fresh + 1 }
  let old := m.parts.map fun p => p.quarter
  let (ids, s) := s.requeueAll { t with regions := m.regions } (m.requests.filterMap fun r =>
    match old[r.1]?, qs[r.1]? with
    | some p, some q => some (p.core, q.core, r.2)
    | _, _ => none)
  let s := (s.moveRegions k old qs m.regions ids).moveDrains k old qs
  m.loops.foldl (fun (s : State) (l : Nat × Loop) =>
    match qs[l.1]? with
    | some q => s.requeueLoop t.ctx q l.2
    | none => s) s

/-- A saved team restored. When its image cannot be read its groups end (R216). -/
def State.restore (s : State) (k : Nat) : Option State :=
  match s.team? k, s.image? k with
  | some t, some m =>
    if s.nextRestore ≠ some k || !(s.savedPrio.any fun p => s.isNext (savedKeyAt p)) then none
    else if m.bad then some (s.abendAway k t)
    else
      match s.targetOf k t with
      | some w =>
        let s := s.serving t.cause
        if s.fitsNow (s.shapeOf k t) w then some (s.restoreAt k t m w) else none
      | none => none
  | _, _ => none

/-- RESTORE (R424). -/
def execRestore (team : Nat) (s : State) : Host.Outcome State Fault Refusal := onEvent s (s.restore team)

/-! ## Hot-spot migration and heat (R117, R118, R433) -/

/-- A core exceeds HOTTHR. -/
def State.hot (s : State) (core : Nat) : Bool := s.csr.hotthr.toNat < (s.core core).temp

/-- A team may be migrated from a core: it is resident and none of the conditions of R117 holds. A demand window's copy, which moves with its
team, does not bar it (R253). A pre-emption that falls during a migration acts after the move (R414). -/
def State.eligible (s : State) (core k : Nat) (t : Team) : Bool :=
  let c := s.core core
  let here : Bool := match t.phase with
    | .placed | .running | .draining _ _ => true
    | .retaking | .saving _ _ _ => t.moving
    | _ => false
  here && (t.quarterOn core).isSome && !cardStrTeam t.card && !t.liveGroups.isEmpty &&
    (c.requests.all fun r => r.team ≠ k || r.window.isSome) && (c.loops.all fun l => l.team ≠ k) &&
    (s.teamGroups k).all fun p => p.2.mode = .normal && p.2.entering.isNone

/-- The eligible team with the most resident groups, with ties to the lowest TEAM. -/
def State.migrant (s : State) (core : Nat) : Option (Nat × Team) :=
  argMin (fun x : Nat × Team => (64 - (s.teamGroups x.1).length) * 2 ^ 32 + x.2.id)
    (s.teams.filter fun x : Nat × Team => s.eligible core x.1 x.2)

/-- Where a team may go: a core of another string with room, below HOTTHR by at least HOTHYST. Which of several it is R117 does not say: the model
takes the one to which R108 would deal a chunk (log 88). -/
def State.coolCore (s : State) (core k : Nat) (t : Team) : Option Nat :=
  let x := s.shapeOf k t
  s.bestOf t.card ((s.rooms x).filter fun c =>
    strandOf c ≠ strandOf core && (s.core c).temp + s.csr.hothyst.toNat ≤ s.csr.hotthr.toNat)

/-- Waits of a group that moves: a wait for a partner, for a permit or in BAR.wait is left at its word (R197, R369). The loops that an MSYNC.wait
covers have ended, since none of the team was in flight (R117, R304). -/
def Part.migrated (p : Part) : Part :=
  match p.wait with
  | some (.msync d X m _ drains) => { p with wait := some (.msync d X m 0 drains) }
  | some (.permit _) | some (.regroup _ _ _ _ _) | some (.bar _ _) => { p with wait := none }
  | _ => p

/-- A team moved from its core to another in one step (R118). -/
def State.migrate (s : State) (k : Nat) (t : Team) (w : Nat) : State :=
  let parts := t.quarters.map (s.savedQuarter k)
  let old := (s.core ((t.quarters.map Quarter.core).headD 0)).cycle
  let clock := (s.core w).cycle
  let gs := (s.teamGroups k).map fun p =>
    { (p.2.mapSlots Part.migrated).unspilled with heldUntil := p.2.heldUntil.map (· - old + clock) }
  let copies := t.quarters.flatMap fun q => ((s.core q.core).requests.filter fun r => r.team = k).map fun r => (q.core, w, r)
  let s := (s.dropWork k t).freeTeam k
  let (qs, s) := s.restoreQuarters t w parts
  let s := s.setTeam k { t with quarters := qs, regions := [], moving := false, tags := t.tags.map fun x => { x with due := x.due.map (· - old + clock) } }
  let (ids, s) := (s.putGroups t.card w gs).requeueAll t copies
  (s.moveRegions k t.quarters qs t.regions ids).moveDrains k t.quarters qs

/-- The team of a core that is being migrated. -/
def State.mover (s : State) (core : Nat) : Option (Nat × Team) := s.teams.find? fun p : Nat × Team => p.2.moving && (p.2.quarterOn core).isSome

/-- Issue stops in a hot core's eligible team when some core may take it (R117, R118). -/
def State.startMove (s : State) (core : Nat) : Option State :=
  if !s.hot core then none
  else
    match s.migrant core with
    | none => none
    | some (k, t) => if (s.coolCore core k t).isSome then some (s.setTeam k { t with moving := true }) else none

/-- The move of a team in which issue has been stopped: it waits until its groups are at run boundaries and its accesses have performed, and
until ways of its new core have been converted so that it fits. A team that has become ineligible, or that no core can take any more,
runs on where it is (R113, R118; log 59). -/
def State.finishMove (s : State) (core k : Nat) (t : Team) : Option State :=
  match (if s.eligible core k t then s.coolCore core k t else none) with
  | none => some (s.setTeam k { t with moving := false })
  | some w =>
    if !s.stopped k || s.rowsMoving k || !(s.teamGroups k).all (fun p => p.2.quiet) then none
    else if s.fitsNow (s.shapeOf k t) w then some (s.migrate k t w)
    else s.convertWay w

/-- The migration of a team of a hot core (R117, R118). -/
def State.migration (s : State) (core : Nat) : Option State :=
  match s.mover core with
  | some (k, t) => s.finishMove core k t
  | none => s.startMove core

/-- HOTSPOT_MIGRATION (R117, R118). -/
def execHotspotMigration (core : Nat) (s : State) : Host.Outcome State Fault Refusal := onEvent s (s.migration core)

/-- A hot core without an eligible team throttles its string (R433). -/
def State.heatThrottle (s : State) (n : Nat) : Option State :=
  if n < Config.numStrings && !(s.strand n).heat && (strandCores n).any fun c => s.hot c && (s.migrant c).isNone then
    some (s.modStrand n fun x => { x with heat := true })
  else none

/-- HEAT_THROTTLE (R433). -/
def execHeatThrottle (string : Nat) (s : State) : Host.Outcome State Fault Refusal := onEvent s (s.heatThrottle string)

/-- Heat throttling ends once every core of the string is below HOTTHR - HOTHYST. -/
def State.heatEnd (s : State) (n : Nat) : Option State :=
  if (s.strand n).heat && (strandCores n).all fun c => (s.core c).temp + s.csr.hothyst.toNat < s.csr.hotthr.toNat then
    some (s.modStrand n fun x => { x with heat := false })
  else none

/-- HEAT_THROTTLE_END (R433). -/
def execHeatThrottleEnd (string : Nat) (s : State) : Host.Outcome State Fault Refusal := onEvent s (s.heatEnd string)

end Sys2Proof.Machine
end

