-- ==== Sys2Proof/Machine/Health.lean ====
section
/-! DEFINITION. The SRAM rail, uncorrectable errors, end of life, Yilok ports, boot and attestation (R216, R393, R435 to R442). -/

namespace Sys2Proof.Machine

/-! ## The SRAM rail (R435) -/

/-- SRAMSET fields. -/
def sramEnabled (v : Word) : Bool := bit v 31 && bits v 15 0 ≠ 0
def sramStep (v : Word) : Nat := bits v 23 16

/-- SRAMSET with its step replaced: 0 to 30. -/
def sramWith (v : Word) (step : Nat) : Word :=
  BitVec.ofNat 32 ((bit v 31).toNat * 2 ^ 31 + min step 30 * 2 ^ 16 + bits v 15 0)

/-- The step of one second in which `n` corrected errors were counted: down one step of voltage, or up two. -/
def sramNext (v : Word) (n : Nat) : Nat :=
  let t := bits v 15 0
  if n < t then sramStep v + 1 else if 2 * t < n then sramStep v - 2 else sramStep v

/-- Nanoseconds of a second and of an hour. -/
def second : Nat := 1000000000
def hour : Nat := 3600 * second

/-- SRAM_TRIM: once per second; the count is measured, a free value (log 4). -/
def State.sramTrim (s : State) : Option State :=
  if s.uptime < s.trimAt + second then none
  else
    let v := s.csr.sramset
    let step := if !sramEnabled v || s.sramHold.isSome then 0 else sramNext v (Config.freeNat s.fresh)
    some { s with csr := { s.csr with sramset := sramWith v step }, fresh := s.fresh + 1, trimAt := s.trimAt + second }

/-- SRAM_TRIM (R435). -/
def execSramTrim (s : State) : Host.Outcome State Fault Refusal := onEvent s s.sramTrim

/-- The rail's hold ends 60 s after the latest uncorrectable error. -/
def State.sramHoldEnd (s : State) : Option State :=
  match s.sramHold with
  | some t => if t ≤ s.uptime then some { s with sramHold := none } else none
  | none => none

/-- SRAM_HOLD_END (R435). -/
def execSramHoldEnd (s : State) : Host.Outcome State Fault Refusal := onEvent s s.sramHoldEnd

/-! ## Uncorrectable errors (R216, R393, R435) -/

/-- An uncorrectable error returns the rail to step 0 and holds it there for 60 s (R435). -/
def State.sramFall (s : State) : State :=
  { s with csr := { s.csr with sramset := sramWith s.csr.sramset 0 }, sramHold := some (s.uptime + 60 * second) }

/-- What an error in data the device itself reads does besides its report (R216). -/
def State.eccDevice (s : State) (pa : Nat) : State :=
  let within (a n : Nat) : Bool := a ≤ pa && pa < a + n
  let qt := s.csr.qtbase.toNat
  let sp := s.csr.spillbase.toNat
  let s := if s.csr.qtbaseSet && within qt 0x40000 then s.stopQueue ((pa - qt) / 64) 9 else s
  let s := if s.csr.spillbaseSet && within sp (Config.numCores * Config.positions * 32768) then
      let key := (pa - sp) / 32768
      match s.group? key with
      | some g => if g.vregs.any fun r => r.1 = (pa - sp) % 32768 / 128 && r.2.spill = .memory then s.abendGroup key else s
      | none => s
    else s
  let s := match s.sheetChange with
    | .install _ _ =>
      let t := s.csr.cstable.toNat
      if within t 4096 then
        { s with sheetChange := .keep, csr := { s.csr with csctl := BitVec.ofNat 32 ((pa - t) / 16 * 256 + 2) } }
      else s
    | _ => s
  { s with images := s.images.map fun m => if within (s.slotBase m.slot 0) (2 ^ 24) then { m with bad := true } else m }

/-- An error in data of the fault-ring header (R216). -/
def State.headerBad (s : State) (pa : Nat) : Bool := s.csr.frbase ≠ 0 && s.csr.frbase.toNat ≤ pa && pa < s.csr.frbase.toNat + 0x40

/-- An error that no group takes: cause 0x25 reported with its further effect; on the fault-ring header the report is discarded and counted
(R216, R393). -/
def State.eccReport (s : State) (pa : DWord) : State :=
  if s.headerBad pa.toNat then s.dropReport else (s.deviceReport { code := 0x25, src := 6, addr := pa }).eccDevice pa.toNat

/-- EOLDAYS computed anew once per hour of device time: SRC and DAYS are measured, free values (R436; log 4). -/
def State.eolRecompute (s : State) : Option State :=
  if s.eolAt ≤ s.time.toNat && s.time.toNat < s.eolAt + hour then none
  else some { s with
    csr := { s.csr with eoldays := BitVec.ofNat 32 (Config.freeNat s.fresh % 4 * 2 ^ 28 + Config.freeNat (s.fresh + 1) % 2 ^ 24) }
    fresh := s.fresh + 2
    eolAt := s.time.toNat }

/-- EOL_RECOMPUTE (R436). -/
def execEolRecompute (s : State) : Host.Outcome State Fault Refusal := onEvent s s.eolRecompute

/-! ## Ports (R364, R437, R438) -/

/-- A port. -/
def State.port (s : State) (p : Nat) : Port := s.ports.getD p {}
def State.setPort (s : State) (p : Nat) (x : Port) : State := { s with ports := s.ports.set p x }

/-- A flit replayed by its sender: whether the replay fails in its turn is a free value. After 8 failures in a row the port has to retrain
first (R437). -/
def State.flitReplay (s : State) (p : Nat) : Option State :=
  let x := s.port p
  if 18 ≤ p || x.state ≠ 2 || 8 ≤ x.failures then none
  else
    let failed := Config.freeBool s.fresh
    some { s.setPort p { x with replays := (x.replays + 1) % 2 ^ 32, failures := if failed then x.failures + 1 else 0 } with
      fresh := s.fresh + 1 }

/-- FLIT_REPLAY (R437). -/
def execFlitReplay (port : Nat) (s : State) : Host.Outcome State Fault Refusal := onEvent s (s.flitReplay port)

/-- A port whose replays have failed 8 times in a row trains; a port in training comes up again, with an eye margin that is measured
(R437; log 4). -/
def State.portRetrain (s : State) (p : Nat) : Option State :=
  let x := s.port p
  if 18 ≤ p then none
  else if x.state = 2 && 8 ≤ x.failures then
    some (s.setPort p { x with state := 1, failures := 0, retrains := (x.retrains + 1) % 2 ^ 16 })
  else if x.state = 1 then
    some { s.setPort p { x with state := 2, margin := Config.freeNat s.fresh % 256 } with fresh := s.fresh + 1 }
  else none

/-- PORT_RETRAIN (R437). -/
def execPortRetrain (port : Nat) (s : State) : Host.Outcome State Fault Refusal := onEvent s (s.portRetrain port)

/-- An outstanding value whose data come from a lost peer: all ones in those lanes, each of which is a link error (R438). -/
def Pending.lose (p : Pending) (lost : List Nat) : Pending :=
  let hit (l : Nat) : Bool := p.peers.any fun x => x.1 = l && lost.contains x.2
  { p with values := p.values.map fun v => laneList.map fun l => if hit l then 0xFFFFFFFF else v.getD l 0,
           peers := p.peers.filter fun x => !lost.contains x.2,
           units := p.units.filter fun u => !u.loc.peer?.any fun d => lost.contains d }

/-- Link errors of an outstanding value: one for each of its lanes. -/
def Pending.errors (p : Pending) (lost : List Nat) : Nat := ((p.peers.filter fun x => lost.contains x.2).map Prod.fst).eraseDups.length

/-- A unit of a store or an atomic that has still to perform lies at a lost peer. -/
def LateOp.lost (o : LateOp) (lost : List Nat) : Bool := o.loc.peer?.any fun d => lost.contains d

/-- A group whose outstanding loads, texture reads and atomics meet the loss of peers (R438). A load's values stand in its destination
already. Stores and REDs that have still to perform there are dropped, and so is an atomic, which may have performed or not. -/
def Group.lose (g : Group) (lost : List Nat) : Group :=
  let one (g : Group) (p : Pending) : Group :=
    if p.atomic || p.errors lost = 0 then g
    else
      let x := p.lose lost
      g.putMany p.dst p.mask p.words fun k l => (x.values.getD k []).getD l 0
  let g := g.outstanding.foldl one g
  { g with outstanding := g.outstanding.map (fun p => p.lose lost), late := g.late.filter fun o => !o.lost lost }

/-- Stores and REDs of a group that are dropped: one for each lane of a word (log 85). -/
def Group.dropped (g : Group) (lost : List Nat) : Nat :=
  ((g.late.filter fun o => o.lost lost && o.reply.isNone).map fun o => (o.word, o.lane)).eraseDups.length

/-- Link errors of a group. -/
def Group.errors (g : Group) (lost : List Nat) : Nat := (g.outstanding.map fun p => p.errors lost).sum + g.dropped lost

/-- Rows of drains that the loss of peers drops (R302, R438). -/
def State.rowsLost (s : State) (lost : List Nat) : Nat :=
  ((s.drains.filter fun d => (keyDevice d.addr).any fun x => lost.contains x).map Drain.row).eraseDups.length

/-- The STATUS with which a walk request ends whose step under way has passed its translation and meets the loss of peers (R438): 1 for its
source, 2 for its destination or counter. -/
def State.stepLost (s : State) (core : Nat) (t : Team) (r : Request) (lost : List Nat) : Option Nat :=
  let d := r.record
  let esz := recEsz d
  let (off, n) := if recMc d then r.castNext.getD (r.done, 0) else (r.done, min 4096 (recBytes d - r.done))
  let away (loc : Loc) : Bool := loc.peer?.any fun x => lost.contains x
  let source := (List.range (n / esz)).any fun k => match s.elementLoc core t d (off / esz + k) with
    | .ok (some loc) => away loc
    | _ => false
  let dest := recDkind d = 0 && (List.range (n / esz)).any fun k =>
    match s.engineLoc (some core) t.ctx { w := true } (recDst d + r.done + esz * k) esz with
    | .ok loc => away loc
    | .error _ => false
  let counter := recCkind d = 2 && recBytes d ≤ r.done + n &&
    match s.engineLoc (some core) t.ctx { r := true, w := true } (recComp d) 8 with
    | .ok loc => away loc
    | .error _ => false
  if r.phase ≠ .running || !s.mayWalk core r then none else if source then some 1 else if dest || counter then some 2 else none

/-- Every walk request that meets the loss of peers, with its core and STATUS. -/
def State.requestsLost (s : State) (lost : List Nat) : List (Nat × Request × Nat) :=
  s.cores.flatMap fun p : Nat × Core => p.2.requests.filterMap fun r =>
    match s.team? r.team with
    | some t => (s.stepLost p.1 t r lost).map fun status => (p.1, r, status)
    | none => none

/-- The accesses on their way to peers whose last route is lost (R364, R438): loads, texture reads and atomics return all ones, walk requests
end, monitors are satisfied with all-ones data, stores, REDs and drain rows are dropped; each adds 1 to LINKLOST, and no trap is raised. -/
def State.loseRoutes (s : State) (lost : List Nat) : State :=
  let hit (key : Nat) : Bool := (keyDevice key).any fun d => lost.contains d
  let rs := s.requestsLost lost
  let errors := (s.groups.map fun p : Nat × Group => p.2.errors lost).sum + (s.images.map fun m => (m.groups.map fun g => g.errors lost).sum).sum
  let n := (s.monitors.countP fun m => hit m.addr && m.hit.isNone) + s.rowsLost lost + errors + rs.length
  let s := { s with
    routes := s.routes.filter fun d => !lost.contains d
    groups := s.groups.map fun p : Nat × Group => (p.1, p.2.lose lost)
    images := s.images.map fun m => { m with groups := m.groups.map fun g => g.lose lost }
    monitors := s.monitors.map fun m =>
      if hit m.addr && m.hit.isNone then { m with hit := some (if m.wide then ~~~0 else 0xFFFFFFFF) } else m
    drains := s.drains.filter fun d => !hit d.addr
    linkLost := s.linkLost + BitVec.ofNat 64 n }
  rs.foldl (fun s r => s.endRequest r.1 r.2.1 r.2.2) s

/-- A port that fails to retrain goes down. Without a port left every route is lost; else which routes are lost is a free value (R437). -/
def State.portDown (s : State) (p : Nat) : Option State :=
  let x := s.port p
  if 18 ≤ p || x.state ≠ 1 then none
  else
    let s := s.setPort p { x with state := 0 }
    let left := s.ports.any fun p => p.state = 1 || p.state = 2
    let lost := if left then s.routes.filter fun d => Config.freeBool (s.fresh + d) else s.routes
    some { s.loseRoutes lost with fresh := s.fresh + 256 }

/-- PORT_DOWN (R437). -/
def execPortDown (port : Nat) (s : State) : Host.Outcome State Fault Refusal := onEvent s (s.portDown port)

/-! ## Boot (R440, R441) -/

/-- The minimum SVN: the fuses, and what firmware has raised them to. -/
def State.leastSvn (s : State) : Nat := max Config.fusedSvn.toNat s.minSvn.toNat

/-- The image to be verified: flash, or the bytes that the host wrote at physical address 0. -/
def State.bootImage (s : State) : List Byte :=
  match s.fwload with
  | none => Config.flashImage
  | some n => cellsGet (w := 8) s.mem 0 n

/-- A little-endian field of an image. -/
def imageField (b : List Byte) (o n : Nat) : Nat := fromBytes ((b.drop o).take n)

/-- The measured bytes of an image: header bytes 0x00 to 0x0F and the body. -/
def measured (b : List Byte) : List Byte := b.take 16 ++ (b.drop 128).take (imageField b 8 8)

/-- An image passes verification (R441). -/
def State.verifies (s : State) (b : List Byte) : Bool :=
  let len := imageField b 8 8
  keyMatchesFuses && 128 + len ≤ b.length && 1 ≤ len && len ≤ 2 ^ 26 &&
    edVerify Config.romKey (sha512 (measured b)) ((b.drop 16).take 64) &&
    imageField b 4 4 = 0 && ((b.drop 0x50).take 0x30).all (· = 0) && s.leastSvn ≤ imageField b 0 4

/-- FIRMWARE_VERIFY (R441). -/
def State.firmwareVerify (s : State) : Option State :=
  if s.boot ≠ .verify then none
  else
    let b := s.bootImage
    if s.verifies b then
      some { s with boot := .run, svn := BitVec.ofNat 32 (imageField b 0 4), measurement := sha512 (measured b) }
    else some { s with boot := .recovery }

def execFirmwareVerify (s : State) : Host.Outcome State Fault Refusal := onEvent s s.firmwareVerify

/-- Firmware in RUN raises the fused minimum SVN, which can only rise (R441). -/
def State.raiseSvn (s : State) (v : Word) : State := if s.boot = .run && s.minSvn.toNat < v.toNat then { s with minSvn := v } else s

/-- A FWLOAD write: served in RECOVERY (R441). -/
def State.fwloadWrite (s : State) (len : DWord) : Option State :=
  if s.boot = .recovery then some { s with boot := .verify, fwload := some len.toNat } else none

/-- FWLOAD (R441). -/
def execFwload (len : DWord) (s : State) : Host.Outcome State Fault Refusal := onEvent s (s.fwloadWrite len)

/-- DEVICE_RESET (R215, R441): what is outside the reset domain stays: memory and peers (log 44), the fuse, what the host has received,
the model's own fields. -/
def State.deviceReset (s : State) : State :=
  { State.reset with mem := s.mem, routes := s.routes, minSvn := s.minSvn, timestamps := s.timestamps, forwarded := s.forwarded,
                     hostReply := s.hostReply, agenda := s.agenda, turn := s.turn, issuer := s.issuer, slotB := s.slotB, fresh := s.fresh }

def execDeviceReset (s : State) : Host.Outcome State Fault Refusal := onEvent s (some s.deviceReset)

/-! ## Attestation (R442) -/

/-- An ATTREQ write; a second one before STATUS is written, or an unusable address, is ignored. -/
def State.attreqWrite (s : State) (pa : DWord) : Option State :=
  if s.serves && s.attreq.isNone && pa.toNat % 64 = 0 && pa.toNat + 512 ≤ Config.dramBytes then some { s with attreq := some pa } else none

/-- ATTREQ (R442). -/
def execAttreq (pa : DWord) (s : State) : Host.Outcome State Fault Refusal := onEvent s (s.attreqWrite pa)

/-- The signed bytes 0x40 to 0xDF, with a STATUS of 1. -/
def State.attestBody (s : State) (pa : Nat) : List Byte :=
  toBytes 4 1 ++ toBytes 4 1 ++ toBytes 8 Config.serialNumber.toNat ++ padBytes s.measurement 64 ++
    cellsGet (w := 8) s.mem pa 32 ++ toBytes 4 s.svn.toNat ++ toBytes 4 s.leastSvn ++ toBytes 8 s.time.toNat ++
    padBytes identityKey 32

/-- The report written, STATUS last. -/
def State.attest (s : State) : Option State :=
  match s.attreq with
  | none => none
  | some p =>
    let pa := p.toNat
    let s := { s with attreq := none }
    if s.boot ≠ .run then some (s.writePhys (pa + 0x44) 4 2)
    else
      let body := s.attestBody pa
      let s := s.homeWrite (.dram (pa + 0x40)) (body.take 4)
      let s := s.homeWrite (.dram (pa + 0x48)) (body.drop 8 ++ padBytes (identitySign body) 64)
      some (s.writePhys (pa + 0x44) 4 1)

/-- ATTESTATION_REPORT (R442). -/
def execAttestationReport (s : State) : Host.Outcome State Fault Refusal := onEvent s s.attest

end Sys2Proof.Machine
end

