-- ==== Sys2Proof/Machine/Geom.lean ====
section
/-! DEFINITION. Geometry: FP32 operations, cluster pages, clip coordinates, winding, clipping, window coordinates, coverage and depth,
λ and attributes, residency and the dailies (R67, R68, R72, R73, R75, R81, R82, R96, R97, R102, R334, R449, R450). -/

namespace Sys2Proof.Machine

/-! ## FP32, round to nearest even, NaN canonical (R164) -/

def fAdd (a b : Word) : Word := BitVec.ofNat 32 (fmt32.add .rne a.toNat b.toNat).1
def fNeg (a : Word) : Word := a ^^^ 0x80000000
def fSub (a b : Word) : Word := fAdd a (fNeg b)
def fMul (a b : Word) : Word := BitVec.ofNat 32 (fmt32.mul .rne a.toNat b.toNat).1
def fFma (a b c : Word) : Word := BitVec.ofNat 32 (fmt32.fma .rne a.toNat b.toNat c.toNat).1
def fSqrt (a : Word) : Word := BitVec.ofNat 32 (fsqrtOf .rne a.toNat).1

/-- division of two FP32 encodings. -/
def divF (a b : Nat) : Nat :=
  match fmt32.read a, fmt32.read b with
  | .nan _, _ | _, .nan _ | .inf _, .inf _ => fmt32.canon
  | .inf n, .fin m _ _ => fmt32.infCode (n != m)
  | .fin n _ _, .inf m => zeroF (n != m)
  | .fin n ma ea, .fin m mb eb =>
    if mb = 0 then (if ma = 0 then fmt32.canon else fmt32.infCode (n != m))
    else if ma = 0 then zeroF (n != m)
    else
      let x := ma * 2 ^ 80
      let e := ea - eb - 80
      if x % mb = 0 then (fmt32.round .rne (n != m) (x / mb) e).1 else (roundOpen .rne (n != m) (x / mb) e).1

def fDiv (a b : Word) : Word := BitVec.ofNat 32 (divF a.toNat b.toNat)

/-- The value of an FP32 word. -/
def fVal (a : Word) : FVal := fmt32.read a.toNat

/-- a < b; false with a NaN. -/
def fLt (a b : Word) : Bool := (fVal a).below false (fVal b)

/-- a ≤ b; false with a NaN. -/
def fLe (a b : Word) : Bool := !(fVal a).isNan && !(fVal b).isNan && !fLt b a

def fIsNan (a : Word) : Bool := (fVal a).isNan
def fFinite (a : Word) : Bool := !(fVal a).isNan && !(fVal a).isInf
def fIsZero (a : Word) : Bool := (fVal a).isZero

/-- An integer as FP32. -/
def fOfInt (x : Int) : Word := BitVec.ofNat 32 (fmt32.round .rne (x < 0) x.natAbs 0).1

def f0 : Word := 0
def f1 : Word := 0x3F800000
def f2 : Word := 0x40000000
def fHalf : Word := 0x3F000000
/-- 65,536.0. -/
def f65536 : Word := 0x47800000
def f32768 : Word := 0x47000000

/-- A value clamped to [0.0, 1.0], −0.0 taken as +0.0; a NaN stays (R73). -/
def fUnit (z : Word) : Word := if fIsNan z then z else if fLt f0 z then (if fLt f1 z then f1 else z) else f0

/-- An FP32 number times 2^k rounded to an integer, to nearest even. -/
def fRound (x : Word) (k : Int) : Int :=
  match fVal x with
  | .fin n m e =>
    let q := (roundShift .rne n m (-(e + k))).1
    if n then -(q : Int) else q
  | _ => 0

/-! ## Vectors and products (R72, R334) -/

/-- A vector of four FP32 components. -/
structure Vec where
  x : Word
  y : Word
  z : Word
  w : Word := f1
  deriving DecidableEq, Repr

/-- A component of a product of a matrix row with a vector (R72). -/
def dotRow (r : List Word) (v : Vec) : Word :=
  fAdd (fAdd (fAdd (fMul (r.getD 0 0) v.x) (fMul (r.getD 1 0) v.y)) (fMul (r.getD 2 0) v.z)) (fMul (r.getD 3 0) v.w)

/-- Row `k` of a row-major matrix of four columns. -/
def matRow (m : List Word) (k : Nat) : List Word := (m.drop (4 * k)).take 4

/-- World position M x (x, y, z, 1). -/
def worldOf (m : List Word) (v : Vec) : Vec :=
  { x := dotRow (matRow m 0) v, y := dotRow (matRow m 1) v, z := dotRow (matRow m 2) v }

/-- Clip position PROJ x (px, py, pz, 1). -/
def clipOf (proj : List Word) (p : Vec) : Vec :=
  { x := dotRow (matRow proj 0) p, y := dotRow (matRow proj 1) p, z := dotRow (matRow proj 2) p, w := dotRow (matRow proj 3) p }

/-- dot and cross of R334, and the difference of two positions. -/
def dot3 (a b : Vec) : Word := fAdd (fAdd (fMul a.x b.x) (fMul a.y b.y)) (fMul a.z b.z)
def cross3 (a b : Vec) : Vec :=
  { x := fSub (fMul a.y b.z) (fMul a.z b.y), y := fSub (fMul a.z b.x) (fMul a.x b.z), z := fSub (fMul a.x b.y) (fMul a.y b.x) }
def sub3 (a b : Vec) : Vec := { x := fSub a.x b.x, y := fSub a.y b.y, z := fSub a.z b.z }

/-- Vertex `i`, counted modulo 3. -/
def vert (c : List Vec) (i : Nat) : Vec := c.getD (i % 3) { x := 0, y := 0, z := 0 }

/-- ei, ai and bi of R96. -/
def edgeE (c : List Vec) (i : Nat) : Word :=
  fSub (fMul (vert c (i + 1)).x (vert c (i + 2)).y) (fMul (vert c (i + 1)).y (vert c (i + 2)).x)
def edgeA (c : List Vec) (i : Nat) : Word :=
  fSub (fMul (vert c (i + 1)).y (vert c (i + 2)).w) (fMul (vert c (i + 1)).w (vert c (i + 2)).y)
def edgeB (c : List Vec) (i : Nat) : Word :=
  fSub (fMul (vert c (i + 1)).w (vert c (i + 2)).x) (fMul (vert c (i + 1)).x (vert c (i + 2)).w)

/-- D of R450. -/
def windingD (c : List Vec) : Word :=
  fAdd (fAdd (fMul (vert c 0).w (edgeE c 0)) (fMul (vert c 1).w (edgeE c 1))) (fMul (vert c 2).w (edgeE c 2))

/-! ## Clipping (R449) -/

/-- The distance functions of the six planes of a viewport, in order. -/
def planeDist (width height : Nat) (k : Nat) (v : Vec) : Word :=
  let gx := fAdd f1 (fDiv f65536 (fOfInt width))
  let gy := fAdd f1 (fDiv f65536 (fOfInt height))
  match k with
  | 0 => v.z
  | 1 => fSub v.w v.z
  | 2 => fAdd v.x (fMul gx v.w)
  | 3 => fSub (fMul gx v.w) v.x
  | 4 => fSub (fMul gy v.w) v.y
  | _ => fAdd v.y (fMul gy v.w)

/-- cut(a, b): a inside, b outside. -/
def cutAt (d : Vec → Word) (a b : Vec) : Vec :=
  let t := fDiv (d a) (fSub (d a) (d b))
  let mix (x y : Word) : Word := fAdd x (fMul t (fSub y x))
  { x := mix a.x b.x, y := mix a.y b.y, z := mix a.z b.z, w := mix a.w b.w }

/-- A vertex inside a plane; a NaN distance is outside. -/
def inside (d : Vec → Word) (v : Vec) : Bool := fLe f0 (d v)

/-- The walk around a polygon against one plane, `p` the vertex before. -/
def clipWalk (d : Vec → Word) : Vec → List Vec → List Vec
  | _, [] => []
  | p, c :: rest =>
    (if inside d c then (if inside d p then [c] else [cutAt d c p, c])
     else if inside d p then [cutAt d p c] else []) ++ clipWalk d c rest

/-- One plane applied. -/
def clipPlane (d : Vec → Word) (poly : List Vec) : List Vec :=
  match poly.getLast? with
  | none => []
  | some p => clipWalk d p poly

/-- Window coordinates X and Y of a vertex (R72). -/
def windowX (width : Nat) (v : Vec) : Word := fMul (fAdd (fDiv v.x v.w) f1) (fMul (fOfInt width) fHalf)
def windowY (height : Nat) (v : Vec) : Word := fMul (fSub f1 (fDiv v.y v.w)) (fMul (fOfInt height) fHalf)

/-- A window coordinate within 32,768 pixels of a viewport of `n` pixels (R72). -/
def inBand (n : Nat) (x : Word) : Bool := fLe (fNeg f32768) x && fLe x (fOfInt (n + 32768))

/-- A vertex with 0 ≤ cz ≤ cw that lies within the guard band (R72, R449). -/
def Vec.unclipped (width height : Nat) (v : Vec) : Bool :=
  fLe f0 v.z && fLe v.z v.w && inBand width (windowX width v) && inBand height (windowY height v)

/-- A triangle stands as it is when no vertex asks for clipping; any other is cut by the six planes in order (R449). -/
def clipPoly (width height : Nat) (c : List Vec) : List Vec :=
  if c.all (Vec.unclipped width height) then c
  else (List.range 6).foldl (fun poly k => clipPlane (planeDist width height k) poly) c

/-! ## Window coordinates and fans (R72, R449) -/

/-- Snapped window coordinates in 1/256 pixel, and Z; none when one is not finite. -/
def windowOf (width height : Nat) (v : Vec) : Option (Int × Int × Word) :=
  let x := windowX width v
  let y := windowY height v
  let z := fDiv v.z v.w
  if fFinite x && fFinite y && fFinite z then some (fRound x 8, fRound y 8, z) else none

/-- Doubled signed area of a snapped triangle. -/
def areaOf (a b c : Int × Int × Word) : Int := (b.1 - a.1) * (c.2.1 - a.2.1) - (b.2.1 - a.2.1) * (c.1 - a.1)

/-- The fan of a polygon of snapped vertices, without the triangles that are dropped. -/
def fanOf (ps : List (Option (Int × Int × Word))) : List (List (Int × Int × Word)) :=
  (List.range (ps.length - 2)).filterMap fun k =>
    match ps.getD 0 none, ps.getD (k + 1) none, ps.getD (k + 2) none with
    | some a, some b, some c => if areaOf a b c = 0 then none else some [a, b, c]
    | _, _, _ => none

/-- A triangle set up for a viewport: culled, clipped, cut into a fan (R72, R449, R450). -/
def setUp (width height cull : Nat) (c : List Vec) : List (List (Int × Int × Word)) :=
  let D := windingD c
  if fIsNan D || fIsZero D || (cull = 1 && fLt D f0) || (cull = 2 && fLt f0 D) then []
  else
    let poly := clipPoly width height c
    if poly.length < 3 then [] else fanOf (poly.map (windowOf width height))

/-! ## Coverage and depth (R73) -/

/-- A point on the edge from `p` to `q` of a triangle whose third vertex is `r` counts when it is a top or a left edge. -/
def topLeft (p q r : Int × Int × Word) : Bool :=
  if p.2.1 = q.2.1 then p.2.1 < r.2.1
  else
    let (u, w) := if p.2.1 < q.2.1 then (p, q) else (q, p)
    0 < (r.1 - u.1) * (w.2.1 - u.2.1) - (r.2.1 - u.2.1) * (w.1 - u.1)

/-- The signed doubled area of (p, q, sample), positive inside for sign `sg`; none when the sample is outside that edge. -/
def edgeAt (sg : Int) (p q r : Int × Int × Word) (sx sy : Int) : Option Int :=
  let e := ((q.1 - p.1) * (sy - p.2.1) - (q.2.1 - p.2.1) * (sx - p.1)) * sg
  if e < 0 || (e = 0 && !topLeft p q r) then none else some e

/-- Depth of a snapped triangle at the centre of pixel (x, y), when the sample is covered. -/
def coverAt (tri : List (Int × Int × Word)) (x y : Nat) : Option Word :=
  match tri with
  | [a, b, c] =>
    let area := areaOf a b c
    let sg : Int := if area < 0 then -1 else 1
    let sx : Int := 256 * x + 128
    let sy : Int := 256 * y + 128
    match edgeAt sg a b c sx sy, edgeAt sg b c a sx sy, edgeAt sg c a b sx sy with
    | some _, some _, none | some _, none, _ | none, _, _ => none
    | some e2, some _, some e1 =>
      let E := fOfInt area.natAbs
      let z := fAdd a.2.2 (fAdd (fMul (fDiv (fOfInt e1) E) (fSub b.2.2 a.2.2)) (fMul (fDiv (fOfInt e2) E) (fSub c.2.2 a.2.2)))
      if fIsNan z then none else some (fUnit z)
  | _ => none

/-- Pixels of a row or column of `n` whose centres may lie between snapped coordinates `lo` and `hi`. -/
def pixelSpan (n : Nat) (cs : List Int) : List Nat :=
  match cs with
  | [] => []
  | c :: rest =>
    let lo := (rest.foldl min c) / 256
    let hi := (rest.foldl max c) / 256
    if hi < 0 then [] else
      let first := lo.toNat
      let last := min (n - 1) hi.toNat
      (List.range (last + 1 - first)).map (first + ·)

/-! ## λ and attributes (R96, R97) -/

/-- λ1, λ2, dλ1/dx, dλ1/dy, dλ2/dx, dλ2/dy at the centre of pixel (x, y) (R96). -/
def lambdas (width height x y : Nat) (c : List Vec) : List Word :=
  let W := fOfInt width
  let H := fOfInt height
  let X := fSub (fDiv (fMul (fAdd (fOfInt x) fHalf) f2) W) f1
  let Y := fSub f1 (fDiv (fMul (fAdd (fOfInt y) fHalf) f2) H)
  let f (i : Nat) : Word := fAdd (fAdd (fMul (edgeA c i) X) (fMul (edgeB c i) Y)) (edgeE c i)
  let S := fAdd (fAdd (f 0) (f 1)) (f 2)
  let A := fAdd (fAdd (edgeA c 0) (edgeA c 1)) (edgeA c 2)
  let B := fAdd (fAdd (edgeB c 0) (edgeB c 1)) (edgeB c 2)
  let SS := fMul S S
  let dx (n : Nat) : Word := fMul (fDiv (fSub (fMul (edgeA c n) S) (fMul (f n) A)) SS) (fDiv f2 W)
  let dy (n : Nat) : Word := fMul (fDiv (fSub (fMul (edgeB c n) S) (fMul (f n) B)) SS) (fDiv (fNeg f2) H)
  [fDiv (f 1) S, fDiv (f 2) S, dx 1, dy 1, dx 2, dy 2]

/-- FFMA(λ2, A2, FFMA(λ1, A1, λ0 x A0)) (R97). -/
def mixAttr (l0 l1 l2 : Word) (a : List Word) : Word :=
  fFma l2 (a.getD 2 0) (fFma l1 (a.getD 1 0) (fMul l0 (a.getD 0 0)))

/-- An attribute at λ1, λ2. -/
def attrAt (l1 l2 : Word) (a : List Word) : Word := mixAttr (fSub (fSub f1 l1) l2) l1 l2 a

/-- A derivative of an attribute from those of λ1 and λ2: dλ0 = −dλ1 − dλ2. -/
def attrSlope (d1 d2 : Word) (a : List Word) : Word := mixAttr (fSub (fNeg d1) d2) d1 d2 a

/-! ## Reading geometry -/

/-- A naturally aligned read of a number of bytes at a virtual address, which may fail. -/
abbrev Reader (ε : Type) := Nat → Nat → Except ε Nat

/-- `k` words from `va` on. -/
def readWords {ε : Type} (rd : Reader ε) (va : Nat) : Nat → Except ε (List Word)
  | 0 => .ok []
  | k + 1 => do
    let x ← rd va 4
    let xs ← readWords rd (va + 4) k
    pure (BitVec.ofNat 32 x :: xs)

/-- `k` doublewords from `va` on. -/
def readDwords {ε : Type} (rd : Reader ε) (va : Nat) : Nat → Except ε (List DWord)
  | 0 => .ok []
  | k + 1 => do
    let x ← rd va 8
    let xs ← readDwords rd (va + 8) k
    pure (BitVec.ofNat 64 x :: xs)

/-- Reads of the engines of a picture (R219). -/
def State.picture (s : State) : Reader (Nat × Nat × Nat) := fun va n => s.engineRead none pictureCtx va n

/-- Address of a cluster page. -/
def pageBase (cpbase page : Nat) : Nat := cpbase + page * 16384

/-- Fields of a visibility ID (R75). -/
def idInst (id : DWord) : Nat := bits id 62 39
def idPage (id : DWord) : Nat := bits id 38 7
def idTri (id : DWord) : Nat := bits id 6 0
def idOf (inst page tri : Nat) : DWord := BitVec.ofNat 64 (inst * 2 ^ 39 + page * 2 ^ 7 + tri)
def background : DWord := 0xFFFFFFFFFFFFFFFF

/-- A page's counts (R67), and whether R68 finds its header well-formed. -/
structure PageHead where
  ntri : Nat
  nvert : Nat
  nattr : Nat
  ok : Bool
  deriving DecidableEq, Repr

/-- The header of a page. -/
def readHead {ε : Type} (rd : Reader ε) (base : Nat) : Except ε PageHead := do
  let w : Word := BitVec.ofNat 32 (← rd (base + 0x18) 4)
  let z ← readDwords rd (base + 0x28) 3
  let ntri := bits w 7 0
  let nvert := bits w 15 8
  pure { ntri, nvert, nattr := bits w 23 16,
         ok := 1 ≤ ntri && ntri ≤ 128 && 1 ≤ nvert && nvert ≤ 128 && bits w 31 24 = 0 && z.all (· = 0) }

/-- A triangle record. -/
def readTri {ε : Type} (rd : Reader ε) (base t : Nat) : Except ε Word := do
  pure (BitVec.ofNat 32 (← rd (base + 0x40 + 4 * t) 4))

/-- The vertex indices of a triangle record. -/
def triVerts (r : Word) : List Nat := [bits r 7 0, bits r 15 8, bits r 23 16]

/-- A vertex position. -/
def readPos {ε : Type} (rd : Reader ε) (base v : Nat) : Except ε Vec := do
  let ws ← readWords rd (base + 0x240 + 12 * v) 3
  pure { x := ws.getD 0 0, y := ws.getD 1 0, z := ws.getD 2 0 }

/-- The positions of a triangle's vertices. -/
def readVerts {ε : Type} (rd : Reader ε) (base : Nat) : List Nat → Except ε (List Vec)
  | [] => .ok []
  | v :: vs => do
    let p ← readPos rd base v
    let ps ← readVerts rd base vs
    pure (p :: ps)

/-- Attribute `a` of a triangle's vertices. -/
def readAttr {ε : Type} (rd : Reader ε) (base a : Nat) : List Nat → Except ε (List Word)
  | [] => .ok []
  | v :: vs => do
    let x ← rd (base + 0x840 + 64 * v + 4 * a) 4
    let xs ← readAttr rd base a vs
    pure (BitVec.ofNat 32 x :: xs)

/-- A finite position (R68). -/
def Vec.finite (v : Vec) : Bool := fFinite v.x && fFinite v.y && fFinite v.z

/-- The object-to-world matrix of an instance (R69). -/
def readMatrix {ε : Type} (rd : Reader ε) (instBase inst : Nat) : Except ε (List Word) := readWords rd (instBase + 64 * inst) 12

/-- A page's residency bit (R69, R81). -/
def readResident {ε : Type} (rd : Reader ε) (resBase page : Nat) : Except ε Bool := do
  pure ((← rd (resBase + page / 8) 1) / 2 ^ (page % 8) % 2 = 1)

/-- PARENT of a page. -/
def readParent {ε : Type} (rd : Reader ε) (base : Nat) : Except ε Nat := rd (base + 0x24) 4

/-- MAT of a triangle drawn with an instance (R83); none when the instance record is malformed there. -/
def readMat {ε : Type} (rd : Reader ε) (cpbase instBase : Nat) (id : DWord) : Except ε (Option Nat) := do
  let base := pageBase cpbase (idPage id)
  let r ← readTri rd base (idTri id)
  let w ← readDwords rd (instBase + 64 * idInst id + 0x30) 2
  let m ← rd (base + 0x1C + 2 * bits r 25 24) 2
  if bits (dwordAt w 0) 63 16 ≠ 0 || dwordAt w 1 ≠ 0 then pure none
  else pure (some ((bits (dwordAt w 0) 15 0 + m) % 65536))

/-! ## The dailies (R82) -/

/-- A write of a number of bytes, which may fail. -/
abbrev Writer (ε : Type) := State → Nat → Nat → Nat → Except ε State

/-- A dailies header: the fields of R82. -/
structure Dailies where
  wr : Nat
  rd : Nat
  log2n : Nat
  hbits : Nat
  bm : Nat
  ent : Nat

/-- The header of a ring. -/
def readDailies {ε : Type} (rd : Reader ε) (h : Nat) : Except ε Dailies := do
  let w ← readDwords rd h 5
  pure { wr := (dwordAt w 0).toNat, rd := (dwordAt w 1).toNat, log2n := bits (dwordAt w 2) 4 0, hbits := bits (dwordAt w 2) 13 8,
         bm := (dwordAt w 3).toNat, ent := (dwordAt w 4).toNat }

/-- A header within the bounds of R82. -/
def Dailies.ok (d : Dailies) : Bool := d.log2n ≤ 20 && 8 ≤ d.hbits && d.hbits ≤ 32

/-- A page reported to the ring at `h`: 0 added, 1 already reported, 2 dropped (R82). A header outside the bounds of R82 takes no report
(log 20). -/
def State.report {ε : Type} (s : State) (rdr : State → Reader ε) (wr : Writer ε) (h p : Nat) : Except ε (Nat × State) := do
  let d ← readDailies (rdr s) h
  if !d.ok then pure (1, s)
  else
    let x := p * 0x9E3779B1 % 2 ^ 32 / 2 ^ (32 - d.hbits)
    let a := d.bm + x / 8
    let byte ← rdr s a 1
    if byte / 2 ^ (x % 8) % 2 = 1 then pure (1, s)
    else if (d.wr + 2 ^ 64 - d.rd) % 2 ^ 64 < 2 ^ d.log2n then
      let s1 ← wr s (d.ent + d.wr % 2 ^ d.log2n * 4) 4 p
      let s2 ← wr s1 a 1 (byte + 2 ^ (x % 8))
      let s3 ← wr s2 h 8 ((d.wr + 1) % 2 ^ 64)
      pure (0, s3)
    else pure (2, s)

/-- The same for an engine of the picture context; no ring takes nothing. -/
def State.pictureReport (s : State) (h p : Nat) : Except (Nat × Nat × Nat) (Nat × State) :=
  if h = 0 then .ok (1, s) else s.report State.picture (fun s va n x => s.engineWrite none pictureCtx va n x) h p

end Sys2Proof.Machine
end

