-- ==== Sys2Proof/Machine/Raster.lean ====
section
/-! DEFINITION. Views: the doorbell, activation, draw-stream entries, rasterising into v-tiles, spills, the seal, release and the end
(R69 to R81). -/

namespace Sys2Proof.Machine

/-! ## Descriptor fields (R69) -/

def View.dw (v : View) (k : Nat) : Nat := (dwordAt v.desc k).toNat
def descWidth (d : List DWord) : Nat := bits (dwordAt d 4) 31 16
def descHeight (d : List DWord) : Nat := bits (dwordAt d 4) 15 0
def View.width (v : View) : Nat := descWidth v.desc
def View.height (v : View) : Nat := descHeight v.desc
def View.count (v : View) : Nat := bits (dwordAt v.desc 4) 63 32
def View.exports (v : View) : Bool := bit (dwordAt v.desc 7) 7
def View.loads (v : View) : Bool := bit (dwordAt v.desc 7) 6
def View.cull (v : View) : Nat := bits (dwordAt v.desc 7) 5 4
/-- Tiles in a row, and in all (R75). -/
def tilesX (d : List DWord) : Nat := ceilDiv (descWidth d) 8
def View.tilesAll (v : View) : Nat := tilesX v.desc * ceilDiv v.height 8
/-- PROJ, 16 words. -/
def descProj (d : List DWord) : List Word := (List.range 8).flatMap fun k => [lo32 (dwordAt d (8 + k)), hi32 (dwordAt d (8 + k))]
/-- Address of a tile's backing store. -/
def View.backing (v : View) (t : Nat) : Nat := v.dw 16 + 768 * t

/-- The failing check of R70. -/
def View.rejected (v : View) : Bool :=
  let aligns := [(0, 16384), (1, 8), (2, 64), (3, 8), (5, 8), (16, 256), (17, 64), (18, 8), (19, 8), (20, 64)]
  aligns.any (fun p => v.dw p.1 % p.2 ≠ 0) || bits (dwordAt v.desc 7) 63 8 ≠ 0 || bits (dwordAt v.desc 7) 3 0 ≠ 0 ||
    ((List.range 11).any fun k => v.dw (21 + k) ≠ 0) || v.width = 0 || 16384 < v.width || v.height = 0 || 16384 < v.height ||
    v.cull = 3 || v.dw 20 = 0

/-! ## Submission and activation (R70, R216) -/

/-- A view doorbell. -/
def State.viewBell (s : State) (va : DWord) : Option State :=
  if !s.serves then none
  else if !s.dispatches || 64 ≤ s.views.countP fun v => v.phase = .submitted then
    some { s with csr := { s.csr with viewdrop := s.csr.viewdrop + 1 } }
  else some { s with views := s.views ++ [{ id := s.nextView, va }], nextView := s.nextView + 1 }

/-- VIEW_DOORBELL (R70). -/
def execViewDoorbell (va : DWord) (s : State) : Host.Outcome State Fault Refusal := onEvent s (s.viewBell va)

/-- A counter of a rejected view: incremented when it is aligned. -/
def State.bumpAligned (s : State) (va : DWord) : State := if va.toNat % 8 = 0 then s.bumpCounter va else s

/-- The next submitted view becomes active, and is checked. -/
def State.viewActivate (s : State) : Option State :=
  if !s.dispatches || 16 ≤ s.views.countP View.active then none
  else
    match s.views.find? fun v => v.phase = .submitted with
    | none => none
    | some v =>
      match s.engineReads none pictureCtx v.va.toNat 32 with
      | .error (_, _, a) => some (({ s with csr := { s.csr with viewdrop := s.csr.viewdrop + 1 } }.viewFault 4 a).dropView v.id)
      | .ok desc =>
        let v := { v with desc }
        if v.rejected || s.ctxBad pictureCtx then
          let stats := v.dw 20
          let s := if stats ≠ 0 && stats % 64 = 0 then
              (s.writeViewRecord stats (View.statsWords { id := 0, va := 0 } 1)).writeViewRecord (stats + 0x40)
                (View.shadingWords { id := 0, va := 0 })
            else s
          some (((s.bumpAligned (dwordAt desc 18)).bumpAligned (dwordAt desc 19)).dropView v.id)
        else some (s.setView { v with phase := .active })

/-- VIEW_ACTIVATE (R70). -/
def execViewActivate (s : State) : Host.Outcome State Fault Refusal := onEvent s s.viewActivate

/-- An active view whose WAITCTR has reached WAITVAL starts. -/
def State.rasterStart (s : State) (id : Nat) : Option State :=
  match s.view? id with
  | none => none
  | some v =>
    if v.phase ≠ .active then none
    else if v.dw 5 = 0 then some (s.setView { v with phase := .drawing })
    else
      match s.picture (v.dw 5) 8 with
      | .error (_, _, a) => some (s.faultView v 4 a)
      | .ok x => if v.dw 6 ≤ x then some (s.setView { v with phase := .drawing }) else none

/-- RASTER_START (R70). -/
def execRasterStart (view : Nat) (s : State) : Host.Outcome State Fault Refusal := onEvent s (s.rasterStart view)

/-! ## V-tiles (R74, R75, R77, R78) -/

/-- A tile of a view. -/
def View.tile? (v : View) (t : Nat) : Option VTile := v.tiles.find? fun x => x.idx == t

/-- A view with a tile replaced, or added. -/
def View.setTile (v : View) (x : VTile) : View :=
  if (v.tile? x.idx).isSome then { v with tiles := v.tiles.map fun y => if y.idx = x.idx then x else y }
  else { v with tiles := v.tiles ++ [x] }

/-- The doublewords of a tile in its backing store (R75). -/
def VTile.words (x : VTile) : List Nat :=
  x.pixels.map (fun p => p.1.toNat) ++
    (List.range 32).map fun k =>
      (x.pixels.getD (2 * k) (0, 0)).2.toNat + (x.pixels.getD (2 * k + 1) (0, 0)).2.toNat * 2 ^ 32

/-- A tile's contents in 96 doublewords of backing store. -/
def pixelsOf (ws : List DWord) : List (DWord × Word) :=
  (List.range 64).map fun j => (dwordAt ws j, if j % 2 = 0 then lo32 (dwordAt ws (64 + j / 2)) else hi32 (dwordAt ws (64 + j / 2)))

/-- A tile written to its backing store. -/
def State.dumpTile (s : State) (v : View) (x : VTile) : Except (Nat × Nat × Nat) State :=
  s.engineWrites none pictureCtx (v.backing x.idx) x.words

/-- Pixel `j` of a tile lies in the viewport. -/
def View.inPort (v : View) (t j : Nat) : Bool :=
  8 * (t % tilesX v.desc) + j % 8 < v.width && 8 * (t / tilesX v.desc) + j / 8 < v.height

/-- Opening contents of a tile: background, or under LOAD those of VTBACK (R74, R77). -/
def State.tileContents (s : State) (v : View) (t : Nat) : Except (Nat × Nat × Nat) (List (DWord × Word)) :=
  if !v.loads then .ok (List.replicate 64 (background, f0))
  else do
    let ps := pixelsOf (← readDwords s.picture (v.backing t) 96)
    pure ((List.range 64).map fun j => if v.inPort t j then ps.getD j (background, f0) else (background, f0))

/-- The contents of a tile: a spilled one lives in its VTBACK lines (R78). -/
def State.tilePixels (s : State) (v : View) (x : VTile) : Except (Nat × Nat × Nat) (List (DWord × Word)) :=
  if x.spilled then (readDwords s.picture (v.backing x.idx) 96).map pixelsOf else .ok x.pixels

/-- Pixel `j` of a tile. -/
def State.pixelAt (s : State) (v : View) (x : VTile) (j : Nat) : Except (Nat × Nat × Nat) (DWord × Word) :=
  if x.spilled then do
    let id ← s.picture (v.backing x.idx + 8 * j) 8
    let z ← s.picture (v.backing x.idx + 512 + 4 * j) 4
    pure (BitVec.ofNat 64 id, BitVec.ofNat 32 z)
  else .ok (x.pixels.getD j (background, f0))

/-- Tiles that the partition holds, in all (R77). -/
def State.tileRoom (s : State) : Nat := s.csr.visways.toNat * 2 ^ 25 / 768

/-- Tiles in the partition. -/
def State.tilesHeld (s : State) : Nat := (s.views.map fun v => v.tiles.countP fun x => !x.spilled).sum

/-- The least-recently-written OPEN tile in the partition, of any active view (R78). -/
def State.spillVictim (s : State) : Option (View × VTile) :=
  let all := (s.views.filter View.active).flatMap fun v => (v.tiles.filter fun x => x.state = .opened && !x.spilled).map fun x => (v, x)
  argMin (fun p => p.2.stamp) all

/-- Work on the state that stops at the first view fault, whose address it keeps (R71). -/
abbrev Work := State × Option Nat

/-- A piece of work after another, unless that has met a fault. -/
def Work.andThen (w : Work) (f : State → Work) : Work := if w.2.isSome then w else f w.1

/-- An access as work: a failing check leaves the state as it was. -/
def State.attempt (s : State) (r : Except (Nat × Nat × Nat) State) : Work :=
  match r with
  | .ok t => (t, none)
  | .error e => (s, some e.2.2)

/-- A tile that lives in its backing store from now on. -/
def VTile.spill (x : VTile) : VTile := { x with spilled := true, pixels := [] }

/-- A tile opened in the partition, spilling another, or opened in its backing store (R77, R78). -/
def State.openTile (s : State) (v : View) (t : Nat) : Work :=
  match s.tileContents v t with
  | .error e => (s, some e.2.2)
  | .ok pixels =>
    let x : VTile := { idx := t, pixels, stamp := s.fresh }
    if s.tilesHeld < s.tileRoom then (s.setView (v.setTile x), none)
    else
      match s.spillVictim with
      | some (w, y) =>
        (s.attempt (s.dumpTile w y)).andThen fun s =>
          let s := s.setView { w.setTile y.spill with spills := w.spills + 1 }
          (s.setView (((s.view? v.id).getD v).setTile x), none)
      | none =>
        (s.attempt (s.dumpTile v x)).andThen fun s => (s.setView { v.setTile x.spill with spills := v.spills + 1 }, none)

/-- A sample replaces what a pixel holds (R74). -/
def replaces (id : DWord) (z : Word) (old : DWord × Word) : Bool :=
  fLt old.2 z || (fLe old.2 z && fLe z old.2 && id.toNat < old.1.toNat)

/-- A sample stored as pixel `j` of a tile. -/
def State.storePixel (s : State) (v : View) (x : VTile) (j : Nat) (id : DWord) (z : Word) : Work :=
  let a := v.backing x.idx
  if x.spilled then
    (s.attempt (s.engineWrite none pictureCtx (a + 8 * j) 8 id.toNat)).andThen fun s =>
      s.attempt (s.engineWrite none pictureCtx (a + 512 + 4 * j) 4 z.toNat)
  else (s.setView (v.setTile { x with pixels := x.pixels.set j (id, z) }), none)

/-- One covering sample of a triangle brought to its tile, which it opens. It is a raster write whether or not it replaces what the pixel holds:
the tile opens, is classified, and counts as written now (R77; log 80). -/
def State.putSample (s : State) (vid : Nat) (id : DWord) (x y : Nat) (z : Word) : Work :=
  match s.view? vid with
  | none => (s, none)
  | some v =>
    let t := y / 8 * tilesX v.desc + x / 8
    let j := y % 8 * 8 + x % 8
    Work.andThen (if (v.tile? t).isSome then (s, none) else s.openTile v t) fun s =>
      match s.view? vid, (s.view? vid).bind fun v => v.tile? t with
      | some v, some w =>
        let w := { w with stamp := s.fresh }
        let s := { s.setView (v.setTile w) with fresh := s.fresh + 1 }
        match s.pixelAt v w j with
        | .error e => (s, some e.2.2)
        | .ok old => if replaces id z old then s.storePixel (v.setTile w) w j id z else (s, none)
      | _, _ => (s, none)

/-- The 64 x 64-pixel bins in a row of a view (R76). -/
def View.binsX (v : View) : Nat := ceilDiv v.width 64

/-- The columns and the rows of pixels that a triangle may cover. -/
def View.span (v : View) (b : BinnedTri) : List Nat × List Nat :=
  (pixelSpan v.width (b.verts.map fun p => p.1), pixelSpan v.height (b.verts.map fun p => p.2.1))

/-- The entries of a triangle in the bins that it may cover pixels of (R76). -/
def View.binEntries (v : View) (b : BinnedTri) : List (Nat × BinnedTri) :=
  let (xs, ys) := v.span b
  (ys.map (· / 64)).eraseDups.flatMap fun y => (xs.map (· / 64)).eraseDups.map fun x => (y * v.binsX + x, b)

/-- A triangle rasterised within a bin. -/
def State.rasterise (s : State) (v : View) (e : Nat × BinnedTri) : Work :=
  let b := e.2
  let (xs, ys) := v.span b
  let xs := xs.filter fun x => x / 64 = e.1 % v.binsX
  let ys := ys.filter fun y => y / 64 = e.1 / v.binsX
  ys.foldl (fun w y => xs.foldl (fun w x => Work.andThen w fun s =>
    match coverAt b.verts x y with
    | some z => s.putSample v.id b.id x y z
    | none => (s, none)) w) (s, none)

/-- Every bin of a view rasterised and the buffer emptied; a fault leaves the rest (R76). In which order the spec does not say, and the tile that
a spill takes depends on it (R78): the model takes the bins in ascending order, the triangles of a bin in the order of binning, and
their pixels in rows from the top (log 89). -/
def State.flushView (s : State) (v : View) : Work :=
  (sortBy Prod.fst v.binned).foldl (fun w e => Work.andThen w fun s => s.rasterise v e) (s.setView { v with binned := [] }, none)

/-- The view as it stands now, with a view fault when `f` names one. -/
def State.endFlush (s : State) (v : View) (f : Option Nat) : State :=
  match f with
  | some a => s.faultView ((s.view? v.id).getD v) 4 a
  | none => s

/-! ## Draw-stream entries (R68, R71, R72, R81) -/

/-- What a piece of raster work leaves: the state, the view, and the address of a view fault. -/
structure Drawn where
  s : State
  v : View
  fault : Option Nat := none

/-- A view fault at the address of a failing access. -/
def failDrawn (s : State) (v : View) (e : Nat × Nat × Nat) : Drawn := { s, v, fault := some e.2.2 }

/-- A page reported to the view's dailies (R81, R82). A failing check on an access to the ring is a view fault, a write like a read (log 80). -/
def State.reportPage (s : State) (v : View) (p : Nat) : Drawn :=
  match s.pictureReport (v.dw 17) p with
  | .error e => failDrawn s v e
  | .ok (0, s) => { s, v := { v with dlyadd := v.dlyadd + 1 } }
  | .ok (2, s) => { s, v := { v with dlydrop := v.dlydrop + 1 } }
  | .ok (_, s) => { s, v }

/-- The page drawn for an entry that names `page` (R81). -/
def State.choosePage (s : State) (v : View) (page : Nat) : Drawn × Option Nat :=
  match readResident s.picture (v.dw 1) page with
  | .error e => (failDrawn s v e, none)
  | .ok true => ({ s, v }, some page)
  | .ok false =>
    let r := s.reportPage v page
    if r.fault.isSome then (r, none)
    else
      match readParent r.s.picture (pageBase (v.dw 0) page) with
      | .error e => (failDrawn r.s r.v e, none)
      | .ok parent =>
        if parent = 0xFFFFFFFF then ({ r with v := { r.v with skipped := r.v.skipped + 1 } }, none)
        else
          match readResident r.s.picture (v.dw 1) parent with
          | .error e => (failDrawn r.s r.v e, none)
          | .ok true => ({ r with v := { r.v with proxy := r.v.proxy + 1 } }, some parent)
          | .ok false =>
            let r := r.s.reportPage r.v parent
            if r.fault.isSome then (r, none) else ({ r with v := { r.v with skipped := r.v.skipped + 1 } }, none)

/-- A triangle that R68 skips. -/
def View.bad (v : View) (n : Nat) : View := { v with badtri := v.badtri + n }

/-! ## Binning and the mid-draw flush (R76) -/

/-- The binned-geometry buffer cannot take the entries `es` of the next triangle of a view (R76; log 7). Whether active views share one buffer the
spec does not say: the model gives each view the whole of BINBUF (log 89). -/
def State.binFull (s : State) (v : View) (es : List (Nat × BinnedTri)) : Bool :=
  !v.binned.isEmpty && !es.isEmpty && Config.binFull s.csr.binbuf.toNat (v.binned.length + es.length)

/-- A mid-draw flush, which is counted. -/
def Drawn.flush (d : Drawn) : Drawn :=
  let w := d.s.flushView { d.v with flushes := d.v.flushes + 1 }
  { s := w.1, v := (w.1.view? d.v.id).getD d.v, fault := w.2 }

/-- A set-up triangle appended to its bins, after a flush when the buffer cannot take it. -/
def Drawn.bin (d : Drawn) (b : BinnedTri) : Drawn :=
  let es := d.v.binEntries b
  let d := if d.fault.isNone && d.s.binFull d.v es then d.flush else d
  if d.fault.isSome then d else { d with v := { d.v with binned := d.v.binned ++ es } }

/-- Triangle `t` of a page set up; none for one that R68 skips. -/
def State.setUpTri (s : State) (v : View) (inst page : Nat) (h : PageHead) (m : List Word) (t : Nat) :
    Except (Nat × Nat × Nat) (Option (List BinnedTri)) := do
  let base := pageBase (v.dw 0) page
  let r ← readTri s.picture base t
  if bits r 31 26 ≠ 0 || (triVerts r).any (h.nvert ≤ ·) then pure none
  else
    let ps ← readVerts s.picture base (triVerts r)
    if !ps.all Vec.finite then pure none
    else
      let tris := setUp v.width v.height v.cull (ps.map fun p => clipOf (descProj v.desc) (worldOf m p))
      pure (some (tris.map fun x => { id := idOf inst page t, verts := x }))

/-- Triangle `t` of a page set up and binned. -/
def Drawn.tri (d : Drawn) (inst page : Nat) (h : PageHead) (m : List Word) (t : Nat) : Drawn :=
  if d.fault.isSome then d
  else
    match d.s.setUpTri d.v inst page h m t with
    | .error e => failDrawn d.s d.v e
    | .ok none => { d with v := d.v.bad 1 }
    | .ok (some bs) => bs.foldl Drawn.bin d

/-- The triangles of a page, in order. -/
def State.drawPage (s : State) (v : View) (inst page : Nat) : Drawn :=
  match readHead s.picture (pageBase (v.dw 0) page) with
  | .error e => failDrawn s v e
  | .ok h =>
    if !h.ok then { s, v := v.bad (if 1 ≤ h.ntri && h.ntri ≤ 128 then h.ntri else 1) }
    else
      match readMatrix s.picture (v.dw 2) inst with
      | .error e => failDrawn s v e
      | .ok m => (List.range h.ntri).foldl (fun d t => d.tri inst page h m t) { s, v }

/-- What raster work leaves, with the abort that a view fault causes (R71). -/
def Drawn.done (d : Drawn) : State :=
  match d.fault with
  | some a => d.s.faultView d.v 4 a
  | none => d.s.setView d.v

/-- The next entry of a view's draw stream: its instance and page; none for one that R71 skips. -/
def State.readEntry (s : State) (v : View) : Except (Nat × Nat × Nat) (Option (Nat × Nat)) := do
  let e : DWord := BitVec.ofNat 64 (← s.picture (v.dw 3 + 8 * v.next) 8)
  let inst := bits e 63 40
  let page := bits e 31 0
  pure (if bits e 39 32 ≠ 0 || inst = 2 ^ 24 - 1 || page = 0xFFFFFFFF then none else some (inst, page))

/-- The next entry drawn. -/
def State.drawEntry (s : State) (id : Nat) : Option State :=
  match s.view? id with
  | none => none
  | some v =>
    if v.phase ≠ .drawing || v.count ≤ v.next then none
    else
      let v' := { v with next := v.next + 1 }
      match s.readEntry v with
      | .error e => some (failDrawn s v' e).done
      | .ok none => some (s.setView (v'.bad 1))
      | .ok (some (inst, page)) =>
        match s.choosePage v' page with
        | (r, none) => some r.done
        | (r, some p) => some (r.s.drawPage r.v inst p).done

/-- DRAW_ENTRY_READ (R81). -/
def execDrawEntryRead (view : Nat) (s : State) : Host.Outcome State Fault Refusal := onEvent s (s.drawEntry view)

/-- The entries of the triangle that a view's next draw-stream entry brings first; none where it brings none, or a fault comes first. -/
def State.nextEntries (s : State) (v : View) : List (Nat × BinnedTri) :=
  match s.readEntry v with
  | .ok (some (inst, page)) =>
    match s.choosePage v page with
    | (r, some p) =>
      match readHead r.s.picture (pageBase (v.dw 0) p), readMatrix r.s.picture (v.dw 2) inst with
      | .ok h, .ok m =>
        if !h.ok then []
        else ((List.range h.ntri).findSome? fun t =>
          match r.s.setUpTri v inst p h m t with
          | .error _ => some []
          | .ok none => none
          | .ok (some bs) => (bs.map v.binEntries).find? fun es => !es.isEmpty).getD []
      | _, _ => []
    | (_, none) => []
  | _ => []

/-- A flush in mid-draw that the event asks for: the buffer cannot take the next triangle, which the next entry brings (R76). -/
def State.binFlush (s : State) (id : Nat) : Option State :=
  match s.view? id with
  | none => none
  | some v =>
    if v.phase ≠ .drawing || v.count ≤ v.next || !s.binFull v (s.nextEntries v) then none
    else
      let w := s.flushView { v with flushes := v.flushes + 1 }
      some (w.1.endFlush v w.2)

/-- BIN_FLUSH (R76). -/
def execBinFlush (view : Nat) (s : State) : Host.Outcome State Fault Refusal := onEvent s (s.binFlush view)

/-! ## The seal (R77, R80) -/

/-- Tiles that were never written go to VTBACK as background, under EXPORT without LOAD (R77). -/
def State.exportBlank (s : State) (v : View) : Work :=
  if !v.exports || v.loads then (s, none)
  else
    ((List.range v.tilesAll).filter fun t => (v.tile? t).isNone).foldl (fun w t => Work.andThen w fun s =>
      s.attempt (s.dumpTile v { idx := t, pixels := List.replicate 64 (background, f0) })) (s, none)

/-- The final flush, which is not counted, and the seal. -/
def State.viewSeal (s : State) (id : Nat) : Option State :=
  match s.view? id with
  | none => none
  | some v =>
    if v.phase ≠ .drawing || v.next < v.count then none
    else
      match s.flushView v with
      | (s, some a) => some (s.endFlush v (some a))
      | (s, none) =>
        let w := (s.view? id).getD v
        let w := { w with tiles := w.tiles.map fun x => if x.state = .opened then { x with state := .sealed } else x }
        match (s.setView w).exportBlank w with
        | (s, some a) => some (s.faultView w 4 a)
        | (s, none) =>
          let s := s.setView { w with phase := .sealed, sealDone := true }
          some ((s.writeViewRecord (w.dw 20) (w.statsWords 0)).bumpCounter (dwordAt w.desc 18))

/-- VIEW_SEAL (R80). -/
def execViewSeal (view : Nat) (s : State) : Host.Outcome State Fault Refusal := onEvent s (s.viewSeal view)

/-! ## Release and the end of a view (R77, R80, R93, R94) -/

/-- A tile released; under EXPORT it is written to VTBACK first, where a spilled one is already (R77, R78). Tiles of an aborted view are released
without export (R71). -/
def State.releaseTile (s : State) (v : View) (t : Nat) : State :=
  match v.tile? t with
  | none => s
  | some x =>
    let v' := { v with tiles := v.tiles.filter fun y => y.idx ≠ t }
    if v.exports && !v.aborted && !x.spilled then
      match s.dumpTile v x with
      | .error (_, _, a) => s.faultView v' 4 a
      | .ok s => s.setView v'
    else s.setView v'

/-- The count of a tile falls by one; at zero it is SHADED (R77, R93). -/
def State.dropRef (s : State) (id t : Nat) : State :=
  match s.view? id with
  | none => s
  | some v =>
    match v.tile? t with
    | none => s
    | some x => s.setView (v.setTile (if x.refs ≤ 1 then { x with refs := 0, state := .shaded } else { x with refs := x.refs - 1 }))

/-- A tile of a view, by the view's number, released. -/
def State.freeTile (s : State) (id t : Nat) : State :=
  match s.view? id with
  | some v => s.releaseTile v t
  | none => s

/-- The SHADED tiles of a view released, the lowest first. -/
def State.releaseShaded (s : State) (id : Nat) : State :=
  let ts := match s.view? id with
    | some v => sortBy (fun t => t) ((v.tiles.filter fun (x : VTile) => decide (x.state = TileState.shaded)).map VTile.idx)
    | none => []
  ts.foldl (fun s t => s.freeTile id t) s

/-- A view whose every tile has been released ends: the shading record, then DONECTR. An aborted view has written its record (R71). -/
def State.viewDone (s : State) (id : Nat) : Option State :=
  match s.view? id with
  | none => none
  | some v =>
    if !v.tiles.isEmpty then none
    else if v.aborted then some ((s.bumpCounter (dwordAt v.desc 19)).dropView id)
    else if v.phase ≠ .sealed then none
    else some (((s.writeViewRecord (v.dw 20 + 0x40) v.shadingWords).bumpCounter (dwordAt v.desc 19)).dropView id)

/-- VIEW_DONE (R80). -/
def execViewDone (view : Nat) (s : State) : Host.Outcome State Fault Refusal := onEvent s (s.viewDone view)

/-- VISWAYS [3:0], 0 to 8, which takes effect when no view is active (R77, R215). -/
def State.writeVisways (s : State) (v : Word) : State :=
  let v := BitVec.ofNat 32 (bits v 3 0)
  if 8 < v.toNat then s else ({ s with csr := { s.csr with viswaysNew := v } } : State).takeVisways

/-- VISWAYS_WRITE (R77). -/
def execViswaysWrite (v : Word) (s : State) : Host.Outcome State Fault Refusal := onEvent s (some (s.writeVisways v))

end Sys2Proof.Machine
end

