-- ==== Sys2Proof/Machine/Host.lean ====
section
/-! DEFINITION. What arrives over the links: the bridge, host and peer accesses, and the registers of the doorbell aperture
(R48, R57, R58, R219, R226, R230, R405, R438, R439). -/

namespace Sys2Proof.Machine

/-- HOST_FORWARD (R48): an access of any size, unchanged, in the order received. The model takes this device as the one that its tray's straps name, and the device
number given as that of a peer of the tray (log 81). -/
def execHostForward (dev : Nat) (write : Bool) (addr : DWord) (data : Payload) (s : State) : Host.Outcome State Fault Refusal :=
  onEvent s (some { s with forwarded := { dev, write, addr, data } :: s.forwarded })

/-! ## Device registers (R58) -/

/-- Contexts whose table entry has CV = 1, with their CEIL (R219, R430). -/
def ceilings (mem : Memory) (base : Nat) : Tab Nat :=
  mem.filterMap fun c =>
    if base ≤ c.1 && c.1 < base + 4097 * 32 && (c.1 - base) % 32 = 16 && bit c.2 4 then some ((c.1 - base) / 32, bits c.2 3 0) else none

/-- A CTXTAB write: an unusable table is ignored; PERFCEIL is loaded anew (R216, R219, R430). -/
def State.ctxtabWrite (s : State) (pa : DWord) : Option State :=
  let b := pa.toNat
  if s.serves && b % 64 = 0 && b + 4097 * 32 ≤ Config.dramBytes then
    some { s with csr := { s.csr with ctxtab := pa, ctxtabSet := true }, perfceil := ceilings s.mem b }
  else none

/-- CTXTAB_WRITE (R219). -/
def execCtxtabWrite (pa : DWord) (s : State) : Host.Outcome State Fault Refusal := onEvent s (s.ctxtabWrite pa)

/-- PERMITACK (R405): the effect of TRAPACK; an unheld or out-of-range token is ignored. -/
def State.permitAck (s : State) (token : DWord) : Option State :=
  if s.serves then some (s.returnPermit token.toNat).2 else none

/-- PERMITACK (R405). -/
def execPermitack (token : DWord) (s : State) : Host.Outcome State Fault Refusal := onEvent s (s.permitAck token)

/-- Some queue is enabled. -/
def State.anyEnabled (s : State) : Bool := s.csr.qtbaseSet && (List.range Config.numQueues).any fun q => s.qFlag q 16

/-- A DEVNUM write (R226). -/
def State.devnumWrite (s : State) (v : DWord) : Option State :=
  if !s.serves || 143 < bits v 7 0 || bits v 63 9 ≠ 0 || s.anyEnabled || s.views.any View.active then none
  else some { s with csr := { s.csr with devnum := v } }

/-- DEVNUM_WRITE (R226). -/
def execDevnumWrite (v : DWord) (s : State) : Host.Outcome State Fault Refusal := onEvent s (s.devnumWrite v)

/-- LINKSTAT (R439). -/
def Port.word (x : Port) : Nat := x.replays % 2 ^ 32 * 2 ^ 32 + x.retrains % 2 ^ 16 * 2 ^ 16 + x.margin % 256 * 256 + x.state % 4

/-! ## The aperture (R57, R439, R441) -/

/-- What a read of a register at an offset of the aperture returns, with the state after it. In RECOVERY only LINKSTAT answers. Before QTBASE
is written PROGRESS and STATUS read 0 (R60; log 81). -/
def State.apertureRead (s : State) (o : Nat) : Nat × State :=
  let q := o / 64
  if 0x40080 ≤ o && o < 0x40080 + 8 * 18 then ((s.port ((o - 0x40080) / 8)).word, s)
  else if !s.serves then (0, s)
  else if o < 0x40000 then
    if o % 64 = 0x08 then
      let v := if s.csr.qtbaseSet then max (s.qProgress q) (tabGet s.progressRead q 0) else 0
      (v, { s with progressRead := tabSet s.progressRead q v })
    else if o % 64 = 0x20 then (if s.csr.qtbaseSet then (s.queueWord q 1).toNat else 0, s)
    else (0, s)
  else if o = 0x40068 then (s.csr.devnum.toNat, s)
  else if o = 0x40110 then (s.linkLost.toNat, s)
  else (0, s)

/-- The state that an event leaves; a program word's fault leaves none. -/
def eventState (o : Host.Outcome State Fault Refusal) (s : State) : State :=
  match o with
  | .next t => t
  | _ => s

/-- What a write of a register at an offset of the aperture does. -/
def State.apertureWrite (s : State) (o : Nat) (v : DWord) : State :=
  let q := o / 64
  if o < 0x40000 then
    if o % 64 = 0 then (s.doorbell q v.toNat).getD s
    else if o % 64 = 0x10 then eventState (execPrioWrite q v s) s
    else if o % 64 = 0x18 then
      match v.toNat with
      | 1 => eventState (execCtrlEnable q s) s
      | 2 => eventState (execCtrlDisable q s) s
      | 3 => eventState (execCtrlResume q s) s
      | 4 => eventState (execCtrlSkip q s) s
      | 5 => eventState (execCtrlClear q s) s
      | _ => s
    else s
  else
    (match o - 0x40000 with
     | 0x00 => s.viewBell v
     | 0x40 => s.ctxtabWrite v
     | 0x48 => s.permitAck v
     | 0x50 => some (eventState (execPreemptctx v s) s)
     | 0x58 => s.attreqWrite v
     | 0x60 => s.fwloadWrite v
     | 0x68 => s.devnumWrite v
     | _ => none).getD s

/-! ## Accesses over the links (R230, R231, R438, R441) -/

/-- A read that no row of R3 answers: a free value (log 45). -/
def State.openRead (s : State) (size : Nat) : Nat × State :=
  ((Config.freeDWord s.fresh).toNat % 2 ^ (8 * size), { s with fresh := s.fresh + 1 })

/-- A read that arrives over the links: its value and the state after it (R57, R58, R230, R441). -/
def State.linkRead (s : State) (size pa : Nat) : Nat × State :=
  if Config.apertureBase ≤ pa && pa < Config.apertureBase + Config.apertureSize then
    if size = 8 && pa % 8 = 0 then s.apertureRead (pa - Config.apertureBase) else (0, s)
  else if !s.serves then (0, s)
  else if pa + size ≤ Config.dramBytes then (s.readPhys pa size, s)
  else
    match localLoc pa true with
    | some (.win c o) => if zeroRow o then s.openRead size else (s.readLocNat (.win c o) size, s)
    | _ => s.openRead size

/-- A write that arrives over the links. -/
def State.linkWrite (s : State) (size pa : Nat) (data : DWord) : State :=
  if Config.apertureBase ≤ pa && pa < Config.apertureBase + Config.apertureSize then
    if size = 8 && pa % 8 = 0 then s.apertureWrite (pa - Config.apertureBase) data else s
  else if pa + size ≤ Config.dramBytes then s.writePhys pa size data.toNat
  else if !s.serves then s
  else
    match localLoc pa true with
    | some (.win c o) => if zeroRow o then s else s.writeLocNat (.win c o) size data.toNat
    | _ => s

/-- A read of `size` bytes: its first 8 bytes are the reply (log 6). One of no bytes, and one of more than 8 of the aperture, returns zero
(R57). -/
def State.linkReply (s : State) (size pa : Nat) : Nat × State :=
  let aperture := Config.apertureBase ≤ pa && pa < Config.apertureBase + Config.apertureSize
  if size = 0 || (aperture && 8 < size) then (0, s) else s.linkRead (min size 8) pa

/-- LINK_ACCESS (R226, R230): a host access, or that of a peer device, performed at the home. A device without a number takes none from a
peer. A write of more than 8 bytes arrives as several (log 6). -/
def execLinkAccess (use : LinkUse) (size : Nat) (pa data : DWord) (s : State) : Host.Outcome State Fault Refusal :=
  onEvent s (
    if use.peer && !bit s.csr.devnum 8 then none
    else if use.write then if size = 0 || 8 < size then none else some (s.linkWrite size pa.toNat data)
    else
      let (v, s) := s.linkReply size pa.toNat
      some { s with hostReply := BitVec.ofNat 64 v })

end Sys2Proof.Machine
end

