-- ==== Sys2Proof/Machine/Csr.lean ====
section
/-! DEFINITION. The CSR map, its reads and writes, CSRR, CSRW, CSRX, SETPERF, TLBI and TRAPACK (R205 to R216, R220, R391, R397, R401,
R403, R415, R430, R432, R435). -/

namespace Sys2Proof.Machine

/-! ## The map (R212, R214, R391, R401, R415, R432, R226) -/

/-- Access of a CSR. -/
inductive CsrAccess where
  | ro | rw | wo
  deriving DecidableEq, Repr

/-- The unprivileged CSRs: number, whether it has 64 bits, access. -/
def userCsrs : List (Nat × Bool × CsrAccess) :=
  [(0x000, true, .ro), (0x001, false, .ro), (0x002, true, .ro), (0x004, true, .ro), (0x010, false, .ro), (0x011, false, .rw),
   (0x012, false, .ro), (0x013, false, .ro), (0x014, false, .ro), (0x015, false, .ro), (0x016, false, .ro), (0x017, false, .ro),
   (0x020, true, .rw), (0x021, false, .ro), (0x022, true, .ro), (0x023, true, .rw), (0x024, false, .ro), (0x025, false, .ro),
   (0x026, false, .ro), (0x030, false, .ro), (0x031, false, .ro), (0x032, false, .ro), (0x033, false, .ro), (0x040, false, .ro),
   (0x060, false, .rw), (0x061, true, .ro), (0x062, true, .ro), (0x063, true, .ro), (0x064, true, .ro), (0x065, true, .ro)]

/-- The privileged CSRs. -/
def privCsrs : List (Nat × Bool × CsrAccess) :=
  [(0x800, true, .rw), (0x801, false, .rw), (0x802, false, .rw), (0x803, false, .rw), (0x804, false, .rw), (0x805, false, .ro),
   (0x806, true, .rw), (0x807, true, .rw), (0x808, true, .ro), (0x809, false, .rw), (0x80A, true, .rw), (0x80B, true, .rw),
   (0x80C, false, .ro), (0x80D, true, .rw), (0x80E, false, .wo), (0x80F, true, .rw), (0x810, true, .wo), (0x811, false, .rw),
   (0x812, false, .rw), (0x813, false, .ro), (0x814, false, .rw), (0x815, true, .ro), (0x816, true, .ro), (0x817, true, .ro),
   (0x818, false, .rw), (0x819, true, .ro), (0x81A, false, .ro), (0x820, true, .rw), (0x821, true, .rw), (0x822, false, .rw),
   (0x823, true, .rw), (0x824, false, .rw), (0x825, true, .ro), (0x830, false, .rw), (0x831, false, .rw), (0x832, true, .ro),
   (0x833, true, .rw), (0x834, true, .rw), (0x840, false, .rw), (0x841, false, .rw), (0x842, false, .rw), (0x843, false, .rw)]

/-- Width and access of a CSR number; none outside the maps. -/
def csrInfo (n : Nat) : Option (Bool × CsrAccess) :=
  ((userCsrs ++ privCsrs).find? fun e => e.1 == n).map fun e => e.2

/-! ## Reads -/

/-- PERMITS (R403). -/
def State.permitsWord (s : State) (core : Nat) : Word :=
  let held := ((List.range 5).map fun k => if (s.core core).permits.getD k false then 2 ^ k else 0).sum
  let waiting := s.groups.countP fun p => keyCore p.1 = core &&
    (p.2.slotA.any Part.awaitsPermit || p.2.slotB.any Part.awaitsPermit || p.2.heldUntil.isSome)
  BitVec.ofNat 32 (min 255 waiting * 256 + held)

/-- PERFSTAT (R213): the recorded request; a group without one reads what it counts as requesting (log 46). -/
def State.perfstatWord (s : State) (core : Nat) (g : Group) (t : Team) : Word :=
  let (l, r) := g.perfReq.getD (s.requestOf g)
  BitVec.ofNat 32 (s.perfCeil t.ctx * 2 ^ 16 + (s.perfPend core).toNat * 2 ^ 14 + r * 2 ^ 12 + l * 2 ^ 8 + (s.core core).ratio * 16 +
    (s.strand (strandOf core)).level)

/-- CARVE (R112). -/
def Core.carveWord (c : Core) : Word := BitVec.ofNat 32 (c.spillWays * 2 ^ 16 + c.scratchWays * 2 ^ 8 + c.rsv)

/-- An unprivileged CSR as the group at `key` reads it (R212). -/
def State.userCsr (s : State) (key : Nat) (g : Group) (t : Team) (n : Nat) : DWord :=
  let core := keyCore key
  let c := s.core core
  let w (x : Word) : DWord := x.setWidth 64
  let ofNat (x : Nat) : DWord := BitVec.ofNat 64 x
  match n with
  | 0x000 => s.time
  | 0x001 => w (hi32 s.time)
  | 0x002 => ofNat c.cycle
  | 0x004 => ofNat c.lcycle
  | 0x010 => w (g.arm <<< 16 ||| g.pnd)
  | 0x011 => w g.evmask
  | 0x012 => w g.evslot
  | 0x013 => w (g.evdata.getD 0 0)
  | 0x014 => w (g.evdata.getD 1 0)
  | 0x015 => w (g.evdata.getD 2 0)
  | 0x016 => w (g.evdata.getD 3 0)
  | 0x017 => w g.evcxl
  | 0x020 => g.trapvec
  | 0x021 => w g.frame.tcause
  | 0x022 => g.frame.taddr
  | 0x023 => g.frame.tepc
  | 0x024 => w g.frame.tmask
  | 0x025 => w g.frame.tinfo
  | 0x026 => w g.frame.exmask
  | 0x030 => ofNat core
  | 0x031 => ofNat (strandOf core)
  | 0x032 => ofNat t.id
  | 0x033 => ofNat g.gidx
  | 0x040 => w (s.perfstatWord core g t)
  | 0x060 => w g.fflags
  | 0x061 => (s.strand (strandOf core)).strimb
  | 0x062 => c.fillcnt
  | 0x063 => c.throtcnt
  | 0x064 => g.stallMem
  | 0x065 => g.stallAlu
  | _ => 0

/-- A privileged CSR as the group at `key` reads it (R214, R401, R415); write-only ones read 0. -/
def State.privCsr (s : State) (key : Nat) (g : Group) (t : Team) (n : Nat) : DWord :=
  let core := keyCore key
  let c := s.core core
  let x := s.strand (strandOf core)
  let w (x : Word) : DWord := x.setWidth 64
  let ofNat (x : Nat) : DWord := BitVec.ofNat 64 x
  match n with
  | 0x800 => c.svec
  | 0x801 => ofNat (g.ctxid.getD (s.ctxAsid t.ctx))
  | 0x802 => ofNat (s.perfCeil t.ctx)
  | 0x803 => w s.csr.preemptctl
  | 0x804 => w c.carveWord
  | 0x805 => w (s.permitsWord core)
  | 0x806 => s.csr.spillbase
  | 0x807 => s.csr.frbase
  | 0x808 => s.csr.fltdrop
  | 0x809 => w g.taction
  | 0x80A => g.sscr0
  | 0x80B => g.sscr1
  | 0x80C => w g.uframe.tcause
  | 0x80D => g.uframe.tepc
  | 0x80F => s.csr.savebase
  | 0x811 => w s.timerate
  | 0x812 => w s.csr.sramset
  | 0x813 => w s.csr.eoldays
  | 0x814 => w s.csr.savecnt
  | 0x815 => s.csr.presaves
  | 0x816 => s.csr.preretakes
  | 0x817 => s.csr.predrains
  | 0x818 => w s.csr.pwrlim
  | 0x819 => s.csr.devnum
  | 0x81A => w g.uframe.exmask
  | 0x820 => s.csr.qtbase
  | 0x821 => s.csr.cstable
  | 0x822 => w s.csr.csperiod
  | 0x823 => s.csr.csepoch
  | 0x824 => w s.csr.csctl
  | 0x825 => s.csr.csmiss
  | 0x830 => w s.csr.binbuf
  | 0x831 => w s.csr.visways
  | 0x832 => s.csr.viewdrop
  | 0x833 => s.csr.matdir
  | 0x834 => s.csr.pooltab
  | 0x840 => w s.csr.hotthr
  | 0x841 => w s.csr.hothyst
  | 0x842 => ofNat x.strlim
  | 0x843 => ofNat x.fillbud
  | _ => 0

/-- A CSR as the group at `key` reads it. -/
def State.csrRead (s : State) (key : Nat) (g : Group) (t : Team) (n : Nat) : DWord :=
  if n < 0x800 then s.userCsr key g t n else s.privCsr key g t n

/-! ## Writes (R215) -/

/-- A frame whose TEPC software has written (R203). -/
def Frame.withTepc (f : Frame) (v : DWord) : Frame := { f with tepc := v, rewritten := true }

/-- A group with TEPC of the frame that the trap CSRs read written (R397). -/
def Group.setTepc (g : Group) (v : DWord) : Group :=
  let onS : Bool := match g.mode with
    | .user => false
    | .supervisor => true
    | .normal => g.lastS
  if onS then { g with sframe := g.sframe.withTepc v } else { g with uframe := g.uframe.withTepc v }

/-- A write of EVMASK: a sleep ends when it enables a pending slot (R204). -/
def Group.setEvmask (g : Group) (v : Word) : Group :=
  let v := v &&& 0xFFFF
  let g' := { g with evmask := v }
  if g.pnd &&& v &&& ~~~g.evmask ≠ 0 then g'.wakeSleep else g'

/-- A physical address of device DRAM, aligned, with `n` bytes from it in device DRAM. -/
def dramArea (v : DWord) (align n : Nat) : Bool := v.toNat % align = 0 && v.toNat + n ≤ Config.dramBytes

/-- SAVEBASE and SAVECNT are accepted as a pair (R215, R415). -/
def savePair (base : DWord) (cnt : Nat) : Bool :=
  base.toNat % 2 ^ 24 = 0 && cnt ≤ 4096 && base.toNat + cnt * 2 ^ 24 ≤ Config.dramBytes

/-- A device-scope CSR written: the CSRs with the write taken, as R215 accepts it. -/
def Csrs.write (c : Csrs) (n : Nat) (v : DWord) : Csrs :=
  let lo := lo32 v
  match n with
  | 0x803 => { c with preemptctl := lo &&& 0xFFFF0003 }
  | 0x806 => if dramArea v 65536 (442368 * 1024) then { c with spillbase := v, spillbaseSet := true } else c
  | 0x807 => { c with frbase := v }
  | 0x80F => if savePair v c.savecnt.toNat then { c with savebase := v } else c
  | 0x812 =>
    let x := lo &&& 0x8000FFFF
    { c with sramset := sramWith x (if sramEnabled x then sramStep c.sramset else 0) }
  | 0x814 => if savePair c.savebase (bits lo 12 0) then { c with savecnt := BitVec.ofNat 32 (bits lo 12 0) } else c
  | 0x820 => if dramArea v 64 0x40000 then { c with qtbase := v, qtbaseSet := true } else c
  | 0x821 => { c with cstable := v }
  | 0x822 => { c with csperiod := lo }
  | 0x823 => { c with csepoch := v }
  | 0x830 => if 4 ≤ bits lo 6 0 && bits lo 6 0 ≤ 64 then { c with binbuf := BitVec.ofNat 32 (bits lo 6 0) } else c
  | 0x833 => if v.toNat % 16 = 0 && v.toNat < Config.vaLimit then { c with matdir := v } else c
  | 0x834 => if v.toNat % 64 = 0 && v.toNat < Config.vaLimit then { c with pooltab := v } else c
  | 0x840 => { c with hotthr := lo &&& 0xFFFF }
  | 0x841 => { c with hothyst := lo &&& 0xFFFF }
  | _ => c

/-- A per-group CSR written. -/
def Group.writeCsr (g : Group) (n : Nat) (v : DWord) : Group :=
  match n with
  | 0x011 => g.setEvmask (lo32 v)
  | 0x020 => { g with trapvec := v }
  | 0x023 => g.setTepc v
  | 0x060 => { g with fflags := lo32 v &&& 0x1F }
  | 0x801 => { g with ctxid := some (bits v 15 0) }
  | 0x809 => { g with taction := lo32 v &&& 3 }
  | 0x80A => { g with sscr0 := v }
  | 0x80B => { g with sscr1 := v }
  | 0x80D => { g with uframe := g.uframe.withTepc v }
  | _ => g

/-- Numbers of the per-group CSRs that can be written. -/
def groupCsrs : List Nat := [0x011, 0x020, 0x023, 0x060, 0x801, 0x809, 0x80A, 0x80B, 0x80D]

/-- The value `v` written to CSR `n` by the group at `key`. -/
def State.csrStore (s : State) (key : Nat) (t : Team) (n : Nat) (v : DWord) : State :=
  let core := keyCore key
  let writer := (s.group? key).map Group.team
  if groupCsrs.contains n then s.modGroup key fun g => g.writeCsr n v
  else
    match n with
    | 0x800 => s.modCore core fun c => { c with svec := v }
    | 0x802 => s.setCeil t.ctx (lo32 v)
    | 0x804 => s.writeCarve core (lo32 v)
    | 0x80E =>
      match bits v 31 8 with
      | 0 => (s.walkAct core writer (bits v 7 0) true).getD s
      | 1 => (s.walkAct core writer (bits v 7 0) false).getD s
      | _ => s
    | 0x810 => s.stepTime v
    | 0x811 => s.setRate (lo32 v)
    | 0x818 => s.setPwrlim (lo32 v)
    | 0x824 => if lo32 v = 1 then s.armSheet else if lo32 v = 0 then s.disarmSheet else s
    | 0x831 => s.writeVisways (lo32 v)
    | 0x842 => if 2 ≤ (lo32 v).toNat && (lo32 v).toNat ≤ 12 then s.modStrand (strandOf core) fun x => { x with strlim := (lo32 v).toNat } else s
    | 0x843 => if bits v 6 0 ≤ 64 then s.modStrand (strandOf core) fun x => { x with fillbud := bits v 6 0 } else s
    | _ => { s with csr := s.csr.write n v }

/-! ## CSRR, CSRW and CSRX (R206, R207) -/

/-- The part of a 64-bit value that a width names. -/
def CsrWidth.part (w : CsrWidth) (x : DWord) : DWord :=
  match w with
  | .lo => (lo32 x).setWidth 64
  | .hi => (hi32 x).setWidth 64
  | .d => x

/-- A 64-bit value with the part that a width names replaced. -/
def CsrWidth.merge (w : CsrWidth) (old x : DWord) : DWord :=
  match w with
  | .lo => join64 (lo32 x) (hi32 old)
  | .hi => join64 (lo32 old) (lo32 x)
  | .d => x

/-- The destination registers of a width. -/
def CsrWidth.dests (w : CsrWidth) (d : Operand) : List Operand := if w = .d then [d, Operand.next d 1] else [d]

/-- The value that a word takes from A. -/
def CsrWidth.source (w : CsrWidth) (i : Issue) (a : Operand) (l : Nat) : DWord :=
  if w = .d then i.src64 false a l else (i.srcN a l).setWidth 64

/-- A destination written with the part that a width names, in the lanes of `X`. -/
def CsrWidth.put (w : CsrWidth) (g : Group) (d : Operand) (X : Word) (x : DWord) : Group :=
  if w = .d then g.put64 d X fun _ => x else g.put32 d X fun _ => lo32 x

/-- The trap of a CSR word that some lane executes (R207, R214; log 28): `writes` says that it writes the CSR, `rmw` that it is a CSRX. -/
def csrTrap (i : Issue) (n : Nat) (w : CsrWidth) (writes rmw : Bool) (X : Word) : Option Trap :=
  match csrInfo n with
  | none => if X = 0 then none else some (i.trap 0x03 X)
  | some (_, a) =>
    if X = 0 then none
    else if 0x800 ≤ n && i.grp.mode ≠ .supervisor then some (i.trap 0x04 X (BitVec.ofNat 32 n))
    else if writes && a = .ro then some (i.trap 0x03 X)
    else if n = 0x810 && writes && (w ≠ .d || rmw) then some (i.trap 0x03 X)
    else none

/-- The CSR is written with the part `x`; the high half of a 32-bit CSR takes nothing (R206). -/
def State.csrPut (s : State) (i : Issue) (n : Nat) (w : CsrWidth) (old x : DWord) : State :=
  match csrInfo n with
  | some (wide, _) => if wide || w ≠ .hi then s.csrStore i.key i.team n (CsrWidth.merge w old x) else s
  | none => s

/-- CSRR (R206). -/
def execCsrr (g : Guard) (w : CsrWidth) (d : Operand) (csr : BitVec 12) (s : State) : Host.Outcome State Fault Refusal :=
  onIssue s fun i =>
    let X := i.lanes g
    let n := csr.toNat
    match csrTrap i n w false false X with
    | some t => .trap t s
    | none =>
      match i.budget X (CsrWidth.dests w d) with
      | some t => .trap t s
      | none => .next (s.modGroup i.key fun g => CsrWidth.put w g d X (CsrWidth.part w (s.csrRead i.key i.grp i.team n)))

/-- CSRW (R206). -/
def execCsrw (g : Guard) (w : CsrWidth) (csr : BitVec 12) (a : Operand) (s : State) : Host.Outcome State Fault Refusal :=
  onIssue s fun i =>
    let X := i.lanes g
    let n := csr.toNat
    match csrTrap i n w true false X with
    | some t => .trap t s
    | none =>
      match lowLane X with
      | none => .next s
      | some l => .next (s.csrPut i n w (s.csrRead i.key i.grp i.team n) (CsrWidth.source w i a l))

/-- The new value of a CSRX (R206). -/
def CsrOp.apply (op : CsrOp) (old a : DWord) : DWord :=
  match op with
  | .swap => a
  | .set => old ||| a
  | .clr => old &&& ~~~a

/-- CSRX (R206): A is read before the destination is written. -/
def execCsrx (g : Guard) (op : CsrOp) (w : CsrWidth) (d : Operand) (csr : BitVec 12) (a : Operand) (s : State) :
    Host.Outcome State Fault Refusal :=
  onIssue s fun i =>
    let X := i.lanes g
    let n := csr.toNat
    match csrTrap i n w true true X with
    | some t => .trap t s
    | none =>
      match lowLane X with
      | none => .next s
      | some l =>
        match i.budget X (CsrWidth.dests w d) with
        | some t => .trap t s
        | none =>
          let full := s.csrRead i.key i.grp i.team n
          let old := CsrWidth.part w full
          let x := CsrOp.apply op old (CsrWidth.source w i a l)
          .next ((s.modGroup i.key fun g => CsrWidth.put w g d X old).csrPut i n w full x)

/-! ## Events that are writes of a register -/

/-- A write by a group in supervisor handler mode. -/
def State.handlerWrite (s : State) (key n : Nat) (v : DWord) : Option State :=
  match s.group? key with
  | none => none
  | some g => (s.team? g.team).bind fun t =>
      match csrInfo n with
      | some (_, a) => if a ≠ .ro && (n < 0x800 || g.mode = .supervisor) then some (s.csrStore key t n v) else none
      | none => none

/-- CTXID_WRITE (R220). -/
def execCtxidWrite (key : Nat) (v : Word) (s : State) : Host.Outcome State Fault Refusal :=
  onEvent s (s.handlerWrite key 0x801 (v.setWidth 64))

/-- REGISTER_WRITE (R206). -/
def execRegisterWrite (key : Nat) (csr : BitVec 12) (v : DWord) (s : State) : Host.Outcome State Fault Refusal :=
  onEvent s (s.handlerWrite key csr.toNat v)

/-! ## SETPERF (R208, R430) -/

/-- Status of a request (l, r) recorded in `s`; `asked` is the level before the cap. -/
def State.perfStatus (s : State) (core ceil asked l r : Nat) : Nat :=
  let t := s.coreTarget core
  let n := strandOf core
  if ceil < asked then 3
  else if l < t.1 || r < t.2 then 2
  else if (s.strand n).level = l && (s.core core).ratio = r && !s.perfPend core then 0
  else 1

/-- SETPERF (R208). -/
def execSetperf (g : Guard) (d a b : Operand) (s : State) : Host.Outcome State Fault Refusal :=
  onIssue s fun i =>
    let X := i.lanes g
    if X = 0 then .next s
    else
      let top (o : Operand) : Nat := ((lanesOf X).map fun l => (i.srcN o l).toNat).foldl max 0
      let lv := top a
      let r := top b
      if 15 < lv || 2 < r then .trap (i.trap 0x03 X) s
      else
        match i.budget X [d] with
        | some t => .trap t s
        | none =>
          let ceil := s.perfCeil i.team.ctx
          let s := s.modGroup i.key fun g => { g with perfReq := some (min lv ceil, r) }
          let st := s.perfStatus i.core ceil lv (min lv ceil) r
          .next (s.modGroup i.key fun g => g.put32 d X fun _ => BitVec.ofNat 32 st)

/-! ## TLBI (R210, R220) -/

/-- Some page size has a page that holds both addresses. -/
def samePage (a b : Nat) : Bool := [19, 25, 31].any fun k => a / 2 ^ k = b / 2 ^ k

/-- A TLB entry that an invalidation names. -/
def tlbiHits (m : TlbiMode) (asid va : Nat) (e : TlbEntry) : Bool :=
  match m with
  | .page => e.asid == asid && e.vpn == va / 2 ^ e.shift
  | .ctx => e.asid == asid
  | .all => true

/-- Both levels of TLB and the fetch blocks of every team invalidated. -/
def State.tlbi (s : State) (m : TlbiMode) (asid va : Nat) : State :=
  let keep (l : List TlbEntry) : List TlbEntry := l.filter fun e => !tlbiHits m asid va e
  let gone (t : Team) (base : Nat) : Bool := match m with
    | .page => s.ctxAsid t.ctx == asid && samePage base va
    | .ctx => s.ctxAsid t.ctx == asid
    | .all => true
  { s with cores := s.cores.map fun p : Nat × Core => (p.1, { p.2 with tlb := keep p.2.tlb })
           tlb2 := keep s.tlb2
           teams := s.teams.map fun p : Nat × Team => (p.1, { p.2 with blocks := p.2.blocks.filter fun b => !gone p.2 b.1 }) }

/-- TLBI (R210): every access of this model that comes later uses the new tables, so the slot need not wait. -/
def execTlbi (g : Guard) (m : TlbiMode) (a : Operand) (s : State) : Host.Outcome State Fault Refusal :=
  onIssue s fun i =>
    let X := i.lanes g
    match lowLane X with
    | none => .next s
    | some l =>
      if i.grp.mode ≠ .supervisor then .trap (i.trap 0x04 X) s
      else .next (s.tlbi m (i.grp.ctxid.getD (s.ctxAsid i.team.ctx)) (if m = .page then (i.src64 false a l).toNat else 0))

/-! ## TRAPACK (R211) -/

/-- TRAPACK (R211). -/
def execTrapack (g : Guard) (d a : Operand) (s : State) : Host.Outcome State Fault Refusal :=
  onIssue s fun i =>
    let X := i.lanes g
    match lowLane X with
    | none => .next s
    | some l =>
      let token := (i.srcN a l).toNat
      if i.grp.mode ≠ .supervisor then .trap (i.trap 0x04 X) s
      else if Config.numCores ≤ token / 8 || 4 < token % 8 then .trap (i.trap 0x03 X) s
      else
        match i.budget X [d] with
        | some t => .trap t s
        | none =>
          let (held, s) := s.returnPermit token
          .next (s.modGroup i.key fun g => g.put32 d X fun _ => ofBool (!held))

end Sys2Proof.Machine
end

