-- ==== Sys2Proof/Machine/Pools.lean ====
section
/-! DEFINITION. Path-state pools, their slots, stage queues and statistics (R98 to R100, R329, R333). -/

namespace Sys2Proof.Machine

/-- Virtual address of pool `n`'s descriptor. -/
def State.poolAddr (s : State) (n : Nat) : Nat := s.csr.pooltab.toNat + 64 * n

/-- The pool that eight doublewords describe; none when V is 0 or they break R98. -/
def poolOf (w : List DWord) : Option Pool :=
  let a := dwordAt w 0
  let b := dwordAt w 1
  let m := dwordAt w 5
  let p : Pool :=
    { base := a.toNat, nslots := bits b 47 32, depth := bits b 19 16, size := bits b 12 8, freeQ := (dwordAt w 2).toNat,
      missQ := (dwordAt w 3).toNat, depthQ := (dwordAt w 4).toNat, missMat := if bit m 63 then some (bits m 15 0) else none,
      dly := (dwordAt w 6).toNat }
  if !bit b 0 || bits a 63 49 ≠ 0 || bits a 5 0 ≠ 0 || bits b 63 48 ≠ 0 || bits b 31 20 ≠ 0 || bits b 15 13 ≠ 0 || bits b 7 1 ≠ 0 ||
      bits m 62 16 ≠ 0 || p.depth = 0 || p.size = 0 || 16 < p.size || p.freeQ % 64 ≠ 0 || p.missQ % 64 ≠ 0 || p.depthQ % 64 ≠ 0 then none
  else some p

/-- The descriptor of pool `n`, read by `rd`; none for a number above 63, POOLTAB = 0, or a descriptor that is not in use or malformed. -/
def State.readPool {ε : Type} (s : State) (rd : Reader ε) (n : Nat) : Except ε (Option Pool) :=
  if 63 < n || s.csr.pooltab = 0 then .ok none
  else do
    let w ← readDwords rd (s.poolAddr n) 8
    pure (poolOf w)

/-- Address of a slot (R99). -/
def Pool.slotAddr (p : Pool) (k : Nat) : Nat := p.base + k * (64 + 16 * p.size)

/-- Address of entry `k` of a stage queue (R100). -/
def Pool.entryAddr (p : Pool) (q k : Nat) : Nat := q + 0x40 + 4 * (k % (p.nslots + 1))

/-- A slot index appended to a stage queue: true, or false when the queue is full (R100, R330). -/
def State.pushSlot {ε : Type} (s : State) (rd : State → Reader ε) (wr : Writer ε) (p : Pool) (q slot : Nat) : Except ε (Bool × State) := do
  let w ← rd s q 8
  let r ← rd s (q + 8) 8
  if (w + 2 ^ 64 - r) % 2 ^ 64 = p.nslots + 1 then pure (false, s)
  else
    let s1 ← wr s (p.entryAddr q w) 4 slot
    let s2 ← wr s1 q 8 ((w + 1) % 2 ^ 64)
    pure (true, s2)

/-- A slot index removed from a stage queue; none when it is empty (R100, R330). -/
def State.popSlot {ε : Type} (s : State) (rd : State → Reader ε) (wr : Writer ε) (p : Pool) (q : Nat) : Except ε (Option Nat × State) := do
  let w ← rd s q 8
  let r ← rd s (q + 8) 8
  if w = r then pure (none, s)
  else
    let k ← rd s (p.entryAddr q r) 4
    let s1 ← wr s (q + 8) 8 ((r + 1) % 2 ^ 64)
    pure (some k, s1)

/-! ## The traversal unit's accesses -/

/-- Writes of the engines of a picture (R219). -/
def pictureWrite : Writer (Nat × Nat × Nat) := fun s va n x => s.engineWrite none pictureCtx va n x

/-- A traversal fault (R333, R393). -/
def State.traversalFault (s : State) (pool va : Nat) : State :=
  s.deviceReport { code := 0x22, src := 3, ctx := pictureCtx, addr := BitVec.ofNat 64 va, info := BitVec.ofNat 32 pool }

/-- Statistic `k` of a pool grows by `x` (R329): TRACED, HITS, MISSES, DEPTHX, PROXY, SKIPPED, QLOST, FAULTS; a translation fault gives its
address. -/
def State.poolAdd (s : State) (pool k x : Nat) : Except Nat State :=
  if x = 0 then .ok s
  else (s.engineAdd none pictureCtx (s.csr.pooltab.toNat + 4096 + pool * 64 + 8 * k) x).mapError fun e => e.2.2

/-- A statistic that grows for no slot whose outcome a fault could change: the fault is reported (R333). -/
def State.poolStat (s : State) (pool k x : Nat) : State :=
  match s.poolAdd pool k x with
  | .ok s => s
  | .error a => s.traversalFault pool a

/-- LAUNCHED of a pool's descriptor (R98). -/
def State.poolLaunched (s : State) (pool : Nat) : State :=
  match s.engineAdd none pictureCtx (s.poolAddr pool + 0x38) 1 with
  | .ok s => s
  | .error (_, _, a) => s.traversalFault pool a

/-- An append by the device: a full queue loses the index (R333); a translation fault gives its address. -/
def State.deviceAppend (s : State) (pool : Nat) (p : Pool) (q slot : Nat) : Except Nat State :=
  match s.pushSlot State.picture pictureWrite p q slot with
  | .ok (true, s) => .ok s
  | .ok (false, s) => s.poolAdd pool 6 1
  | .error (_, _, a) => .error a

/-- A translation fault during traversal, reported and counted (R333). -/
def State.countFault (s : State) (pool va : Nat) : State := (s.traversalFault pool va).poolStat pool 7 1

end Sys2Proof.Machine
end

