-- ==== Sys2Proof/Machine/Shade.lean ====
section
/-! DEFINITION. Classification, material bins, launches and the attribute engine (R83 to R97, R101, R102, R443, R444). -/

namespace Sys2Proof.Machine

/-! ## Materials (R84, R89, R216) -/

/-- What the directory and the card say of a material that is not bad. -/
structure MatInfo where
  card : List DWord
  attrs : Nat
  prio : Nat
  quad : Bool
  deriving DecidableEq, Repr

/-- The directory entry and the card of a material; none for a bad one. -/
def State.readMaterial (s : State) (m : Nat) : Except (Nat × Nat × Nat) (Option MatInfo) := do
  let w ← readDwords s.picture (s.csr.matdir.toNat + 16 * m) 2
  let va := (dwordAt w 0).toNat
  let x := dwordAt w 1
  let attrs := bits x 52 48
  if !bit x 63 || bits x 61 53 ≠ 0 || bits x 47 43 ≠ 0 || bits x 39 0 ≠ 0 || Config.vaLimit ≤ va || va % 128 ≠ 0 || 16 < attrs then
    pure none
  else
    let card ← readDwords s.picture va 16
    if cardCode card ≠ 0 || cardRoles card ≠ 1 || cardGroups card 0 ≠ 1 || cardStrTeam card || cardVregs card 0 < 11 + 3 * attrs then
      pure none
    else pure (some { card, attrs, prio := bits x 42 40, quad := bit x 62 })

/-- A material looked up; a translation fault makes it bad and is reported (R89). With MATDIR = 0 every material is bad, without a
report. -/
def State.material (s : State) (m : Nat) : Option MatInfo × State :=
  if s.csr.matdir = 0 then (none, s)
  else
    match s.readMaterial m with
    | .ok i => (i, s)
    | .error (_, _, a) =>
      (none, s.deviceReport { code := 0x24, src := 5, ctx := pictureCtx, addr := BitVec.ofNat 64 a, info := BitVec.ofNat 32 m })

/-! ## Launch (R86 to R88, R94, R98) -/

/-- A lane entry that is a helper. -/
def LaneEntry.helper : LaneEntry → Bool
  | .pixel _ _ _ _ h => h
  | .slot _ _ => false

/-- Two bins are one: they opened in one record. A bin of the same key that has opened since is another (R85, R86). -/
def MatBin.same (a b : MatBin) : Bool := a.source = b.source && a.mat = b.mat && a.miss = b.miss && a.stamp = b.stamp

/-- A launch made: its team is handed to the dispatcher (R87). -/
def State.makeLaunch (s : State) (b : MatBin) (kind seq : Nat) (va : DWord) (desc : List DWord) : State :=
  let n := s.nextLaunch
  let l : Launch := { source := b.source, va, mat := b.mat, seq, kind, entries := b.entries, attrs := b.attrs, engine := b.engine, desc }
  { s with launches := tabSet s.launches n l, nextLaunch := n + 1 }.addTeam fun k =>
    { id := k % 2 ^ 32, ctx := pictureCtx, recidx := seq % 2 ^ 32, card := b.card, prio := b.prio, launch := some n }

/-- A bin launches and is empty (R86). -/
def State.launchBin (s : State) (b : MatBin) (part : Bool) : State :=
  let s := { s with bins := s.bins.filter fun x => !x.same b }
  let n := b.entries.length
  let h := b.entries.countP LaneEntry.helper
  match b.source with
  | .view id =>
    match s.view? id with
    | none => s
    | some v =>
      let v' := { v with launched := v.launched + 1, pixlanes := v.pixlanes + (n - h), helpers := v.helpers + h,
                         vacant := v.vacant + (32 - n), partialCount := v.partialCount + (if part then 1 else 0) }
      (s.setView v').makeLaunch b (if b.quad then 1 else 0) v.launched v.va v.desc
  | .pool p =>
    let seq := tabGet s.poolSeq p 0
    ({ s with poolSeq := tabSet s.poolSeq p (seq + 1) }.poolLaunched p).makeLaunch b (if b.miss then 3 else 2) seq
      (BitVec.ofNat 64 (s.poolAddr p)) []

/-- The open bin of a key. -/
def State.bin? (s : State) (src : BinSource) (mat : Nat) (miss : Bool) : Option MatBin :=
  s.bins.find? fun b => b.source = src && b.mat = mat && b.miss = miss

/-- A bin that has closed, and whether its launch is partial. -/
abbrev Closed := MatBin × Bool

/-- A bin taken from the open ones. -/
def State.closeBin (s : State) (b : MatBin) (part : Bool) : Closed × State := ((b, part), { s with bins := s.bins.filter fun x => !x.same b })

/-- Lane entries appended to the bin of a key; a new bin may evict the one that opened earliest, and a full bin closes (R85, R86). -/
def State.binAppend (s : State) (src : BinSource) (mat : Nat) (miss : Bool) (i : MatInfo) (engine : Nat) (es : List LaneEntry) :
    List Closed × State :=
  let (out, s) : List Closed × State := match s.bin? src mat miss, s.bins with
    | some _, _ => ([], s)
    | none, bins =>
      let (out, s) : List Closed × State := match (if 256 ≤ bins.length then bins.head? else none) with
        | some b => let (c, s) := s.closeBin b true; ([c], s)
        | none => ([], s)
      let b : MatBin := { source := src, mat, miss, quad := i.quad, card := i.card, attrs := i.attrs, prio := i.prio,
                          opened := s.uptime, engine, stamp := s.fresh }
      (out, { s with bins := s.bins ++ [b], fresh := s.fresh + 1 })
  let s : State := { s with bins := s.bins.map fun b : MatBin =>
    if b.source = src && b.mat = mat && b.miss = miss then { b with entries := b.entries ++ es, last := s.uptime } else b }
  match s.bin? src mat miss with
  | some b => if 32 ≤ b.entries.length then let (c, s) := s.closeBin b false; (out ++ [c], s) else (out, s)
  | none => (out, s)

/-- The bins of one uncore cycle launch in the order in which they opened (R444). -/
def State.launchBins (s : State) (cs : List Closed) : State := (sortBy (fun c => c.1.stamp) cs).foldl (fun s c => s.launchBin c.1 c.2) s

/-- A bin has been open, or a pool's bins have taken no record, for 2,000 uncore cycles of 0.5 ns (R86). -/
def State.binDue (s : State) (b : MatBin) : Bool :=
  let now := s.uptime
  b.opened + 1000 ≤ now || match b.source with
    | .view _ => false
    | .pool _ => s.bins.all fun x => x.source ≠ b.source || decide (x.last + 1000 ≤ now)

/-- Of the bins that are due the one opened first launches, the model's choice (R86; log 89). -/
def State.binTimeout (s : State) (n : Nat) : Option State :=
  match s.bins[n]? with
  | none => none
  | some b => if s.bins.findIdx? s.binDue = some n then some (s.launchBin b true) else none

/-- BIN_TIMEOUT (R86). -/
def execBinTimeout (bin : Nat) (s : State) : Host.Outcome State Fault Refusal := onEvent s (s.binTimeout bin)

/-! ## Scanning a tile (R83, R85, R89 to R93, R443) -/

/-- MAT of every pixel of a tile: none for background, `some none` for a bad instance. -/
def State.tileMats (s : State) (v : View) : List (DWord × Word) → Except (Nat × Nat × Nat) (List (Option (Option Nat)))
  | [] => .ok []
  | (id, _) :: rest => do
    let x ← (if id = background then .ok none else (readMat s.picture (v.dw 0) (v.dw 2) id).map some)
    let xs ← s.tileMats v rest
    pure (x :: xs)

/-- The materials of a tile looked up, each once, in the order of its pixels; one with an open bin keeps what the bin says. -/
def State.tileInfos (s : State) (v : View) (ms : List Nat) : List (Nat × Option MatInfo) × State :=
  ms.foldl (fun acc m =>
    match acc.2.bin? (.view v.id) m false with
    | some b => (acc.1 ++ [(m, some { card := b.card, attrs := b.attrs, prio := b.prio, quad := b.quad })], acc.2)
    | none =>
      let (i, s) := acc.2.material m
      (acc.1 ++ [(m, i)], s)) ([], s)

/-- The pixels of the quad that holds pixel `j`, in quad order (R91). -/
def quadOf (j : Nat) : List Nat :=
  let q := j / 16 * 16 + j % 8 / 2 * 2
  [q, q + 1, q + 8, q + 9]

/-- One append of a scan: material, lane entries, and pixels counted in the tile's references. -/
structure BinRecord where
  mat : Nat
  info : MatInfo
  entries : List LaneEntry
  refs : Nat

/-- What pixel `j` of a tile appends (R90, R91, R443). -/
def pixelRecord (x : VTile) (mats : List (Option (Option Nat))) (infos : List (Nat × Option MatInfo)) (j : Nat) : Option BinRecord :=
  match mats.getD j none with
  | some (some m) =>
    match (infos.find? fun p => p.1 == m).bind fun p => p.2 with
    | none => none
    | some i =>
      let at_ (k : Nat) : DWord × Word := x.pixels.getD k (background, f0)
      if !i.quad then some { mat := m, info := i, entries := [.pixel x.idx j (at_ j).1 (at_ j).2 false], refs := 1 }
      else
        let own := (quadOf j).filter fun k => mats.getD k none = some (some m)
        if own.head? ≠ some j then none
        else
          some { mat := m, info := i, refs := own.length,
                 entries := (quadOf j).map fun k =>
                   if own.contains k then .pixel x.idx k (at_ k).1 (at_ k).2 false else .pixel x.idx k (at_ j).1 f0 true }
  | _ => none

/-- Pixel `j` is bad (R83, R89). -/
def pixelBad (mats : List (Option (Option Nat))) (infos : List (Nat × Option MatInfo)) (j : Nat) : Bool :=
  match mats.getD j none with
  | none => false
  | some none => true
  | some (some m) => ((infos.find? fun p => p.1 == m).bind fun p => p.2).isNone

/-- Launches of an engine whose teams await placement (R87). -/
def State.engineWaiting (s : State) (e : Nat) : Nat :=
  s.launches.countP fun p => p.2.engine = e && s.teams.any fun t => t.2.launch = some p.1 && t.2.phase = .dealt

/-- The bins that close because their view has been scanned completely (R86). -/
def State.viewScanned (s : State) (id : Nat) : List Closed :=
  match s.view? id with
  | none => []
  | some v =>
    if v.aborted || v.tiles.any fun x => x.state = .sealed then []
    else (s.bins.filter fun b => b.source = BinSource.view id).map fun b => (b, true)

/-- The records of a scan appended, and the bins that close launched in the order in which they opened (R444). -/
def State.scanBins (s : State) (id e : Nat) (recs : List BinRecord) : State :=
  let (cs, s) := recs.foldl (fun (acc : List Closed × State) r =>
    let (c, s) := acc.2.binAppend (.view id) r.mat false r.info e r.entries
    (acc.1 ++ c, s)) ([], s)
  s.launchBins (cs ++ s.viewScanned id)

/-- A SEALED tile of a view scanned by a classify engine. Which tile and which engine R85 does not say: the model takes the lowest tile and the
engine with the fewest launches that wait (log 89). -/
def State.tileScan (s : State) (id : Nat) : Option State :=
  match s.view? id with
  | none => none
  | some v =>
    match v.phase, argMin VTile.idx (v.tiles.filter fun x => x.state = .sealed), argMin s.engineWaiting ((List.range 8).filter fun e => s.engineWaiting e < 64) with
    | .sealed, some x, some e =>
      match (do let ps ← s.tilePixels v x; let ms ← s.tileMats v ps; pure (ps, ms)) with
      | .error (_, _, a) => some (s.faultView v 5 a)
      | .ok (pixels, mats) =>
        let (infos, s) := s.tileInfos v ((mats.filterMap fun m => m.bind fun k => k).eraseDups)
        let js := List.range 64
        let recs := js.filterMap (pixelRecord { x with pixels } mats infos)
        let refs := (recs.map BinRecord.refs).sum
        let v := { v.setTile { x with state := if refs = 0 then .shaded else .classified, refs } with
                   badmat := v.badmat + js.countP (pixelBad mats infos) }
        let s := (s.setView v).scanBins id e recs
        some (if refs = 0 then s.freeTile id x.idx else s)
    | _, _, _ => none

/-- TILE_SCAN (R85). -/
def execTileScan (view : Nat) (s : State) : Host.Outcome State Fault Refusal := onEvent s (s.tileScan view)

/-! ## The attribute engine (R95 to R97, R102) -/

/-- What the attribute engine writes for a lane: its registers from v0 on, and whether an attribute was short. -/
structure LaneOut where
  regs : List Word
  short : Bool := false

/-- Attribute `a` and its derivatives at λ and its derivatives, three words; +0.0 beyond NATTR (R97). -/
def laneAttr {ε : Type} (rd : Reader ε) (base nattr : Nat) (vs : List Nat) (lam : List Word) (a : Nat) : Except ε (List Word) :=
  if nattr ≤ a then .ok [f0, f0, f0]
  else do
    let A ← readAttr rd base a vs
    let g (k : Nat) : Word := lam.getD k 0
    pure [attrAt (g 0) (g 1) A, attrSlope (g 2) (g 4) A, attrSlope (g 3) (g 5) A]

/-- Attributes 0 to n − 1. -/
def laneAttrs {ε : Type} (rd : Reader ε) (base nattr : Nat) (vs : List Nat) (lam : List Word) : Nat → Except ε (List Word)
  | 0 => .ok []
  | n + 1 => do
    let xs ← laneAttrs rd base nattr vs lam n
    let x ← laneAttr rd base nattr vs lam n
    pure (xs ++ x)

/-- The flags word of v0 (R95). -/
def laneFlags (helper ray back : Bool) : Word :=
  BitVec.ofNat 32 (helper.toNat + (if ray then 4 else 0) + (if back then 8 else 0))

/-- The plane's z / w at a helper's centre, each sum in the form of R97 (log 21). -/
def planeDepth (lam : List Word) (c : List Vec) : Word :=
  fDiv (attrAt (lam.getD 0 0) (lam.getD 1 0) (c.map Vec.z)) (attrAt (lam.getD 0 0) (lam.getD 1 0) (c.map Vec.w))

/-- A pixel lane (R95 to R97). -/
def State.pixelLane (s : State) (l : Launch) (tile j : Nat) (id : DWord) (depth : Word) (helper : Bool) :
    Except (Nat × Nat × Nat) LaneOut := do
  let cp := (dwordAt l.desc 0).toNat
  let base := pageBase cp (idPage id)
  let h ← readHead s.picture base
  let r ← readTri s.picture base (idTri id)
  let m ← readMatrix s.picture (dwordAt l.desc 2).toNat (idInst id)
  let ps ← readVerts s.picture base (triVerts r)
  let c := ps.map fun p => clipOf (descProj l.desc) (worldOf m p)
  let x := 8 * (tile % tilesX l.desc) + j % 8
  let y := 8 * (tile / tilesX l.desc) + j / 8
  let lam := lambdas (descWidth l.desc) (descHeight l.desc) x y c
  let z := if helper then planeDepth lam c else depth
  let as ← laneAttrs s.picture base h.nattr (triVerts r) lam l.attrs
  pure { regs := [laneFlags helper false (fLt (windingD c) f0), BitVec.ofNat 32 (x + y * 65536), z, lo32 id, hi32 id] ++ lam ++ as,
         short := h.nattr < l.attrs }

/-- Changes of λ1 and λ2 over a square of side `w` about a hit, along e1 and e2 (R102; log 21). -/
def footprint (w : Word) (a b : Vec) : List Word :=
  let n := cross3 a b
  let len := fSqrt (dot3 a a)
  let d2 := fDiv (fMul w len) (fSqrt (dot3 n n))
  [fDiv w len, fSub f0 (fDiv (fMul d2 (dot3 a b)) (dot3 a a)), f0, d2]

/-- A ray lane (R95, R97, R101, R102). -/
def State.rayLane (s : State) (l : Launch) (pool slot : Nat) (scene : DWord) : Except (Nat × Nat × Nat) LaneOut := do
  let p ← s.readPool s.picture pool
  let a := match p with
    | some p => p.slotAddr slot
    | none => 0
  let w ← readWords s.picture a 16
  let g (k : Nat) : Word := w.getD k 0
  let first := [BitVec.ofNat 32 slot, g 11]
  if l.kind = 3 then pure { regs := laneFlags false true false :: first ++ List.replicate (8 + 3 * l.attrs) f0 }
  else
    let id := join64 (g 12) (g 13)
    let sc ← readDwords s.picture scene.toNat 3
    let base := pageBase (dwordAt sc 0).toNat (idPage id)
    let h ← readHead s.picture base
    let r ← readTri s.picture base (idTri id)
    let m ← readMatrix s.picture (dwordAt sc 2).toNat (idInst id)
    let ps ← readVerts s.picture base (triVerts r)
    let q := ps.map (worldOf m)
    let e1 := sub3 (vert q 1) (vert q 0)
    let e2 := sub3 (vert q 2) (vert q 0)
    let dir : Vec := { x := g 4, y := g 5, z := g 6 }
    let side := fAdd (g 8) (fMul (g 11) (g 9)) &&& 0x7FFFFFFF
    let lam := [g 14, g 15] ++ footprint side e1 e2
    let as ← laneAttrs s.picture base h.nattr (triVerts r) lam l.attrs
    pure { regs := laneFlags false true (fLt (dot3 e1 (cross3 dir e2)) f0) :: first ++ [lo32 id, hi32 id] ++ lam ++ as,
           short := h.nattr < l.attrs }

/-- What a lane holds when a read for it fails: what is known, and free values (log 22). -/
def lostLane (fresh : Nat) (l : Launch) (n : Nat) (e : LaneEntry) : List Word :=
  let free (k : Nat) : Word := Config.freeWord (fresh + 64 * n + k)
  let rest := (List.range (6 + 3 * l.attrs)).map fun k => free (k + 5)
  match e with
  | .pixel tile j id depth helper =>
    [laneFlags helper false (bit (free 0) 0), BitVec.ofNat 32 (8 * (tile % tilesX l.desc) + j % 8 + (8 * (tile / tilesX l.desc) + j / 8) * 65536),
     if helper then free 1 else depth, lo32 id, hi32 id] ++ rest
  | .slot k _ => [laneFlags false true (bit (free 0) 0), BitVec.ofNat 32 k, free 1, free 2, free 3] ++ rest

/-- A fault on a read of the attribute engine: a view fault (R71), or a traversal fault for a pool (log 22). R407 gives the attribute engine no
SRC: a view fault of its reads, like one of an export, a record or a counter, names the raster engine, 4 (log 80). -/
def State.attrFault (s : State) (l : Launch) (a : Nat) : State :=
  match l.source with
  | .pool p => s.traversalFault p a
  | .view id =>
    match s.view? id with
    | some v => if v.aborted then s.viewFault 4 a else s.faultView v 4 a
    | none => s.viewFault 4 a

/-- One lane of a launch: its registers, whether an attribute was short, and the state after a fault. -/
def State.launchLane (s : State) (l : Launch) (n : Nat) (e : LaneEntry) : LaneOut × State :=
  let r := match e with
    | .pixel tile j id depth helper => s.pixelLane l tile j id depth helper
    | .slot k scene => match l.source with
      | .pool p => s.rayLane l p k scene
      | .view _ => .ok { regs := [] }
  match r with
  | .ok o => (o, s)
  | .error (_, _, a) => ({ regs := lostLane s.fresh l n e }, s.attrFault l a)

/-- Every lane of a launch. -/
def State.launchLanes (s : State) (l : Launch) : List LaneOut × State :=
  l.entries.zipIdx.foldl (fun acc p =>
    let (o, s) := acc.2.launchLane l p.2 p.1
    (acc.1 ++ [o], s)) ([], s)

/-- A group with the lane inputs in its registers, which are bound, and its helper and vacant lanes marked (R91, R92, R95). Whether RAY is set in
the vacant lanes of a ray group R95 does not say: v0 of a vacant lane holds VACANT alone, the model's choice (log 89). -/
def Group.takeInputs (g : Group) (l : Launch) (outs : List LaneOut) : Group :=
  let value (r k : Nat) : Word :=
    match outs[k]? with
    | some o => o.regs.getD r 0
    | none => if r = 0 then 2 else 0
  let g := (List.range (11 + 3 * l.attrs)).foldl (fun g r => g.setV r 0xFFFFFFFF (value r)) g
  { g with helper := maskOf fun k => (l.entries[k]?).any LaneEntry.helper, vacant := maskOf fun k => decide (l.entries.length ≤ k) }

/-- References of a launch's pixels released, and its short lanes counted, once (R93, R97). -/
def State.releasePixels (s : State) (l : Launch) (outs : List LaneOut) : State :=
  match l.source with
  | .pool _ => s
  | .view id =>
    let s := match s.view? id with
      | some v => s.setView { v with attrshort := v.attrshort + outs.countP LaneOut.short }
      | none => s
    let s := l.entries.foldl (fun s e =>
      match e with
      | .pixel tile _ _ _ false => s.dropRef id tile
      | _ => s) s
    s.releaseShaded id

/-- The lane inputs of a placed material or stage team written. -/
def State.attributeWrite (s : State) (k : Nat) : Option State :=
  match s.team? k with
  | none => none
  | some t =>
    match t.phase, t.launch.bind (tabGet? s.launches) with
    | .placed, some l =>
      if l.written then none
      else
        let (outs, s) := s.launchLanes l
        let s := { s with fresh := s.fresh + 64 * 33,
                          groups := s.groups.map fun p : Nat × Group => if p.2.team = k then (p.1, p.2.takeInputs l outs) else p }
        let s := match t.launch with
          | some n => { s with launches := tabSet s.launches n { l with written := true, released := true } }
          | none => s
        some (if l.released then s else s.releasePixels l outs)
    | _, _ => none

/-- ATTRIBUTE_WRITE (R95). -/
def execAttributeWrite (team : Nat) (s : State) : Host.Outcome State Fault Refusal := onEvent s (s.attributeWrite team)

end Sys2Proof.Machine
end

