-- ==== Sys2Proof/Machine/Rays.lean ====
section
/-! DEFINITION. Ray stages: PSALLOC, PSFREE, SQPUSH, SQPOP, TRACE, the traversal unit, ATTR and FBACK (R101, R104, R327 to R335, R342,
R343). -/

namespace Sys2Proof.Machine

/-! ## Words whose lanes each make several accesses (R232, R233, R328) -/

/-- The check that fails for a lane, and its address. -/
abbrev LaneErr := CheckFail × DWord

/-- An access of `n` bytes by such a word: it meets demand windows and no range lock (R253, R256). -/
def Issue.laneAccess (i : Issue) (acc n : Nat) (store : Bool) : Access :=
  ({ size := n, align := n, need := { r := !store, w := store }, acc, store, plain := false, demand := true } : Access).by i

/-- Reads by the issuing group: `acc` is the ACC of TINFO. -/
def State.laneRead (s : State) (i : Issue) (acc : Nat) : Reader LaneErr := fun va n =>
  match s.check i (i.laneAccess acc n false) (BitVec.ofNat 64 va) with
  | .ok loc => .ok (s.readLocNat loc n)
  | .error f => .error ({ f with size := n }, BitVec.ofNat 64 va)

/-- Writes by the issuing group. -/
def laneWrite (i : Issue) (acc : Nat) : Writer LaneErr := fun s va n x =>
  match s.check i (i.laneAccess acc n true) (BitVec.ofNat 64 va) with
  | .ok loc => .ok (s.homeWrite loc (toBytes n x))
  | .error f => .error ({ f with size := n }, BitVec.ofNat 64 va)

/-- The end of a word at failing checks: the first of them in the order of R232 traps; a word of which some access is suspended at a demand
window, with no other failing check, waits for the copies and acts as a whole afterwards (R253, log 14). -/
def State.laneFail (s : State) (i : Issue) (X : Word) (acc : Nat) (P : Word) (fails : List LaneErr) : Done :=
  match argMin (fun p : LaneErr => p.1.order) (fails.filter fun p => p.1.code ≠ 0) with
  | some (e, va) => .trap (i.trap e.code X (e.info acc) va P) s
  | none => .park .window (fails.foldl (fun s p => s.startCopies i 1 p.1.size fun _ => p.2) s)

/-- What the lanes of a word come to: the state after those that performed, their values, and the lanes that failed. -/
structure LaneRun where
  s : State
  oks : List (Nat × List Word) := []
  fails : List (Nat × LaneErr) := []

/-- The lanes of `X` in ascending order, each a step of its own (R328). -/
def State.runLanes (s : State) (X : Word) (f : State → Nat → Except LaneErr (List Word × State)) : LaneRun :=
  (lanesOf X).foldl (fun (acc : LaneRun) l =>
    match f acc.s l with
    | .ok (x, s) => { acc with s, oks := acc.oks ++ [(l, x)] }
    | .error e => { acc with fails := acc.fails ++ [(l, e)] }) { s }

/-- The end of such a word: the values written in the lanes that performed, on the scoreboard where memory returns them, and the trap of
the first failing check (R232, R233). Checks 1 and 2 stop every lane. `peers` names lanes that read peers (R438). -/
def LaneRun.done (r : LaneRun) (before : State) (i : Issue) (X : Word) (acc words : Nat) (d : Operand) (returned : Bool)
    (peers : List (Nat × Nat) := []) : Done :=
  let stop := r.fails.any fun p => p.2.1.order ≤ 2
  let oks := if stop then [] else r.oks
  let P := maskOf fun l => oks.any fun p => p.1 == l
  let val (k l : Nat) : Word := match oks.find? fun p => p.1 == l with
    | some p => p.2.getD k 0
    | none => 0
  let M := writeMask d X P
  let s := (if stop then before else r.s).modGroup i.key fun g =>
    if returned then g.putReturned false d M words val peers else g.putMany d M words val
  if r.fails.isEmpty then .next (s.suspend i.key)
  else (if r.fails.all fun p => p.2.1.code = 0 then before else s).laneFail i X acc P (r.fails.map Prod.snd)

/-- The lanes of `X` whose accesses need a peer, with the device: those that fail without its route (R438). -/
def State.peersBy (s : State) (X : Word) (f : State → Nat → Except LaneErr (List Word)) : List (Nat × Nat) :=
  s.routes.flatMap fun d =>
    let cut : State := { s with routes := s.routes.filter (· ≠ d) }
    (lanesOf X).filterMap fun l =>
      match f cut l with
      | .error _ => some (l, d)
      | .ok _ => none

/-- The issue of a ray-stage word: pools, slots, queues and scenes are translated under the picture context (R328). -/
def Issue.staged (i : Issue) : Issue := { i with team := { i.team with ctx := pictureCtx } }

/-- Reads and writes of a ray-stage word. -/
def State.stageRead (s : State) (i : Issue) : Reader LaneErr := s.laneRead i.staged 9
def stageWrite (i : Issue) : Writer LaneErr := laneWrite i.staged 9

/-- Lane `l` of a group is a helper or vacant lane (R91). -/
def Issue.idle (i : Issue) (l : Nat) : Bool := i.mute.getLsbD l

/-- The checks before any lane: the pool, then the slots (R331). -/
def poolCheck (s : State) (i : Issue) (X : Word) (a : Operand) (l : Nat) (slot : Option (Nat → Nat)) : Except Done Pool :=
  match s.readPool (s.stageRead i) (i.srcN a l).toNat with
  | .error e => .error (s.laneFail i X 9 0 [e])
  | .ok none => .error (.trap (i.trap 0x03 X) s)
  | .ok (some p) =>
    match slot.bind fun f => (lanesOf X).find? fun k => p.nslots < f k with
    | some k => .error (.trap (i.trap 0x03 X (BitVec.ofNat 32 k)) s)
    | none => .ok p

/-! ## PSALLOC, PSFREE, SQPUSH, SQPOP (R330) -/

/-- The queue QSEL names. -/
def Pool.queueOf (p : Pool) : StageQ → Nat
  | .miss => p.missQ
  | .depth => p.depthQ

/-- PSALLOC and SQPOP: an index removed, all ones when the queue is empty. -/
def takeWord (s : State) (g : Guard) (d a : Operand) (q : Pool → Nat) (clear : Bool) : Host.Outcome State Fault Refusal :=
  onIssue s fun i =>
    let X := i.lanes g
    match lowLane X with
    | none => .next s
    | some l =>
      match poolCheck s i X a l none with
      | .error t => t
      | .ok p =>
        match i.budget X [d] with
        | some t => .trap t s
        | none =>
          let r := s.runLanes X fun s k =>
            if i.idle k then .ok ([0xFFFFFFFF], s)
            else do
              let (x, s1) ← s.popSlot (fun s => s.stageRead i) (stageWrite i) p (q p)
              match x with
              | none => pure ([0xFFFFFFFF], s1)
              | some n =>
                if clear then do
                  let s2 ← stageWrite i s1 (p.slotAddr n + 0x28) 4 0
                  pure ([BitVec.ofNat 32 n], s2)
                else pure ([BitVec.ofNat 32 n], s1)
          r.done s i X 9 1 d false

/-- PSALLOC. -/
def execPsalloc (g : Guard) (d a : Operand) (s : State) : Host.Outcome State Fault Refusal := takeWord s g d a Pool.freeQ true

/-- SQPOP. -/
def execSqpop (g : Guard) (q : StageQ) (d a : Operand) (s : State) : Host.Outcome State Fault Refusal :=
  takeWord s g d a (fun p => p.queueOf q) false

/-- PSFREE and SQPUSH: an index appended; the group's earlier accesses perform first. -/
def giveWord (s : State) (g : Guard) (d a b : Operand) (q : Pool → Nat) : Host.Outcome State Fault Refusal :=
  onIssue s fun i =>
    let X := i.lanes g
    match lowLane X with
    | none => .next s
    | some l =>
      match poolCheck s i X a l (some fun k => (i.srcN b k).toNat) with
      | .error t => t
      | .ok p =>
        match i.budget X [d] with
        | some t => .trap t s
        | none =>
          if !i.grp.quiet then .park .reissue s
          else
            let r := s.runLanes X fun s k =>
              if i.idle k then .ok ([2], s)
              else do
                let (ok, s1) ← s.pushSlot (fun s => s.stageRead i) (stageWrite i) p (q p) (i.srcN b k).toNat
                pure ([if ok then 0 else 1], s1)
            r.done s i X 9 1 d false

/-- PSFREE. -/
def execPsfree (g : Guard) (d a b : Operand) (s : State) : Host.Outcome State Fault Refusal := giveWord s g d a b Pool.freeQ

/-- SQPUSH. -/
def execSqpush (g : Guard) (q : StageQ) (d a b : Operand) (s : State) : Host.Outcome State Fault Refusal :=
  giveWord s g d a b fun p => p.queueOf q

/-! ## TRACE (R331, R335) -/

/-- The higher lane of the first two executing lanes that name one slot. -/
def sameSlot (X : Word) (slot : Nat → Nat) : Option Nat :=
  (lanesOf X).find? fun k => (lanesOf X).any fun j => j < k && slot j == slot k

/-- A scene record that can be read has a non-zero `zero` field (R332). -/
def sceneBad {ε : Type} (rd : Reader ε) (va : Nat) : Bool :=
  match readDwords rd (va + 0x20) 4 with
  | .ok w => w.any (· ≠ 0)
  | .error _ => false

/-- TRACE (R335). -/
def execTrace (g : Guard) (sn : Nat) (d a b c : Operand) (s : State) : Host.Outcome State Fault Refusal :=
  onIssue s fun i =>
    let X := i.lanes g
    match lowLane X, d with
    | some l, .v first =>
      let slot (k : Nat) : Nat := (i.srcN b k).toNat
      let len := (i.srcN c l).toNat
      let scene := join64 (i.grp.sreg sn) (i.grp.sreg (sn + 1))
      match poolCheck s i X a l (some slot) with
      | .error t => t
      | .ok p =>
        match sameSlot X slot with
        | some k => .trap (i.trap 0x03 X (BitVec.ofNat 32 k)) s
        | none =>
          if 16 * p.size < len || len % 4 ≠ 0 || 192 < first + len / 4 || sn % 2 ≠ 0 || sceneBad (s.stageRead i) scene.toNat then
            .trap (i.trap 0x03 X) s
          else if !i.grp.quiet then .park .reissue s
          else
            let r := s.runLanes X fun s k =>
              if i.idle k then .ok ([], s)
              else do
                let at_ := p.slotAddr (slot k)
                let _ ← readWords (s.stageRead i) at_ 16
                let s1 ← (List.range (len / 4)).foldlM (fun s n => stageWrite i s (at_ + 0x40 + 4 * n) 4 (i.grp.v (first + n) k).toNat) s
                pure ([], { s1 with rays := s1.rays ++ [{ pool := (i.srcN a l).toNat, slot := slot k, scene, desc := p }] })
            r.done s i X 9 0 d false
    | _, _ => .next s

/-! ## The traversal unit (R101, R104, R333, R334) -/

/-- A hit: its distance, ID and barycentrics. -/
structure Hit where
  t : Word
  id : DWord
  u : Word
  v : Word
  deriving DecidableEq, Repr

/-- What a traversal has found: the closest hit, the counts of R329, and the address of a translation fault. -/
structure Traversal where
  s : State
  best : Option Hit := none
  proxy : Nat := 0
  skipped : Nat := 0
  faults : Nat := 0
  lost : Option Nat := none

/-- A ray: origin, direction and bounds. -/
structure RayGeom where
  org : Vec
  dir : Vec
  tmin : Word
  tmax : Word

/-- A ray that tests nothing (R334). -/
def RayGeom.void (r : RayGeom) : Bool :=
  [r.org.x, r.org.y, r.org.z, r.dir.x, r.dir.y, r.dir.z, r.tmin, r.tmax].any fIsNan || fLt r.tmax r.tmin ||
    (fIsZero r.dir.x && fIsZero r.dir.y && fIsZero r.dir.z)

/-- The test of a triangle given by its world positions (R334). -/
def RayGeom.test (r : RayGeom) (q : List Vec) (id : DWord) : Option Hit :=
  let e1 := sub3 (vert q 1) (vert q 0)
  let e2 := sub3 (vert q 2) (vert q 0)
  let h := cross3 r.dir e2
  let a := dot3 e1 h
  if fIsZero a || fIsNan a then none
  else
    let f := fDiv f1 a
    let sv := sub3 r.org (vert q 0)
    let u := fMul f (dot3 sv h)
    let n := cross3 sv e1
    let v := fMul f (dot3 r.dir n)
    let t := fMul f (dot3 e2 n)
    if fLe f0 u && fLe f0 v && fLe (fAdd u v) f1 && fLe r.tmin t && fLe t r.tmax then some { t, id, u, v } else none

/-- The closer hit; of equal distances the smaller ID (R101). -/
def closer (a : Option Hit) (b : Hit) : Option Hit :=
  match a with
  | none => some b
  | some x => if fLt b.t x.t || (!fLt x.t b.t && b.id.toNat < x.id.toNat) then some b else some x

/-- Triangle `n` of a page tested; one that R68 skips counts as a fault. -/
def Traversal.triangle (x : Traversal) (r : RayGeom) (base inst page : Nat) (h : PageHead) (m : List Word) (n : Nat) : Traversal :=
  if x.lost.isSome then x
  else
    match readTri x.s.picture base n with
    | .error e => { x with lost := some e.2.2 }
    | .ok w =>
      if bits w 31 26 ≠ 0 || (triVerts w).any (h.nvert ≤ ·) then { x with faults := x.faults + 1 }
      else
        match readVerts x.s.picture base (triVerts w) with
        | .error e => { x with lost := some e.2.2 }
        | .ok ps =>
          if !ps.all Vec.finite then { x with faults := x.faults + 1 }
          else
            match r.test (ps.map (worldOf m)) (idOf inst page n) with
            | some hit => { x with best := closer x.best hit }
            | none => x

/-- A page reported to the pool's dailies. -/
def Traversal.report (x : Traversal) (p : Pool) (page : Nat) : Traversal :=
  match x.s.pictureReport p.dly page with
  | .ok (_, s) => { x with s }
  | .error e => { x with lost := some e.2.2 }

/-- The page used for a leaf that names `page` (R81, R104). -/
def Traversal.choose (x : Traversal) (p : Pool) (cp res page : Nat) : Traversal × Option Nat :=
  match readResident x.s.picture res page with
  | .error e => ({ x with lost := some e.2.2 }, none)
  | .ok true => (x, some page)
  | .ok false =>
    let x := x.report p page
    if x.lost.isSome then (x, none)
    else
      match readParent x.s.picture (pageBase cp page) with
      | .error e => ({ x with lost := some e.2.2 }, none)
      | .ok parent =>
        if parent = 0xFFFFFFFF then ({ x with skipped := x.skipped + 1 }, none)
        else
          match readResident x.s.picture res parent with
          | .error e => ({ x with lost := some e.2.2 }, none)
          | .ok true => ({ x with proxy := x.proxy + 1 }, some parent)
          | .ok false =>
            let x := x.report p parent
            ({ x with skipped := x.skipped + 1 }, none)

/-- A leaf: its instance record and page checked, its triangles tested. -/
def Traversal.leaf (x : Traversal) (r : RayGeom) (p : Pool) (scene : List DWord) (inst page : Nat) : Traversal :=
  let cp := (dwordAt scene 0).toNat
  let ib := (dwordAt scene 2).toNat
  match readDwords x.s.picture (ib + 64 * inst + 0x30) 2 with
  | .error e => { x with lost := some e.2.2 }
  | .ok z =>
    if bits (dwordAt z 0) 63 16 ≠ 0 || dwordAt z 1 ≠ 0 then { x with faults := x.faults + 1 }
    else
      match x.choose p cp (dwordAt scene 1).toNat page with
      | (x, none) => x
      | (x, some pg) =>
        match readHead x.s.picture (pageBase cp pg), readMatrix x.s.picture ib inst with
        | .error e, _ => { x with lost := some e.2.2 }
        | _, .error e => { x with lost := some e.2.2 }
        | .ok h, .ok m =>
          if !h.ok then { x with faults := x.faults + 1 }
          else (List.range h.ntri).foldl (fun x n => x.triangle r (pageBase cp pg) inst pg h m n) x

/-- A node and what lies below it. Box tests affect timing only: every child that is not empty is visited (log 23). The fuel exceeds the
depth of every tree of 64-byte nodes in the address space. -/
def Traversal.node (r : RayGeom) (p : Pool) (scene : List DWord) : Nat → Nat → Traversal → Traversal
  | 0, _, x => { x with faults := x.faults + 1 }
  | fuel + 1, va, x =>
    if x.lost.isSome then x
    else if va % 64 ≠ 0 then { x with faults := x.faults + 1 }
    else
      match readDwords x.s.picture (va + 0x30) 2 with
      | .error e => { x with lost := some e.2.2 }
      | .ok cs =>
        cs.foldl (fun (x : Traversal) (c : DWord) =>
          if x.lost.isSome then x
          else
            match bits c 63 62 with
            | 0 => if bits c 61 56 ≠ 0 then { x with faults := x.faults + 1 } else x
            | 1 => if bits c 61 49 ≠ 0 then { x with faults := x.faults + 1 } else Traversal.node r p scene fuel (bits c 48 0) x
            | 2 => if bits c 61 56 ≠ 0 then { x with faults := x.faults + 1 } else x.leaf r p scene (bits c 55 32) (bits c 31 0)
            | _ => { x with faults := x.faults + 1 }) x

/-- A traversal of a scene. -/
def State.traverse (s : State) (r : RayGeom) (p : Pool) (scene : Nat) : Traversal :=
  match readDwords s.picture scene 4 with
  | .error e => { s, lost := some e.2.2 }
  | .ok sc => if dwordAt sc 3 = 0 || r.void then { s } else Traversal.node r p sc (2 ^ 43) (dwordAt sc 3).toNat { s }

/-- What the traversal unit writes to a slot's header: BOUNCE, T, HITID, and on a hit U and V (R101). -/
def State.writeSlot (s : State) (at_ : Nat) (bounce : Option Nat) (t : Word) (id : DWord) (uv : Option (Word × Word)) :
    Except (Nat × Nat × Nat) State := do
  let s ← (match bounce with
    | some b => pictureWrite s (at_ + 0x28) 4 b
    | none => .ok s)
  let s ← pictureWrite s (at_ + 0x2C) 4 t.toNat
  let s ← pictureWrite s (at_ + 0x30) 8 id.toNat
  match uv with
  | some (u, v) => do
    let s ← pictureWrite s (at_ + 0x38) 4 u.toNat
    pictureWrite s (at_ + 0x3C) 4 v.toNat
  | none => pure s

/-- A slot whose traversal met a translation fault: reported and counted, the slot appended to MISSQ with T a NaN and no hit (R333). A
fault of that append is reported and counted as well (log 69). -/
def State.loseRay (s : State) (y : Ray) (a : Nat) : State :=
  let s := s.countFault y.pool a
  let s := match s.writeSlot (y.desc.slotAddr y.slot) none 0x7FC00000 background none with
    | .ok s => s
    | .error _ => s
  match s.deviceAppend y.pool y.desc y.desc.missQ y.slot with
  | .ok s => s
  | .error a => s.countFault y.pool a

/-- What the traversal unit did for a slot, or, where it met a translation fault, the fault's own outcome for the slot in the state before:
nothing that R101 gives a slot is left of it (R333). -/
def State.orLose (s : State) (y : Ray) (r : Except Nat State) : State :=
  match r with
  | .ok s => s
  | .error a => s.loseRay y a

/-- A slot appended to the bin of a material, or to MISSQ when the material is bad (R89, R101). -/
def State.binSlot (s : State) (y : Ray) (mat : Option Nat) (miss : Bool) : Except Nat State :=
  match mat with
  | none => s.deviceAppend y.pool y.desc y.desc.missQ y.slot
  | some m =>
    let (info, s) := match s.bin? (.pool y.pool) m miss with
      | some b => (some ({ card := b.card, attrs := b.attrs, prio := b.prio, quad := b.quad } : MatInfo), s)
      | none => s.material m
    match info with
    | none => s.deviceAppend y.pool y.desc y.desc.missQ y.slot
    | some i =>
      let (closed, s) := s.binAppend (.pool y.pool) m miss i 8 [.slot y.slot y.scene]
      .ok (s.launchBins closed)

/-- The outcome of a traced ray: its header and statistic written, its slot appended (R101). -/
def State.endRay (s : State) (y : Ray) (bounce : Nat) (best : Option Hit) : Except Nat State :=
  let at_ := y.desc.slotAddr y.slot
  match best with
  | some h => do
    let s ← (s.writeSlot at_ (some bounce) h.t h.id (some (h.u, h.v))).mapError fun e => e.2.2
    let s ← s.poolAdd y.pool 1 1
    let sc ← (readDwords s.picture y.scene.toNat 3).mapError fun e => e.2.2
    let mat ← (readMat s.picture (dwordAt sc 0).toNat (dwordAt sc 2).toNat h.id).mapError fun e => e.2.2
    s.binSlot y mat false
  | none => do
    let s ← (s.writeSlot at_ (some bounce) 0x7F800000 background none).mapError fun e => e.2.2
    let s ← s.poolAdd y.pool 2 1
    match y.desc.missMat with
    | some m => s.binSlot y (some m) true
    | none => s.deviceAppend y.pool y.desc y.desc.missQ y.slot

/-- A slot at its pool's DEPTH: not traced, appended to DEPTHQ (R101). -/
def State.deepRay (s : State) (y : Ray) : Except Nat State := do
  let s ← s.deviceAppend y.pool y.desc y.desc.depthQ y.slot
  s.poolAdd y.pool 3 1

/-- A traversal's counts, added to the statistics of its pool; then the outcome (R329, R333). -/
def State.endTraversal (s : State) (y : Ray) (bounce : Nat) (x : Traversal) : State :=
  let counted : Except Nat State := do
    let s ← s.poolAdd y.pool 4 x.proxy
    let s ← s.poolAdd y.pool 5 x.skipped
    s.poolAdd y.pool 7 x.faults
  match counted, x.lost with
  | .ok s, none => s.orLose y (s.endRay y bounce x.best)
  | .ok s, some a => s.loseRay y a
  | .error a, _ => s.loseRay y a

/-- A ray in flight finished. -/
def State.traversalComplete (s : State) (n : Nat) : Option State :=
  match s.rays[n]? with
  | none => none
  | some y =>
    let s : State := { s with rays := s.rays.eraseIdx n }
    some <| match readWords s.picture (y.desc.slotAddr y.slot) 16 with
    | .error (_, _, a) => s.loseRay y a
    | .ok w =>
      let g (k : Nat) : Word := w.getD k 0
      let b := bits (g 10) 3 0
      if y.desc.depth ≤ b then s.orLose y (s.deepRay y)
      else
        let r : RayGeom :=
          { org := { x := g 0, y := g 1, z := g 2 }, dir := { x := g 4, y := g 5, z := g 6 }, tmin := g 3, tmax := g 7 }
        match s.poolAdd y.pool 0 1 with
        | .error a => s.loseRay y a
        | .ok s =>
          let x := s.traverse r y.desc y.scene.toNat
          x.s.endTraversal y (g 10 + 1).toNat x

/-- TRAVERSAL_COMPLETE (R333). -/
def execTraversalComplete (ray : Nat) (s : State) : Host.Outcome State Fault Refusal := onEvent s (s.traversalComplete ray)

/-! ## ATTR (R342) -/

/-- The attributes that a lane of ATTR receives. -/
def attrLane {ε : Type} (rd : Reader ε) (cp : Nat) (id : DWord) (l1 l2 : Word) (a0 n : Nat) : Except ε (List Word) :=
  let base := pageBase cp (idPage id)
  if bit id 63 then .ok (List.replicate n f0)
  else do
    let h ← readHead rd base
    if h.ntri ≤ idTri id then pure (List.replicate n f0)
    else
      let r ← readTri rd base (idTri id)
      (List.range n).mapM fun k =>
        if h.nattr ≤ a0 + k then pure f0
        else do
          let A ← readAttr rd base (a0 + k) (triVerts r)
          pure (attrAt l1 l2 A)

/-- ATTR. -/
def execAttr (g : Guard) (n a0 : Nat) (d a b : Operand) (s : State) : Host.Outcome State Fault Refusal :=
  onIssue s fun i =>
    let X := i.lanes g
    match lowLane X, d, a with
    | some l, .v f, .v v =>
      if 16 < a0 + n || 191 < v + 3 || 192 < f + n then .trap (i.trap 0x03 X) s
      else
        match i.budget X (spanDests d n) with
        | some t => .trap t s
        | none =>
          let va := i.src64 false b l
          match s.laneRead i 8 va.toNat 8 with
          | .error e => s.laneFail i X 8 0 [e]
          | .ok cp =>
            let s := s.fillLanes i (BitVec.twoPow 32 l) fun _ => va
            let one (s : State) (k : Nat) : Except LaneErr (List Word) :=
              attrLane (s.laneRead i 8) cp (join64 (i.grp.v v k) (i.grp.v (v + 1) k)) (i.grp.v (v + 2) k) (i.grp.v (v + 3) k) a0 n
            (s.runLanes X fun s k => (one s k).map fun ws => (ws, s)).done s i X 8 n d true (s.peersBy X one)
    | _, _, _ => .next s

/-! ## FBACK (R343) -/

/-- FBACK: BMBASE and ENTBASE are aligned when they are multiples of 4 (log 20). -/
def execFback (g : Guard) (d a b : Operand) (s : State) : Host.Outcome State Fault Refusal :=
  onIssue s fun i =>
    let X := i.lanes g
    match lowLane X with
    | none => .next s
    | some l =>
      let va := i.src64 false a l
      match readDailies (s.laneRead i 9) va.toNat with
      | .error e => s.laneFail i X 9 0 [e]
      | .ok h =>
        if !h.ok || h.bm % 4 ≠ 0 || h.ent % 4 ≠ 0 then .trap (i.trap 0x03 X) s
        else
          match i.budget X [d] with
          | some t => .trap t s
          | none =>
            let s := s.fillLanes i (BitVec.twoPow 32 l) fun _ => va
            let r := s.runLanes X fun s k =>
              if i.idle k then .ok ([1], s)
              else do
                let (x, s1) ← s.report (fun s => s.laneRead i 9) (laneWrite i 9) va.toNat (i.srcN b k).toNat
                pure ([BitVec.ofNat 32 x], s1)
            r.done s i X 9 1 d false

end Sys2Proof.Machine
end

