-- ==== Sys2Proof/Machine/Texture.lean ====
section
/-! DEFINITION. TEX, TEXG and TEXQ: bindings, level of detail, filtering (R336 to R341). -/

namespace Sys2Proof.Machine

/-! ## Bindings (R336) -/

/-- A binding record. -/
structure Binding where
  base : Nat
  fmt : Nat
  levels : Nat
  width : Nat
  height : Nat
  filter : Nat
  maxAniso : Nat
  addrU : Nat
  addrV : Nat
  border : Nat
  cmp : Nat
  ntap : Nat
  bias : Word
  minLod : Word
  maxLod : Word
  taps : Nat
  /-- A `zero` field is not zero. -/
  dirty : Bool
  deriving DecidableEq, Repr

/-- The fields of eight doublewords. -/
def bindingOf (w : List DWord) : Binding :=
  let a := dwordAt w 1
  let b := dwordAt w 2
  { base := (dwordAt w 0).toNat, fmt := bits a 63 60, levels := bits a 59 56, width := bits a 29 15 + 1, height := bits a 14 0 + 1,
    filter := bits b 63 62, maxAniso := bits b 61 57, addrU := bits b 56 55, addrV := bits b 54 53, border := bits b 52 51,
    cmp := bits b 50 48, ntap := bits b 47 40, bias := hi32 (dwordAt w 3), minLod := lo32 (dwordAt w 3), maxLod := hi32 (dwordAt w 4),
    taps := (dwordAt w 5).toNat,
    dirty := bits a 55 30 ≠ 0 || bits b 39 0 ≠ 0 || lo32 (dwordAt w 4) ≠ 0 || dwordAt w 6 ≠ 0 || dwordAt w 7 ≠ 0 }

/-- A binding that R341 refuses. -/
def Binding.bad (b : Binding) : Bool :=
  b.dirty || 4 < b.fmt || b.border = 3 || 4 < b.cmp || b.levels = 0 || Nat.log2 (max b.width b.height) + 1 < b.levels ||
    b.maxAniso = 0 || 16 < b.maxAniso || fLt b.maxLod b.minLod

/-- Bytes of a texel. -/
def Binding.bpp (b : Binding) : Nat := [4, 8, 4, 4, 16].getD b.fmt 4

/-- Dimensions of level `m`. -/
def Binding.w (b : Binding) (m : Nat) : Nat := max 1 (b.width / 2 ^ m)
def Binding.h (b : Binding) (m : Nat) : Nat := max 1 (b.height / 2 ^ m)

/-- Start of level `m`. -/
def Binding.start (b : Binding) (m : Nat) : Nat :=
  b.base + ((List.range m).map fun k => ceilDiv (b.w k * b.h k * b.bpp) 128 * 128).sum

/-- A tap (R339). -/
structure Tap where
  dx : Word
  dy : Word
  w : Word
  bil : Bool
  cmpt : Bool
  dirty : Bool
  deriving DecidableEq, Repr

/-- Tap `k` of a table. -/
def readTap {ε : Type} (rd : Reader ε) (at_ k : Nat) : Except ε Tap := do
  let x ← rd (at_ + 16 * k) 16
  let f : Word := wordOf x 3
  pure { dx := wordOf x 0, dy := wordOf x 1, w := wordOf x 2, bil := bit f 1, cmpt := bit f 0, dirty := bits f 31 2 ≠ 0 }

/-! ## Small arithmetic -/

/-- floor of an FP32 number times 2^k; a free value for a NaN or an infinity (log 24). -/
def fFloor (x : Word) (k : Int) : Int :=
  match fVal x with
  | .fin n m e =>
    let q := (roundShift .rdn n m (-(e + k))).1
    if n then -(q : Int) else q
  | _ => Config.freeFloor x k

/-- A value truncated to 8 fraction bits. -/
def fTrunc8 (x : Word) : Word :=
  let n := fFloor x 8
  BitVec.ofNat 32 (fmt32.round .rne (n < 0) n.natAbs (-8)).1

/-- The greater and the smaller of two numbers. -/
def fMax (a b : Word) : Word := BitVec.ofNat 32 (fmt32.minMax true a.toNat b.toNat).1
def fMin (a b : Word) : Word := BitVec.ofNat 32 (fmt32.minMax false a.toNat b.toNat).1

/-- log2. -/
def fLog2 (a : Word) : Word := BitVec.ofNat 32 (flog2Of .rne a.toNat).1

/-- A binary16 value as FP32. -/
def fOfHalf (h : Nat) : Word :=
  match fmt16.read h with
  | .nan _ => 0x7FC00000
  | .inf n => BitVec.ofNat 32 (fmt32.infCode n)
  | .fin n m e => BitVec.ofNat 32 (fmt32.round .rne n m e).1

/-! ## Texels (R336, R338, R339) -/

/-- The four channels of a texel's bytes. -/
def texelOf (fmt x : Nat) : List Word :=
  match fmt with
  | 0 => (List.range 4).map fun k => fDiv (fOfInt (x / 256 ^ k % 256)) (fOfInt 255)
  | 1 => (List.range 4).map fun k => fOfHalf (x / 65536 ^ k % 65536)
  | 2 => [wordOf x 0, f0, f0, f1]
  | 3 => [fOfHalf (x % 65536), fOfHalf (x / 65536 % 65536), f0, f1]
  | _ => (List.range 4).map fun k => wordOf x k

/-- The BORDER colour. -/
def borderOf (k : Nat) : List Word :=
  match k with
  | 0 => [f0, f0, f0, f0]
  | 1 => [f0, f0, f0, f1]
  | _ => [f1, f1, f1, f1]

/-- An index addressed on an axis of `n` texels; none gives the border. -/
def addressOf (mode : Nat) (n : Nat) (i : Int) : Option Nat :=
  match mode with
  | 0 => some (i.emod n).toNat
  | 1 => some (clampInt 0 (n - 1) i).toNat
  | 2 =>
    let k := (i.emod (2 * n)).toNat
    some (if k < n then k else 2 * n - 1 - k)
  | _ => if 0 ≤ i && i < n then some i.toNat else none

/-- The comparison of R339: 1.0 or 0.0 in every channel. -/
def compareTexel (cmp : Nat) (ref : Word) (t : List Word) : List Word :=
  let red := t.getD 0 0
  let ok := match cmp with
    | 1 => fLt ref red
    | 2 => fLe ref red
    | 3 => fLt red ref
    | _ => fLe red ref
  List.replicate 4 (if ok then f1 else f0)

/-- Texel (i, j) of level `m`, compared with `ref` when one is given. -/
def readTexel {ε : Type} (rd : Reader ε) (b : Binding) (ref : Option Word) (m : Nat) (i j : Int) : Except ε (List Word) := do
  let t ← (match addressOf b.addrU (b.w m) i, addressOf b.addrV (b.h m) j with
    | some x, some y => (rd (b.start m + (y * b.w m + x) * b.bpp) b.bpp).map (texelOf b.fmt)
    | _, _ => .ok (borderOf b.border))
  pure (match ref with
    | some r => compareTexel b.cmp r t
    | none => t)

/-- A channelwise operation. -/
def zip2 (f : Word → Word → Word) (a b : List Word) : List Word := (List.range 4).map fun k => f (a.getD k 0) (b.getD k 0)

/-- a + s x (b − a), channel by channel. -/
def lerp4 (s : Word) (a b : List Word) : List Word := zip2 (fun x y => fAdd x (fMul s (fSub y x))) a b

/-- The NaN of R338 in every channel. -/
def nan4 : List Word := List.replicate 4 0x7FC00000

/-- The texel nearest to sample position (x, y) of level `m`. -/
def pointAt {ε : Type} (rd : Reader ε) (b : Binding) (ref : Option Word) (m : Nat) (x y : Word) : Except ε (List Word) :=
  readTexel rd b ref m (fFloor (fAdd x fHalf) 0) (fFloor (fAdd y fHalf) 0)

/-- The bilinear sample at position (x, y) of level `m`. -/
def bilinearAt {ε : Type} (rd : Reader ε) (b : Binding) (ref : Option Word) (m : Nat) (x y : Word) : Except ε (List Word) := do
  let i := fFloor x 0
  let j := fFloor y 0
  let al := fTrunc8 (fSub x (fOfInt i))
  let be := fTrunc8 (fSub y (fOfInt j))
  let a ← readTexel rd b ref m i j
  let c ← readTexel rd b ref m (i + 1) j
  let d ← readTexel rd b ref m i (j + 1)
  let e ← readTexel rd b ref m (i + 1) (j + 1)
  pure (lerp4 be (lerp4 al a c) (lerp4 al d e))

/-- Sample positions of (u, v) at level `m`. -/
def Binding.x (b : Binding) (m : Nat) (u : Word) : Word := fSub (fMul u (fOfInt (b.w m))) fHalf
def Binding.y (b : Binding) (m : Nat) (v : Word) : Word := fSub (fMul v (fOfInt (b.h m))) fHalf

/-- The trilinear sample at λ. -/
def trilinearAt {ε : Type} (rd : Reader ε) (b : Binding) (ref : Option Word) (lam u v : Word) : Except ε (List Word) :=
  if !fFinite u || !fFinite v then .ok nan4
  else do
    let m := (fFloor lam 0).toNat
    let n := min (m + 1) (b.levels - 1)
    let s0 ← bilinearAt rd b ref m (b.x m u) (b.y m v)
    let s1 ← bilinearAt rd b ref n (b.x n u) (b.y n v)
    pure (lerp4 (fTrunc8 (fSub lam (fOfInt m))) s0 s1)

/-! ## Level of detail (R337) -/

/-- What the derivatives give: the number of probes, the derivatives along the major axis, λ before and after it is biased, and
clamped. -/
structure Lod where
  n : Nat
  du : Word
  dv : Word
  raw : Word
  lam : Word

/-- clamp(x, lo, hi); a NaN gives `nan`. -/
def fClamp (x lo hi nan : Word) : Word := if fIsNan x then nan else fMin (fMax x lo) hi

/-- The bias and the clamps. -/
def Binding.clampLod (b : Binding) (lam : Word) : Word × Word :=
  let raw := fAdd lam b.bias
  (raw, fClamp (fClamp raw b.minLod b.maxLod b.minLod) f0 (fOfInt (b.levels - 1)) b.minLod)

/-- ceil(Pmax / Pmin), at most MAXANISO; a free count from 1 to MAXANISO where the quotient is a NaN (log 24). -/
def anisoCount (b : Binding) (pmax pmin : Word) : Nat :=
  if fIsZero pmin then b.maxAniso
  else
    match fVal (fDiv pmax pmin) with
    | .nan _ => clampNat 1 b.maxAniso (Config.freeProbes pmax pmin)
    | .inf _ => b.maxAniso
    | .fin n m e => clampNat 1 b.maxAniso (if n then 1 else (roundShift .rup false m (-e)).1)

/-- λ from derivatives; `aniso` when the filter is anisotropic and applies. -/
def Binding.lodOf (b : Binding) (aniso : Bool) (dudx dudy dvdx dvdy : Word) : Lod :=
  let W := fOfInt b.width
  let H := fOfInt b.height
  let sq (x : Word) : Word := fMul x x
  let px := fSqrt (fAdd (sq (fMul dudx W)) (sq (fMul dvdx H)))
  let py := fSqrt (fAdd (sq (fMul dudy W)) (sq (fMul dvdy H)))
  let pmax := fMax px py
  let n := if aniso then anisoCount b pmax (fMin px py) else 1
  let lam := fLog2 (if aniso then fDiv pmax (fOfInt n) else pmax)
  let (raw, l) := b.clampLod lam
  let major := !fLt px py
  { n, du := if major then dudx else dudy, dv := if major then dvdx else dvdy, raw, lam := l }

/-- λ of a lane (R337). -/
def Issue.lod (i : Issue) (b : Binding) (m : DMode) (v l : Nat) : Lod :=
  let r (k lane : Nat) : Word := i.grp.v (v + k) lane
  let q := l - l % 4
  let aniso := b.filter = 3 && b.ntap = 0
  match m with
  | .grad => b.lodOf aniso (r 2 l) (r 3 l) (r 4 l) (r 5 l)
  | .quad =>
    b.lodOf aniso (fSub (r 0 (q + 1)) (r 0 q)) (fSub (r 0 (q + 2)) (r 0 q)) (fSub (r 1 (q + 1)) (r 1 q)) (fSub (r 1 (q + 2)) (r 1 q))
  | .lod =>
    let (raw, lam) := b.clampLod (r 2 l)
    { n := 1, du := f0, dv := f0, raw, lam }

/-- floor(λ + 0.5). -/
def Lod.level (x : Lod) : Nat := (fFloor (fAdd x.lam fHalf) 0).toNat

/-! ## Samples -/

/-- The sum of the taps (R339). -/
def tapSum {ε : Type} (rd : Reader ε) (b : Binding) (ref : Word) (lod : Lod) (u v : Word) (taps : List Tap) : Except ε (List Word) :=
  let m := lod.level
  taps.foldlM (fun acc (t : Tap) => do
    let x := fAdd (b.x m u) t.dx
    let y := fAdd (b.y m v) t.dy
    let r := if t.cmpt then some ref else none
    let s ← (if !fFinite u || !fFinite v then .ok nan4
             else if t.bil then bilinearAt rd b r m x y else pointAt rd b r m x y)
    pure (zip2 (fun a x => fAdd a (fMul t.w x)) acc s)) [f0, f0, f0, f0]

/-- The anisotropic probes (R338). -/
def anisoSum {ε : Type} (rd : Reader ε) (b : Binding) (ref : Option Word) (lod : Lod) (u v : Word) : Except ε (List Word) := do
  let n := fOfInt lod.n
  let probe (k : Nat) : Except ε (List Word) :=
    let o := fSub (fDiv (fAdd (fOfInt k) fHalf) n) fHalf
    trilinearAt rd b ref lod.lam (fAdd u (fMul o lod.du)) (fAdd v (fMul o lod.dv))
  let first ← probe 0
  let sum ← (List.range (lod.n - 1)).foldlM (fun acc k => do
    let x ← probe (k + 1)
    pure (zip2 fAdd acc x)) first
  pure (sum.map fun x => fDiv x n)

/-- The filtered result of a lane (R338, R339). -/
def sampleAt {ε : Type} (rd : Reader ε) (b : Binding) (taps : List Tap) (ref : Word) (lod : Lod) (u v : Word) : Except ε (List Word) :=
  let r := if b.cmp = 0 then none else some ref
  let m := lod.level
  if b.ntap ≠ 0 then tapSum rd b ref lod u v taps
  else if !fFinite u || !fFinite v then .ok nan4
  else
    match b.filter with
    | 0 => pointAt rd b r m (b.x m u) (b.y m v)
    | 1 => bilinearAt rd b r m (b.x m u) (b.y m v)
    | 2 => trilinearAt rd b r lod.lam u v
    | _ => anisoSum rd b r lod u v

/-- Channel `ch` of the bilinear footprint (R340). -/
def gatherAt {ε : Type} (rd : Reader ε) (b : Binding) (ch : Nat) (ref : Word) (lod : Lod) (u v : Word) : Except ε (List Word) :=
  if !fFinite u || !fFinite v then .ok nan4
  else do
    let r := if b.cmp = 0 then none else some ref
    let m := lod.level
    let i := fFloor (b.x m u) 0
    let j := fFloor (b.y m v) 0
    let a ← readTexel rd b r m i j
    let c ← readTexel rd b r m (i + 1) j
    let d ← readTexel rd b r m i (j + 1)
    let e ← readTexel rd b r m (i + 1) (j + 1)
    pure [a.getD ch 0, c.getD ch 0, d.getD ch 0, e.getD ch 0]

/-! ## The words (R340, R341) -/

/-- Reads of texture words. -/
def State.texRead (s : State) (i : Issue) : Reader LaneErr := s.laneRead i 8

/-- A binding read, and each of its taps or the failure of its access (R336, R339). -/
def State.readBinding (s : State) (i : Issue) (va : Nat) : Except LaneErr (Binding × List (Except LaneErr Tap)) := do
  let x ← s.texRead i va 64
  let b := bindingOf ((List.range 8).map fun k => BitVec.ofNat 64 (x / 2 ^ (64 * k)))
  pure (b, if b.bad then [] else (List.range b.ntap).map fun k => readTap (s.texRead i) b.taps k)

/-- The second row of R341 holds for a tap that could be read. -/
def Tap.bad (t : Tap) (b : Binding) : Bool := t.dirty || (t.cmpt && b.cmp = 0)

/-- The register after the last one of a lane's coordinates under a DMODE (R337). -/
def DMode.past (m : DMode) (a : Operand) : Nat :=
  match a, m with
  | .v n, .grad => n + 6
  | .v n, .quad => n + 2
  | .v n, .lod => n + 3
  | _, _ => 0

/-- What TEX, TEXG and TEXQ share: the register ranges (R327: the coordinates end before `past`), the checks of R341 in their order, then
`words` results per lane; `c` is the reference operand, when there is one. -/
def texWord (s : State) (g : Guard) (words : Nat) (d : Operand) (past : Nat) (b : Operand) (c : Option Operand)
    (f : Issue → Word → Binding → List Tap → Reader LaneErr → Nat → Except LaneErr (List Word)) : Host.Outcome State Fault Refusal :=
  onIssue s fun i =>
    let X := i.lanes g
    match lowLane X with
    | none => .next s
    | some l =>
      let out := match d with
        | .v n => decide (192 < n + words)
        | _ => false
      let va := i.src64 false b l
      if out || 192 < past then .trap (i.trap 0x03 X) s
      else
        match s.readBinding i va.toNat with
        | .error e => s.laneFail i X 8 0 [e]
        | .ok (bd, rs) =>
          let taps := rs.filterMap fun r =>
            match r with
            | .ok t => some t
            | .error _ => none
          let lost := rs.filterMap fun r =>
            match r with
            | .ok _ => none
            | .error e => some e
          let needsRef := bd.cmp ≠ 0 || taps.any Tap.cmpt
          if bd.bad || (taps.any fun t => t.bad bd) || (c = some Operand.zeroSpecial && needsRef) then .trap (i.trap 0x03 X) s
          else if !lost.isEmpty then s.laneFail i X 8 0 lost
          else
            match i.budget X (spanDests d words) with
            | some t => .trap t s
            | none =>
              let s := s.fillLanes i (BitVec.twoPow 32 l) fun _ => va
              let one (s : State) (k : Nat) : Except LaneErr (List Word) := f i X bd taps (s.texRead i) k
              (s.runLanes X fun s k => (one s k).map fun x => (x, s)).done s i X 8 words d true (s.peersBy X one)

/-- Coordinates of a lane. -/
def Issue.coord (i : Issue) (a : Operand) (k l : Nat) : Word := i.srcN (Operand.next a k) l

/-- Number of a vector operand. -/
def Operand.vnum : Operand → Nat
  | .v n => n
  | _ => 0

/-- TEX. -/
def execTex (g : Guard) (m : DMode) (d a b c : Operand) (s : State) : Host.Outcome State Fault Refusal :=
  texWord s g 4 d (DMode.past m a) b (some c) fun i _ bd taps rd l =>
    sampleAt rd bd taps (i.srcN c l) (i.lod bd m (Operand.vnum a) l) (i.coord a 0 l) (i.coord a 1 l)

/-- TEXG. -/
def execTexg (g : Guard) (m : DMode) (ch : Nat) (d a b c : Operand) (s : State) : Host.Outcome State Fault Refusal :=
  texWord s g 4 d (DMode.past m a) b (some c) fun i _ bd _ rd l =>
    gatherAt rd bd ch (i.srcN c l) (i.lod bd m (Operand.vnum a) l) (i.coord a 0 l) (i.coord a 1 l)

/-- TEXQ.lod: the clamped λ, and λ before the clamps. -/
def execTexqLod (g : Guard) (m : DMode) (d a b : Operand) (s : State) : Host.Outcome State Fault Refusal :=
  texWord s g 2 d (DMode.past m a) b none fun i _ bd _ _ l =>
    let x := i.lod bd m (Operand.vnum a) l
    .ok [x.lam, x.raw]

/-- TEXQ.dims: the dimensions of the lowest level named. -/
def execTexqDims (g : Guard) (d a b : Operand) (s : State) : Host.Outcome State Fault Refusal :=
  texWord s g 2 d 0 b none fun i X bd _ _ _ =>
    let m := ((lanesOf X).map fun l => (i.srcN a l).toNat).foldl min (2 ^ 32)
    .ok (if bd.levels ≤ m then [0, 0] else [BitVec.ofNat 32 (bd.w m), BitVec.ofNat 32 (bd.h m)])

end Sys2Proof.Machine
end

