-- ==== Sys2Proof/Machine/TopK.lean ====
section
/-! DEFINITION. Verdict configurations and top-k lists: VCFG, TOPK, TOPKM, TOPKR and VTHR (R306, R307, R315 to R326). -/

namespace Sys2Proof.Machine

/-! ## VCFG (R307, R320, R321) -/

/-- The configuration record as VCFG reads it (R307). -/
structure ConfRec where
  saofs : Nat
  sbofs : Nat
  nent : Nat
  thofs : Nat
  kcap : Nat
  list : Nat
  zero : Bool

/-- The record at a scratch offset. -/
def State.confRec (s : State) (q : Quarter) (off : Nat) : ConfRec :=
  let d (k : Nat) : DWord := BitVec.ofNat 64 (s.readLocNat (q.scratch (off + 8 * k)) 8)
  { saofs := bits (d 0) 63 32, sbofs := bits (d 0) 31 0, nent := bits (d 1) 44 32, thofs := bits (d 1) 31 0,
    kcap := bits (d 2) 14 8, list := bits (d 2) 3 0,
    zero := bits (d 1) 63 45 ≠ 0 || bits (d 2) 63 15 ≠ 0 || bits (d 2) 7 4 ≠ 0 || [3, 4, 5, 6, 7].any fun k => d k ≠ 0 }

/-- The predicate takes thresholds from TH. -/
def VPred.usesTh (p : VPred) : Bool := p == .rowthr || p == .colthr

/-- The scratch offset of the first part of a configuration that lies beyond the allocation. -/
def confBeyond (s : State) (q : Quarter) (alloc : Nat) (p : VPred) (off : Nat) : Option Nat :=
  if alloc < off + 64 then some off
  else
    let r := s.confRec q off
    let parts := [(r.saofs, 256 * r.nent), (r.sbofs, 256 * r.nent)] ++ (if VPred.usesTh p then [(r.thofs, 256)] else [])
    (parts.find? fun x => alloc < x.1 + x.2).map Prod.fst

/-- A record that R321 refuses. -/
def confBad (q : Quarter) (p : VPred) (r : ConfRec) : Bool :=
  let kcapOf (n : Nat) : Nat := (q.lists.getD n {}).kcap
  r.zero || r.nent = 0 || 4096 < r.nent || r.saofs % 4 ≠ 0 || r.sbofs % 4 ≠ 0 ||
  (if VPred.usesTh p then r.thofs % 4 ≠ 0 else r.thofs ≠ 0) ||
  (if p = .topk then
    r.kcap = 0 || 64 < r.kcap || q.acct ≤ r.list || (32 < r.kcap && (r.list % 2 = 1 || q.acct ≤ r.list + 1)) ||
    (r.list % 2 = 1 && 32 < kcapOf (r.list - 1)) || (32 < r.kcap && kcapOf (r.list + 1) ≠ 0)
   else r.kcap ≠ 0 || r.list ≠ 0)

/-- TH as VCFG copies it: 64 words of scratch (R306). -/
def State.thWords (s : State) (q : Quarter) (off : Nat) : List Word :=
  (List.range 64).map fun k => BitVec.ofNat 32 (s.readLocNat (q.scratch (off + 4 * k)) 4)

/-- The checks of VCFG, in the order of R321. -/
def confCheck (s : State) (i : Issue) (q : Quarter) (p : VPred) (l : Nat) (X : Word) (tile off : Nat) : Option Trap :=
  if q.acct ≤ tile || (p ≠ .none && off % 64 ≠ 0) then some (i.trap 0x03 X)
  else if p = .none then none
  else
    match confBeyond s q i.alloc p off with
    | some o => some (i.trap accessFault X 0 (BitVec.ofNat 64 (Config.scrBase + o)))
    | none =>
      let r := s.confRec q off
      if confBad q p r then some (i.trap 0x03 X)
      else if VPred.usesTh p && (s.thWords q r.thofs).any isVerdict then some (i.trap 0x07 X (BitVec.ofNat 32 l))
      else none

/-- A configuration set, with its list reset and its thresholds published (R317, R320). -/
def State.configureList (s : State) (team core tile off : Nat) (p : VPred) (audit reset : Bool) (q : Quarter) : State :=
  let set (s : State) (c : VConf) : State := s.modQuarter team core fun q => { q with vconf := q.vconf.set tile c }
  let old := q.vconf.getD tile {}
  if p = .none then set s { old with pred := .none, audit := false }
  else
    let r := s.confRec q off
    let th := if VPred.usesTh p then (s.thWords q r.thofs).map (· &&& 0xFFFFF000) else []
    let c : VConf := { pred := p, audit, saofs := r.saofs, sbofs := r.sbofs, nent := r.nent, th, list := r.list, pth := old.pth }
    if p ≠ .topk then set s c
    else
      let L := q.lists.getD r.list {}
      let fresh := reset || L.kcap ≠ r.kcap
      let s := if fresh then s.resetList team core r.list r.kcap q else s
      let L := if fresh then TopList.empty r.kcap else L
      (set s c).publishTh team core tile ((List.range 64).map L.thk) false

/-- VCFG. -/
def execVcfg (g : Guard) (p : VPred) (audit reset : Bool) (a b : Operand) (s : State) : Host.Outcome State Fault Refusal :=
  engineWord s g (fun _ _ => [])
    (fun i q l X => confCheck s i q p l X (i.srcN a l).toNat (i.srcN b l).toNat)
    fun i q l _ =>
      let tile := (i.srcN a l).toNat
      if !((s.core i.core).loopsOn i.grp.team (BitVec.twoPow 32 tile)).isEmpty then .park .reissue s
      else .next (s.configureList i.grp.team i.core tile (i.srcN b l).toNat p audit reset q)

/-! ## TOPK (R322, R323) -/

/-- The list a team tile number identifies, when it is configured. -/
def Quarter.list? (q : Quarter) (n : Nat) : Option TopList :=
  match q.lists[n]? with
  | some L => if L.kcap = 0 then none else some L
  | none => none

/-- A list of a quarter replaced. -/
def State.setList (s : State) (team core n : Nat) (L : TopList) : State :=
  s.modQuarter team core fun q => { q with lists := q.lists.set n L }

/-- TOPK. -/
def execTopk (g : Guard) (a b c : Operand) (s : State) : Host.Outcome State Fault Refusal :=
  engineWord s g (fun _ _ => [])
    (fun i q l X =>
      i.illegal X (q.acct ≤ (i.srcN a l).toNat || bits (i.srcN b l) 31 4 ≠ 0 || (q.list? (bits (i.srcN b l) 3 0)).isNone ||
        0xFFFFFFBF < (i.srcN c l).toNat))
    fun i q l X =>
      let tile := (i.srcN a l).toNat
      let n := bits (i.srcN b l) 3 0
      if !((s.core i.core).loopsOn i.grp.team (BitVec.twoPow 32 tile)).isEmpty then .park .reissue s
      else
        let ws := s.tileWords q tile
        if ws.any fun w => isVerdict w && bits w 1 0 = 1 then .trap (i.trap 0x07 X (BitVec.ofNat 32 l)) s
        else
          match q.list? n with
          | none => .trap (i.trap 0x03 X) s
          | some L =>
            .next (s.setList i.grp.team i.core n (L.insertAll ((List.range 4096).map fun k =>
              (k / 64, ws.getD k 0, i.srcN c l + BitVec.ofNat 32 (k % 64)))))

/-! ## TOPKM (R324) -/

/-- The addresses of a list image's entries, in list order. -/
def imageAddrs (base : DWord) (kcap : Nat) : List DWord := (List.range (64 * kcap)).map fun k => base + BitVec.ofNat 64 (8 * k)

/-- The access to an image's entry. -/
def Issue.imageAccess (i : Issue) (store : Bool) : Access :=
  ({ size := 8, align := 8, need := { r := !store, w := store }, acc := 11, store } : Access).by i

/-- A word on a list image: every address is checked before any entry is read or written. -/
def imageWord (s : State) (g : Guard) (store : Bool) (a b : Operand) (f : Issue → Nat → TopList → List Loc → State → State) :
    Host.Outcome State Fault Refusal :=
  engineWord s g (fun _ _ => [])
    (fun i q l X => i.illegal X (q.acct ≤ (i.srcN a l).toNat || (q.list? (i.srcN a l).toNat).isNone))
    fun i q l X =>
      match q.list? (i.srcN a l).toNat with
      | none => .trap (i.trap 0x03 X) s
      | some L =>
        let vas := imageAddrs (i.src64 false b l) L.kcap
        match s.checkMany i (i.imageAccess store) vas with
        | .error (e, va) =>
          if e.code = 0 then .park .window (s.startCopies i (BitVec.twoPow 32 l) 8 fun _ => va)
          else .trap (i.trap e.code X (e.info 11) va) s
        | .ok locs => .next ((f i (i.srcN a l).toNat L locs s).suspend i.key)

/-- TOPKM.merge. -/
def execTopkmMerge (g : Guard) (a b : Operand) (s : State) : Host.Outcome State Fault Refusal :=
  imageWord s g false a b fun i n L locs s =>
    s.setList i.grp.team i.core n (L.insertAll ((locs.zip (List.range locs.length)).map fun p =>
      let x := s.readLocNat p.1 8
      (p.2 / L.kcap, BitVec.ofNat 32 x, BitVec.ofNat 32 (x / 2 ^ 32))))

/-- TOPKM.store. -/
def execTopkmStore (g : Guard) (a b : Operand) (s : State) : Host.Outcome State Fault Refusal :=
  imageWord s g true a b fun _ _ L locs s =>
    (locs.zip (List.range locs.length)).foldl (fun s p =>
      let e := (L.rows.getD (p.2 / L.kcap) []).getD (p.2 % L.kcap) emptyEntry
      s.homeWrite p.1 (toBytes 8 (e.1.toNat + e.2.toNat * 2 ^ 32))) s

/-! ## TOPKR and VTHR (R325, R326) -/

/-- TOPKR. -/
def execTopkr (g : Guard) (d a b : Operand) (s : State) : Host.Outcome State Fault Refusal :=
  engineWord s g (fun i l => (List.range (bits (i.srcN b l) 21 16)).map fun w => .v (vnum d + w))
    (fun i q l X =>
      let x := i.srcN b l
      let nw := bits x 21 16
      let kcap := match q.list? (i.srcN a l).toNat with
        | some L => L.kcap
        | none => 0
      i.illegal X (bits x 31 25 ≠ 0 || bits x 23 22 ≠ 0 || bits x 15 14 ≠ 0 || bits x 7 0 ≠ 0 || nw = 0 || 32 < nw ||
        kcap < bits x 13 8 + nw || 192 < vnum d + nw || q.acct ≤ (i.srcN a l).toNat))
    fun i q l X =>
      match q.list? (i.srcN a l).toNat with
      | none => .trap (i.trap 0x03 X) s
      | some L =>
        let x := i.srcN b l
        .next (s.modGroup i.key fun g => g.putMany d X (bits x 21 16) fun w lane =>
          ((L.rows.getD (32 * bits x 24 24 + lane) []).getD (bits x 13 8 + w) emptyEntry).2)

/-- VTHR: the published thresholds of the masked tiles rise to THK. -/
def execVthr (g : Guard) (a b : Operand) (s : State) : Host.Outcome State Fault Refusal :=
  engineWord s g (fun _ _ => [])
    (fun i q l X =>
      let m := i.srcN b l
      let n := (i.srcN a l).toNat
      i.illegal X (q.badMask m || q.acct ≤ n || (q.list? n).isNone ||
        (List.range 16).any fun t => m.getLsbD t && ((q.vconf.getD t {}).pred ≠ .topk || (q.vconf.getD t {}).list ≠ n)))
    fun i q l X =>
      match q.list? (i.srcN a l).toNat with
      | none => .trap (i.trap 0x03 X) s
      | some L =>
        .next (((List.range 16).filter fun t => (i.srcN b l).getLsbD t).foldl (fun s t =>
          let old := (q.vconf.getD t {}).pth
          s.publishTh i.grp.team i.core t ((List.range 64).map fun r =>
            let p := old.getD r 0xFF800000
            if belowF32 p (L.thk r) then L.thk r else p) false) s)

end Sys2Proof.Machine
end

