-- ==== Sys2Proof/Machine/Ecc.lean ====
section
/-! DEFINITION. Uncorrectable errors in data that memory returns to a group (R393, R395, R435). -/

namespace Sys2Proof.Machine

/-- The meaning of a word to which memory returns data. -/
def readWord (w : Instr) : Option (State → Host.Outcome State Fault Refusal) :=
  match w with
  | .ld g nl1 sz acq sc d m => some (execLd g nl1 sz acq sc d m)
  | .ldb g sz acq sc d m => some (execLdb g sz acq sc d m)
  | .atom g op o sc d m => some (execAtom g op o sc d m)
  | .mwait g c w64 acq sc d m => some (execMwait g c w64 acq sc d m)
  | .evarm g k slot c t a b h => some (execEvarm g k slot c t a b h)
  | .topkmMerge g a b => some (execTopkmMerge g a b)
  | .trace g sn d a b c => some (execTrace g sn d a b c)
  | .psalloc g d a => some (execPsalloc g d a)
  | .psfree g d a b => some (execPsfree g d a b)
  | .sqpush g q d a b => some (execSqpush g q d a b)
  | .sqpop g q d a => some (execSqpop g q d a)
  | .tex g m d a b c => some (execTex g m d a b c)
  | .texg g m ch d a b c => some (execTexg g m ch d a b c)
  | .texqLod g m d a b => some (execTexqLod g m d a b)
  | .texqDims g d a b => some (execTexqDims g d a b)
  | .attr g n a0 d a b => some (execAttr g n a0 d a b)
  | .fback g d a b => some (execFback g d a b)
  | .launch g d a b => some (execLaunch g d a b)
  | _ => none

/-- A slot's next word performed while the data at a physical address come back bad: none when it reads none of them, so that it does what it
does with good data. The lanes whose data are good perform (R233, R393). -/
def State.eccSlot (s : State) (key : Nat) (b : Bool) (pa : Nat) : Option State :=
  match s.candidate key b with
  | none => none
  | some (grp, part, team) =>
    let i : Issue := { key, b, grp, part, team }
    match team.wordAt part with
    | some (raw, .ok w) =>
      let s := s.asIssuer key b
      (readWord w).bind fun f =>
        match f { s with badData := some pa }, f s with
        | .next s', .next good =>
          let bad : State := { s' with badData := s.badData }
          if bad = good then none else some (s.afterWord bad i raw w)
        | _, _ => none
    | _ => none

/-- The group to which the bad data return: at the next word of one of its slots. -/
def State.eccGroup (s : State) (key pa : Nat) : Option State := [false, true].findSome? fun b => s.eccSlot key b pa

/-- ECC_UNCORRECTABLE (R216, R393, R435): the rail falls; the group that received the data traps, or the error is reported. Data come back to no
group at a lower position than one that has taken a permit in the present front cycle (R447). -/
def execEccUncorrectable (key : Nat) (pa : DWord) (s : State) : Host.Outcome State Fault Refusal :=
  onEvent s (if (s.group? key).isSome && !s.permitAllows key then none
    else some ((s.sramFall.eccGroup key pa.toNat).getD (s.sramFall.eccReport pa)))

end Sys2Proof.Machine
end

