-- ==== Sys2Proof/Machine/Int.lean ====
section
/-! DEFINITION. Integer arithmetic (R168 to R170). -/

namespace Sys2Proof.Machine

/-- IADD. -/
def execIadd (g : Guard) (t : IntType) (sat : Bool) (d a b : Operand) (s : State) : Host.Outcome State Fault Refusal :=
  intWord s g t.is64 d fun i l => wrapSat t sat (i.int t a l + i.int t b l)

/-- ISUB. -/
def execIsub (g : Guard) (t : IntType) (sat : Bool) (d a b : Operand) (s : State) : Host.Outcome State Fault Refusal :=
  intWord s g t.is64 d fun i l => wrapSat t sat (i.int t a l - i.int t b l)

/-- IMUL. -/
def execImul (g : Guard) (t : IntType) (d a b : Operand) (s : State) : Host.Outcome State Fault Refusal :=
  intWord s g t.is64 d fun i l => i.int t a l * i.int t b l

/-- IMULH: bits [2w-1:w] of the exact product. -/
def execImulh (g : Guard) (t : IntType) (d a b : Operand) (s : State) : Host.Outcome State Fault Refusal :=
  intWord s g t.is64 d fun i l => (i.int t a l * i.int t b l).fdiv (2 ^ t.width)

/-- IMAD. -/
def execImad (g : Guard) (t : IntType) (d a b c : Operand) (s : State) : Host.Outcome State Fault Refusal :=
  intWord s g t.is64 d fun i l => i.int t a l * i.int t b l + i.int t c l

/-- IMADW: a 64-bit addend and result. -/
def execImadw (g : Guard) (t : IntType) (d a b c : Operand) (s : State) : Host.Outcome State Fault Refusal :=
  intWord s g true d fun i l => i.int t a l * i.int t b l + i.int (if t.signed then .s64 else .n64) c l

/-- IMIN. -/
def execImin (g : Guard) (t : IntType) (d a b : Operand) (s : State) : Host.Outcome State Fault Refusal :=
  intWord s g t.is64 d fun i l => min (i.int t a l) (i.int t b l)

/-- IMAX. -/
def execImax (g : Guard) (t : IntType) (d a b : Operand) (s : State) : Host.Outcome State Fault Refusal :=
  intWord s g t.is64 d fun i l => max (i.int t a l) (i.int t b l)

/-- IABS. -/
def execIabs (g : Guard) (t : IntType) (sat : Bool) (d a : Operand) (s : State) : Host.Outcome State Fault Refusal :=
  intWord s g t.is64 d fun i l => wrapSat t sat (i.int t a l).natAbs

/-- INEG. -/
def execIneg (g : Guard) (t : IntType) (sat : Bool) (d a : Operand) (s : State) : Host.Outcome State Fault Refusal :=
  intWord s g t.is64 d fun i l => wrapSat t sat (-(i.int t a l))

/-- Sum or difference with carry or borrow (R169). -/
def carrySum (sub : Bool) (a b : Int) (cin : Bool) : Int :=
  if sub then a - b - cin.toNat else a + b + cin.toNat

/-- IADDC: the predicate holds the carry in and out. -/
def execIaddc (g : Guard) (sub : Bool) (n : Nat) (d a b : Operand) (s : State) : Host.Outcome State Fault Refusal :=
  laneWord s g [d] fun i X gr =>
    let t (l : Nat) : Int := carrySum sub (i.int .n32 a l) (i.int .n32 b l) ((i.grp.pred n).getLsbD l)
    (gr.putInt false d X t).putPred n X fun l => t l < 0 || 2 ^ 32 ≤ t l

/-- Byte `k` of a word, sign- or zero-extended. -/
def extByte (unsigned : Bool) (x : Word) (k : Nat) : Int :=
  let b : Byte := x.extractLsb' (8 * k) 8
  if unsigned then (b.toNat : Int) else b.toInt

/-- IDOT4. -/
def execIdot4 (g : Guard) (sat : Bool) (unsA unsB : Bool) (d a b c : Operand) (s : State) : Host.Outcome State Fault Refusal :=
  intWord s g false d fun i l =>
    wrapSat .s32 sat ((List.range 4).foldl (fun (t : Int) k =>
      t + extByte unsA (i.src32 true a l) k * extByte unsB (i.src32 true b l) k) (i.int .s32 c l))

end Sys2Proof.Machine
end

