-- ==== Sys2Proof/Machine/Lanes.lean ====
section
/-! DEFINITION. Predicates and lane instructions (R190 to R194). -/

namespace Sys2Proof.Machine

/-! ## Predicates (R191, R192) -/

/-- PLOP (R191): LUT[2 x pa + pb] in each executing lane. -/
def execPlop (g : Guard) (pd pa pb : Nat) (lut : BitVec 4) (s : State) : Host.Outcome State Fault Refusal :=
  laneWord s g [] fun i X gr =>
    gr.putPred pd X fun l => lut.getLsbD (2 * ((i.grp.pred pa).getLsbD l).toNat + ((i.grp.pred pb).getLsbD l).toNat)

/-- PMOV (R192). -/
def execPmov (g : Guard) (dir : PmovDir) (n : Nat) (x : Operand) (s : State) : Host.Outcome State Fault Refusal :=
  match dir with
  | .tomask => wordWord s g x fun i _ => i.grp.pred n
  | .tobool => wordWord s g x fun i l => ofBool ((i.grp.pred n).getLsbD l)
  | .frommask => laneWord s g [] fun i X gr => gr.putPred n X fun l => (i.srcN x l).getLsbD l
  | .frombool => laneWord s g [] fun i X gr => gr.putPred n X fun l => i.srcN x l != 0

/-! ## VOTE, SHFL, MATCH, LREAD (R194) -/

/-- What VOTE gives over the lanes of `X`, with `q` each lane's predicate. -/
def voteOf (m : VoteMode) (X : Word) (q : Nat → Bool) : Word :=
  match m with
  | .ballot => X &&& maskOf q
  | .any => ofBool ((lanesOf X).any q)
  | .all => ofBool ((lanesOf X).all q)
  | .uni => ofBool ((lanesOf X).all q || (lanesOf X).all fun l => !q l)

/-- VOTE. -/
def execVote (g : Guard) (m : VoteMode) (neg : Bool) (n : Nat) (d : Operand) (s : State) : Host.Outcome State Fault Refusal :=
  laneWord s g [d] fun i X gr => gr.put32 d X fun _ => voteOf m X fun j => ((i.grp.pred n).getLsbD j) != neg

/-- The lane SHFL reads, and whether it lies in the segment: `B` is the lane operand (R194). -/
def shflLane (m : ShflMode) (seg l B : Nat) : Nat × Bool :=
  let W := 32 / 2 ^ seg
  let base := l - l % W
  match m with
  | .idx => (base + B % W, true)
  | .up => (l - B, B < W && base + B ≤ l)
  | .down => (l + B, B < W && l + B < base + W)
  | .xor => (base + ((l - base) ^^^ (B % W)), true)

/-- The source lane and validity of SHFL in lane `l`: a lane outside `X` is never read. -/
def shflFrom (m : ShflMode) (seg : Nat) (X : Word) (l B : Nat) : Nat × Bool :=
  let (j, ok) := shflLane m seg l B
  if ok && j < 32 && X.getLsbD j then (j, true) else (l, false)

/-- SHFL. -/
def execShfl (g : Guard) (m : ShflMode) (w64 : Bool) (v seg : Nat) (d a b : Operand) (s : State) :
    Host.Outcome State Fault Refusal :=
  laneWord s g (typeDests w64 d) fun i X gr =>
    let src (l : Nat) : Nat × Bool := shflFrom m seg X l (i.srcN b l).toNat
    let gr := if w64 then gr.put64 d X fun l => i.src64 false a (src l).1 else gr.put32 d X fun l => i.srcN a (src l).1
    if v = 0 then gr else gr.putPred v X fun l => (src l).2

/-- MATCH compares bit patterns. -/
def execMatchLanes (g : Guard) (all : Bool) (w64 : Bool) (n : Nat) (d a : Operand) (s : State) :
    Host.Outcome State Fault Refusal :=
  laneWord s g [d] fun i X gr =>
    let A (l : Nat) : DWord := if w64 then i.src64 false a l else (i.srcN a l).setWidth 64
    if all then
      let e := (lanesOf X).all fun j => A j == A ((lowLane X).getD 0)
      let gr := gr.put32 d X fun _ => if e then X else 0
      if n = 0 then gr else gr.putPred n X fun _ => e
    else gr.put32 d X fun l => X &&& maskOf fun j => A j == A l

/-- LREAD: lane B[4:0] of a register, executing or not. -/
def execLread (g : Guard) (w64 : Bool) (d a b : Operand) (s : State) : Host.Outcome State Fault Refusal :=
  laneWord s g (typeDests w64 d) fun i X gr =>
    let L (l : Nat) : Nat := bits (i.srcN b l) 4 0
    if w64 then gr.put64 d X fun l => i.src64 false a (L l) else gr.put32 d X fun l => i.srcN a (L l)

/-! ## SCAN and REDUX (R194) -/

/-- The identity of an operation under a type. -/
def scanId (op : ScanOp) (t : ScanType) : Word :=
  match op, t with
  | .add, .f32 => 0x80000000
  | .min, .f32 => 0x7F800000
  | .max, .f32 => 0xFF800000
  | .min, .s32 => 0x7FFFFFFF
  | .min, .n32 => 0xFFFFFFFF
  | .max, .s32 => 0x80000000
  | .and, _ => 0xFFFFFFFF
  | _, _ => 0

/-- One step of a scan: the new accumulator and the flags. -/
def scanStep (op : ScanOp) (t : ScanType) (r : Rnd) (acc a : Word) : Word × Nat :=
  let fl (p : Nat × Nat) : Word × Nat := (BitVec.ofNat 32 p.1, p.2)
  match op, t with
  | .add, .f32 => fl (fmt32.add r acc.toNat a.toNat)
  | .min, .f32 => fl (fmt32.minMax false acc.toNat a.toNat)
  | .max, .f32 => fl (fmt32.minMax true acc.toNat a.toNat)
  | .add, _ => (acc + a, 0)
  | .min, .s32 => (if acc.toInt ≤ a.toInt then acc else a, 0)
  | .max, .s32 => (if acc.toInt ≤ a.toInt then a else acc, 0)
  | .min, .n32 => (if acc.toNat ≤ a.toNat then acc else a, 0)
  | .max, .n32 => (if acc.toNat ≤ a.toNat then a else acc, 0)
  | .and, _ => (acc &&& a, 0)
  | .or, _ => (acc ||| a, 0)
  | .xor, _ => (acc ^^^ a, 0)

/-- The scan over a list of lanes: for each, the accumulator before and after it; the last accumulator; the flags. -/
def scanOver (op : ScanOp) (t : ScanType) (r : Rnd) (A : Nat → Word) : List Nat → Word → List (Nat × Word × Word) × Word × Nat
  | [], acc => ([], acc, 0)
  | j :: js, acc =>
    let (x, f) := scanStep op t r acc (A j)
    let (l, last, f') := scanOver op t r A js x
    ((j, acc, x) :: l, last, f ||| f')

/-- The value a scan leaves in lane `l`. -/
def scanAt (l : List (Nat × Word × Word)) (excl : Bool) (j : Nat) : Word :=
  match l.find? fun p => p.1 == j with
  | some (_, x, y) => if excl then x else y
  | none => 0

/-- A scan or reduction word: `out` gives each lane's result from the scan. -/
def scanWord (s : State) (g : Guard) (op : ScanOp) (t : ScanType) (r : Rnd) (d a : Operand)
    (out : List (Nat × Word × Word) → Word → Nat → Word) : Host.Outcome State Fault Refusal :=
  onIssue s fun i =>
    let X := i.lanes g
    let A (l : Nat) : Word := if t = .f32 then i.srcF a l else i.srcN a l
    match i.verdictTrap X (fun l => t = .f32 && isVerdict (A l)), i.budget X [d] with
    | some tr, _ => .trap tr s
    | none, some tr => .trap tr s
    | none, none =>
      let (l, last, f) := scanOver op t r A (lanesOf X) (scanId op t)
      .next (s.modGroup i.key fun gr => (gr.put32 d X (out l last)).addFlags f)

/-- SCAN. -/
def execScan (g : Guard) (op : ScanOp) (t : ScanType) (excl : Bool) (r : Rnd) (d a : Operand) (s : State) :
    Host.Outcome State Fault Refusal :=
  scanWord s g op t r d a fun l _ j => scanAt l excl j

/-- REDUX. -/
def execRedux (g : Guard) (op : ScanOp) (t : ScanType) (r : Rnd) (d a : Operand) (s : State) :
    Host.Outcome State Fault Refusal :=
  scanWord s g op t r d a fun _ last _ => last

end Sys2Proof.Machine
end

