-- ==== Sys2Proof/Machine/Logic.lean ====
section
/-! DEFINITION. Logic, shifts and bit fields (R171 to R173). -/

namespace Sys2Proof.Machine

/-- AND. -/
def execAnd (g : Guard) (t : IntType) (d a b : Operand) (s : State) : Host.Outcome State Fault Refusal :=
  bitWord s g t d (fun i l => i.srcN a l &&& i.srcN b l) (fun i l => i.src64 false a l &&& i.src64 false b l)

/-- OR. -/
def execOr (g : Guard) (t : IntType) (d a b : Operand) (s : State) : Host.Outcome State Fault Refusal :=
  bitWord s g t d (fun i l => i.srcN a l ||| i.srcN b l) (fun i l => i.src64 false a l ||| i.src64 false b l)

/-- XOR. -/
def execXor (g : Guard) (t : IntType) (d a b : Operand) (s : State) : Host.Outcome State Fault Refusal :=
  bitWord s g t d (fun i l => i.srcN a l ^^^ i.srcN b l) (fun i l => i.src64 false a l ^^^ i.src64 false b l)

/-- ANDN: A and not B. -/
def execAndn (g : Guard) (t : IntType) (d a b : Operand) (s : State) : Host.Outcome State Fault Refusal :=
  bitWord s g t d (fun i l => i.srcN a l &&& ~~~(i.srcN b l)) (fun i l => i.src64 false a l &&& ~~~(i.src64 false b l))

/-- The count of a 32-bit and of a 64-bit shift (R172). -/
def Issue.count32 (i : Issue) (b : Operand) (l : Nat) : Nat := bits (i.srcN b l) 4 0
def Issue.count64 (i : Issue) (b : Operand) (l : Nat) : Nat := bits (i.srcN b l) 5 0

/-- SHL. -/
def execShl (g : Guard) (t : IntType) (d a b : Operand) (s : State) : Host.Outcome State Fault Refusal :=
  bitWord s g t d (fun i l => i.srcN a l <<< i.count32 b l) (fun i l => i.src64 false a l <<< i.count64 b l)

/-- SHR. -/
def execShr (g : Guard) (t : IntType) (d a b : Operand) (s : State) : Host.Outcome State Fault Refusal :=
  bitWord s g t d (fun i l => i.srcN a l >>> i.count32 b l) (fun i l => i.src64 false a l >>> i.count64 b l)

/-- SAR. -/
def execSar (g : Guard) (t : IntType) (d a b : Operand) (s : State) : Host.Outcome State Fault Refusal :=
  bitWord s g t d (fun i l => (i.src32 true a l).sshiftRight (i.count32 b l))
    (fun i l => (i.src64 true a l).sshiftRight (i.count64 b l))

/-- ROT, left or right. -/
def execRot (g : Guard) (t : IntType) (right : Bool) (d a b : Operand) (s : State) : Host.Outcome State Fault Refusal :=
  bitWord s g t d
    (fun i l => if right then (i.srcN a l).rotateRight (i.count32 b l) else (i.srcN a l).rotateLeft (i.count32 b l))
    (fun i l => if right then (i.src64 false a l).rotateRight (i.count64 b l) else (i.src64 false a l).rotateLeft (i.count64 b l))

/-- Position and width packed in a word (R172). -/
def fieldPos (x : Word) : Nat := bits x 4 0
def fieldWidth (x : Word) : Nat := min (bits x 13 8) 32

/-- BFX: the field at a position, zero- or sign-extended. -/
def bfxOf (signed : Bool) (a b : Word) : Int :=
  let p := fieldPos b
  let e := min (p + fieldWidth b) 32
  if e = p then 0
  else
    let v := a.toNat / 2 ^ p % 2 ^ (e - p)
    if signed && 2 ^ (e - p - 1) ≤ v then (v : Int) - 2 ^ (e - p) else v

/-- BFX. -/
def execBfx (g : Guard) (t : IntType) (d a b : Operand) (s : State) : Host.Outcome State Fault Refusal :=
  intWord s g false d fun i l => bfxOf t.signed (i.src32 t.signed a l) (i.src32 t.signed b l)

/-- BFI. -/
def bfiOf (a b c : Word) : Word :=
  let m := BitVec.ofNat 32 ((2 ^ fieldWidth c - 1) * 2 ^ fieldPos c)
  (a &&& ~~~m) ||| ((b <<< fieldPos c) &&& m)

/-- BFI. -/
def execBfi (g : Guard) (d a b c : Operand) (s : State) : Host.Outcome State Fault Refusal :=
  wordWord s g d fun i l => bfiOf (i.srcN a l) (i.srcN b l) (i.srcN c l)

/-- A count of bits of the source under a type. -/
def countWord (s : State) (g : Guard) (t : IntType) (d a : Operand) (f : Word → Nat) (f' : DWord → Nat) :
    Host.Outcome State Fault Refusal :=
  wordWord s g d fun i l => BitVec.ofNat 32 (if t.is64 then f' (i.src64 false a l) else f (i.srcN a l))

/-- POPC. -/
def execPopc (g : Guard) (t : IntType) (d a : Operand) (s : State) : Host.Outcome State Fault Refusal :=
  countWord s g t d a popCount popCount

/-- CLZ. -/
def execClz (g : Guard) (t : IntType) (d a : Operand) (s : State) : Host.Outcome State Fault Refusal :=
  countWord s g t d a leadingZeros leadingZeros

/-- CTZ. -/
def execCtz (g : Guard) (t : IntType) (d a : Operand) (s : State) : Host.Outcome State Fault Refusal :=
  countWord s g t d a trailingZeros trailingZeros

/-- BREV. -/
def execBrev (g : Guard) (t : IntType) (d a : Operand) (s : State) : Host.Outcome State Fault Refusal :=
  bitWord s g t d (fun i l => reverseBits (i.srcN a l)) (fun i l => reverseBits (i.src64 false a l))

/-- PERM: each byte of the result selected from A, B or zero (R172). -/
def permOf (a b c : Word) : Word :=
  BitVec.ofNat 32 (((List.range 4).map fun k =>
    let sel := c.toNat / 2 ^ (4 * k) % 16
    let src := if sel / 4 % 2 = 1 then b else a
    (if 8 ≤ sel then 0 else src.toNat / 256 ^ (sel % 4) % 256) * 256 ^ k).sum)

/-- PERM. -/
def execPerm (g : Guard) (d a b c : Operand) (s : State) : Host.Outcome State Fault Refusal :=
  wordWord s g d fun i l => permOf (i.srcN a l) (i.srcN b l) (i.srcN c l)

end Sys2Proof.Machine
end

