-- ==== Sys2Proof/Machine/Pair.lean ====
section
/-! DEFINITION. Pair words: both halves read before either writes (R136 to R139, R162, R189). -/

namespace Sys2Proof.Machine

/-- The lanes in which a half executes (R136, R137). -/
def Issue.halfLanes (i : Issue) (h : Half) : Word :=
  i.lanes (match h.guard with
    | .always => ⟨false, 0⟩
    | .p1 => ⟨false, 1⟩
    | .p2 => ⟨false, 2⟩
    | .notP1 => ⟨true, 1⟩)

/-- The result and flags of a half in a lane, from its destination's and its source's old values (R138, R189). -/
def halfResult (h : Half) (d x : Word) : Nat × Nat :=
  let k := h.imm
  let n := bits x 4 0
  let sx : Word := k.signExtend 32
  let ok (w : Word) : Nat × Nat := (w.toNat, 0)
  let rnd (j : Nat) : Rnd := if j = 0 then .rne else if j = 1 then .rz else if j = 2 then .rdn else .rup
  let bf := k.getLsbD 0
  match h.hop with
  | .iadd => ok (d + x)
  | .isub => ok (d - x)
  | .imin => ok (if d.toInt ≤ x.toInt then d else x)
  | .imax => ok (if d.toInt ≤ x.toInt then x else d)
  | .and => ok (d &&& x)
  | .or => ok (d ||| x)
  | .xor => ok (d ^^^ x)
  | .andn => ok (d &&& ~~~x)
  | .shl => ok (d <<< n)
  | .shr => ok (d >>> n)
  | .sar => ok (d.sshiftRight n)
  | .mov => ok x
  | .movi8 => ok sx
  | .iaddi => ok (x + sx)
  | .andi => ok (x &&& k.setWidth 32)
  | .shli => ok (x <<< k.toNat)
  | .shri => ok (x >>> k.toNat)
  | .sari => ok (x.sshiftRight k.toNat)
  | .fadd => fmt32.add (rnd (bits k 1 0)) d.toNat x.toNat
  | .fmul => fmt32.mul (rnd (bits k 1 0)) d.toNat x.toNat
  | .fmin => fmt32.minMax false d.toNat x.toNat
  | .fmax => fmt32.minMax true d.toNat x.toNat
  | .hadd2 => packHalves fun j => (halfFmt bf).add (rnd (bits k 2 1)) (halfOf d j) (halfOf x j)
  | .hmul2 => packHalves fun j => (halfFmt bf).mul (rnd (bits k 2 1)) (halfOf d j) (halfOf x j)

/-- The half reads FP32 operands, which it tests for verdict words (R166). -/
def Half.isFp (h : Half) : Bool :=
  match h.hop with
  | .fadd | .fmul | .fmin | .fmax => true
  | _ => false

/-- The old values of a half's destination and source in a lane. -/
def Issue.halfArgs (i : Issue) (h : Half) (l : Nat) : Word × Word :=
  (i.srcN (HalfReg.operand h.dst) l, i.srcN (HalfReg.operand h.src) l)

/-- A half's verdict test in a lane. -/
def Issue.halfBad (i : Issue) (h : Half) (l : Nat) : Bool :=
  Half.isFp h && (isVerdict (i.halfArgs h l).1 || isVerdict (i.halfArgs h l).2)

/-- A group with a half's results written. -/
def Issue.halfPut (i : Issue) (h : Half) (X : Word) (g : Group) : Group :=
  (g.put32 (HalfReg.operand h.dst) X fun l => BitVec.ofNat 32 (halfResult h (i.halfArgs h l).1 (i.halfArgs h l).2).1).addFlags
    (orFlags X fun l => (halfResult h (i.halfArgs h l).1 (i.halfArgs h l).2).2)

/-- The destinations that a pair word writes, for the budget (R110). -/
def pairDests (h0 h1 : Half) (X0 X1 : Word) : List Operand :=
  (if X0 = 0 then [] else [HalfReg.operand h0.dst]) ++ (if X1 = 0 then [] else [HalfReg.operand h1.dst])

/-- A pair word (R136 to R139, R189). -/
def execPairWord (h0 h1 : Half) (s : State) : Host.Outcome State Fault Refusal :=
  onIssue s fun i =>
    let X0 := i.halfLanes h0
    let X1 := i.halfLanes h1
    let X := X0 ||| X1
    match i.verdictTrap X (fun l => (X0.getLsbD l && i.halfBad h0 l) || (X1.getLsbD l && i.halfBad h1 l)),
          i.budget X (pairDests h0 h1 X0 X1) with
    | some t, _ => .trap t s
    | none, some t => .trap t s
    | none, none => .next (s.modGroup i.key fun g => i.halfPut h1 X1 (i.halfPut h0 X0 g))

end Sys2Proof.Machine
end

