-- ==== Sys2Proof/Machine/Dispatch.lean ====
section
/-! DEFINITION. The meaning of every instruction: one arm per constructor of `Instr`. -/

namespace Sys2Proof.Machine

def exec (i : Instr) (s : State) : Host.Outcome State Fault Refusal :=
  match i with
  | .nop g => Sys2Proof.Machine.execNop g s
  | .bra g ofs => Sys2Proof.Machine.execBra g ofs s
  | .brx g a => Sys2Proof.Machine.execBrx g a s
  | .call g d ofs => Sys2Proof.Machine.execCall g d ofs s
  | .callx g d a => Sys2Proof.Machine.execCallx g d a s
  | .ret g a => Sys2Proof.Machine.execRet g a s
  | .exit g => Sys2Proof.Machine.execExit g s
  | .trap k => Sys2Proof.Machine.execTrap k s
  | .sleep g b => Sys2Proof.Machine.execSleep g b s
  | .brk k => Sys2Proof.Machine.execBrk k s
  | .iadd g t sat d a b => Sys2Proof.Machine.execIadd g t sat d a b s
  | .isub g t sat d a b => Sys2Proof.Machine.execIsub g t sat d a b s
  | .imul g t d a b => Sys2Proof.Machine.execImul g t d a b s
  | .imulh g t d a b => Sys2Proof.Machine.execImulh g t d a b s
  | .imad g t d a b c => Sys2Proof.Machine.execImad g t d a b c s
  | .imadw g t d a b c => Sys2Proof.Machine.execImadw g t d a b c s
  | .imin g t d a b => Sys2Proof.Machine.execImin g t d a b s
  | .imax g t d a b => Sys2Proof.Machine.execImax g t d a b s
  | .iabs g t sat d a => Sys2Proof.Machine.execIabs g t sat d a s
  | .ineg g t sat d a => Sys2Proof.Machine.execIneg g t sat d a s
  | .iaddc g sub n d a b => Sys2Proof.Machine.execIaddc g sub n d a b s
  | .idot4 g sat unsA unsB d a b c => Sys2Proof.Machine.execIdot4 g sat unsA unsB d a b c s
  | .and g t d a b => Sys2Proof.Machine.execAnd g t d a b s
  | .or g t d a b => Sys2Proof.Machine.execOr g t d a b s
  | .xor g t d a b => Sys2Proof.Machine.execXor g t d a b s
  | .andn g t d a b => Sys2Proof.Machine.execAndn g t d a b s
  | .shl g t d a b => Sys2Proof.Machine.execShl g t d a b s
  | .shr g t d a b => Sys2Proof.Machine.execShr g t d a b s
  | .sar g t d a b => Sys2Proof.Machine.execSar g t d a b s
  | .rot g t right d a b => Sys2Proof.Machine.execRot g t right d a b s
  | .bfx g t d a b => Sys2Proof.Machine.execBfx g t d a b s
  | .bfi g d a b c => Sys2Proof.Machine.execBfi g d a b c s
  | .popc g t d a => Sys2Proof.Machine.execPopc g t d a s
  | .clz g t d a => Sys2Proof.Machine.execClz g t d a s
  | .ctz g t d a => Sys2Proof.Machine.execCtz g t d a s
  | .brev g t d a => Sys2Proof.Machine.execBrev g t d a s
  | .perm g d a b c => Sys2Proof.Machine.execPerm g d a b c s
  | .mov g t d b => Sys2Proof.Machine.execMov g t d b s
  | .movh g d k => Sys2Proof.Machine.execMovh g d k s
  | .sel g t neg n d a b => Sys2Proof.Machine.execSel g t neg n d a b s
  | .icmp g t c cb n a b => Sys2Proof.Machine.execIcmp g t c cb n a b s
  | .lea g ux d m => Sys2Proof.Machine.execLea g ux d m s
  | .fadd g r d a b => Sys2Proof.Machine.execFadd g r d a b s
  | .fmul g r d a b => Sys2Proof.Machine.execFmul g r d a b s
  | .ffma g r d a b c => Sys2Proof.Machine.execFfma g r d a b c s
  | .fmin g d a b => Sys2Proof.Machine.execFmin g d a b s
  | .fmax g d a b => Sys2Proof.Machine.execFmax g d a b s
  | .frnd g r d a => Sys2Proof.Machine.execFrnd g r d a s
  | .fscale g r d a b => Sys2Proof.Machine.execFscale g r d a b s
  | .frcp g r d a => Sys2Proof.Machine.execFrcp g r d a s
  | .frsq g r d a => Sys2Proof.Machine.execFrsq g r d a s
  | .fsqrt g r d a => Sys2Proof.Machine.execFsqrt g r d a s
  | .fexp2 g r d a => Sys2Proof.Machine.execFexp2 g r d a s
  | .flog2 g r d a => Sys2Proof.Machine.execFlog2 g r d a s
  | .fsin g r d a => Sys2Proof.Machine.execFsin g r d a s
  | .fcos g r d a => Sys2Proof.Machine.execFcos g r d a s
  | .fcmp g c cb n a b => Sys2Proof.Machine.execFcmp g c cb n a b s
  | .fclass g d a => Sys2Proof.Machine.execFclass g d a s
  | .hadd2 g bf r d a b => Sys2Proof.Machine.execHadd2 g bf r d a b s
  | .hmul2 g bf r d a b => Sys2Proof.Machine.execHmul2 g bf r d a b s
  | .hfma2 g bf r d a b c => Sys2Proof.Machine.execHfma2 g bf r d a b c s
  | .hminmax2 g bf max d a b => Sys2Proof.Machine.execHminmax2 g bf max d a b s
  | .cvt g dt st xe8m0 sat r d a => Sys2Proof.Machine.execCvt g dt st xe8m0 sat r d a s
  | .pack g e k sat r d a b c => Sys2Proof.Machine.execPack g e k sat r d a b c s
  | .unpack g e k d a => Sys2Proof.Machine.execUnpack g e k d a s
  | .vtest g c cb step n d a b => Sys2Proof.Machine.execVtest g c cb step n d a b s
  | .vsel g d a b c => Sys2Proof.Machine.execVsel g d a b c s
  | .pairWord h0 h1 => Sys2Proof.Machine.execPairWord h0 h1 s
  | .plop g pd pa pb lut => Sys2Proof.Machine.execPlop g pd pa pb lut s
  | .pmov g dir n x => Sys2Proof.Machine.execPmov g dir n x s
  | .vote g m neg n d => Sys2Proof.Machine.execVote g m neg n d s
  | .shfl g m w64 v seg d a b => Sys2Proof.Machine.execShfl g m w64 v seg d a b s
  | .scan g op t excl r d a => Sys2Proof.Machine.execScan g op t excl r d a s
  | .redux g op t r d a => Sys2Proof.Machine.execRedux g op t r d a s
  | .matchLanes g all w64 n d a => Sys2Proof.Machine.execMatchLanes g all w64 n d a s
  | .lread g w64 d a b => Sys2Proof.Machine.execLread g w64 d a b s
  | .regroup buddy d vF vL => Sys2Proof.Machine.execRegroup buddy d vF vL s
  | .regroupTimeout key => Sys2Proof.Machine.execRegroupTimeout key s
  | .ld g nl1 sz acq sc d m => Sys2Proof.Machine.execLd g nl1 sz acq sc d m s
  | .st g nl1 sz rel sc d m => Sys2Proof.Machine.execSt g nl1 sz rel sc d m s
  | .ldb g sz acq sc d m => Sys2Proof.Machine.execLdb g sz acq sc d m s
  | .pref g lvl m => Sys2Proof.Machine.execPref g lvl m s
  | .fence k sc => Sys2Proof.Machine.execFence k sc s
  | .cacheWb g m => Sys2Proof.Machine.execCacheWb g m s
  | .cacheWbinv g m => Sys2Proof.Machine.execCacheWbinv g m s
  | .cacheZero g m => Sys2Proof.Machine.execCacheZero g m s
  | .cacheIinv g => Sys2Proof.Machine.execCacheIinv g s
  | .cacheL1wb g => Sys2Proof.Machine.execCacheL1wb g s
  | .atom g op o sc d m => Sys2Proof.Machine.execAtom g op o sc d m s
  | .red g op rel sc d m => Sys2Proof.Machine.execRed g op rel sc d m s
  | .mwait g c w64 acq sc d m => Sys2Proof.Machine.execMwait g c w64 acq sc d m s
  | .vdrop vF vL => Sys2Proof.Machine.execVdrop vF vL s
  | .barArrive g d a b => Sys2Proof.Machine.execBarArrive g d a b s
  | .barDrop g d a b => Sys2Proof.Machine.execBarDrop g d a b s
  | .barJoin g d a => Sys2Proof.Machine.execBarJoin g d a s
  | .barExpect g d a b => Sys2Proof.Machine.execBarExpect g d a b s
  | .barWait g a b => Sys2Proof.Machine.execBarWait g a b s
  | .barSync g a b => Sys2Proof.Machine.execBarSync g a b s
  | .barTest g d a b => Sys2Proof.Machine.execBarTest g d a b s
  | .tbarSync g t => Sys2Proof.Machine.execTbarSync g t s
  | .tbarArrive g t d => Sys2Proof.Machine.execTbarArrive g t d s
  | .tbarWait g t b => Sys2Proof.Machine.execTbarWait g t b s
  | .tbarTest g t d b => Sys2Proof.Machine.execTbarTest g t d b s
  | .tagPhaseComplete team t => Sys2Proof.Machine.execTagPhaseComplete team t s
  | .evarm g k slot c t a b h => Sys2Proof.Machine.execEvarm g k slot c t a b h s
  | .evdis g d b => Sys2Proof.Machine.execEvdis g d b s
  | .waitany b => Sys2Proof.Machine.execWaitany b s
  | .mbox g try_ tag d a p => Sys2Proof.Machine.execMbox g try_ tag d a p s
  | .eventDeadline key slot => Sys2Proof.Machine.execEventDeadline key slot s
  | .sleepWake key slotB => Sys2Proof.Machine.execSleepWake key slotB s
  | .kick g a b => Sys2Proof.Machine.execKick g a b s
  | .regionRing g h d a b => Sys2Proof.Machine.execRegionRing g h d a b s
  | .regionWindow g h d a b => Sys2Proof.Machine.execRegionWindow g h d a b s
  | .regionAbsent g h d => Sys2Proof.Machine.execRegionAbsent g h d s
  | .regionPresent g h d => Sys2Proof.Machine.execRegionPresent g h d s
  | .regionFree g h d => Sys2Proof.Machine.execRegionFree g h d s
  | .racqFill g h try_ d => Sys2Proof.Machine.execRacqFill g h try_ d s
  | .racqFree g h try_ d => Sys2Proof.Machine.execRacqFree g h try_ d s
  | .rpub g h a => Sys2Proof.Machine.execRpub g h a s
  | .rrel g h a => Sys2Proof.Machine.execRrel g h a s
  | .mclaim g d a b => Sys2Proof.Machine.execMclaim g d a b s
  | .mrel g a b => Sys2Proof.Machine.execMrel g a b s
  | .mstage g a b => Sys2Proof.Machine.execMstage g a b s
  | .mread g d a => Sys2Proof.Machine.execMread g d a s
  | .mzero g b => Sys2Proof.Machine.execMzero g b s
  | .mloop g ta tb sc nt a b c => Sys2Proof.Machine.execMloop g ta tb sc nt a b c s
  | .msca g a b c => Sys2Proof.Machine.execMsca g a b c s
  | .mdrain g op ord sc f32 a b c => Sys2Proof.Machine.execMdrain g op ord sc f32 a b c s
  | .msyncWait g d b => Sys2Proof.Machine.execMsyncWait g d b s
  | .msyncStat g d => Sys2Proof.Machine.execMsyncStat g d s
  | .vcfg g p audit reset a b => Sys2Proof.Machine.execVcfg g p audit reset a b s
  | .topk g a b c => Sys2Proof.Machine.execTopk g a b c s
  | .topkmMerge g a b => Sys2Proof.Machine.execTopkmMerge g a b s
  | .topkmStore g a b => Sys2Proof.Machine.execTopkmStore g a b s
  | .topkr g d a b => Sys2Proof.Machine.execTopkr g d a b s
  | .vthr g a b => Sys2Proof.Machine.execVthr g a b s
  | .trace g sn d a b c => Sys2Proof.Machine.execTrace g sn d a b c s
  | .psalloc g d a => Sys2Proof.Machine.execPsalloc g d a s
  | .psfree g d a b => Sys2Proof.Machine.execPsfree g d a b s
  | .sqpush g q d a b => Sys2Proof.Machine.execSqpush g q d a b s
  | .sqpop g q d a => Sys2Proof.Machine.execSqpop g q d a s
  | .tex g m d a b c => Sys2Proof.Machine.execTex g m d a b c s
  | .texg g m ch d a b c => Sys2Proof.Machine.execTexg g m ch d a b c s
  | .texqLod g m d a b => Sys2Proof.Machine.execTexqLod g m d a b s
  | .texqDims g d a b => Sys2Proof.Machine.execTexqDims g d a b s
  | .attr g n a0 d a b => Sys2Proof.Machine.execAttr g n a0 d a b s
  | .fback g d a b => Sys2Proof.Machine.execFback g d a b s
  | .csrr g w d csr => Sys2Proof.Machine.execCsrr g w d csr s
  | .csrw g w csr a => Sys2Proof.Machine.execCsrw g w csr a s
  | .csrx g op w d csr a => Sys2Proof.Machine.execCsrx g op w d csr a s
  | .setperf g d a b => Sys2Proof.Machine.execSetperf g d a b s
  | .launch g d a b => Sys2Proof.Machine.execLaunch g d a b s
  | .tlbi g m a => Sys2Proof.Machine.execTlbi g m a s
  | .trapack g d a => Sys2Proof.Machine.execTrapack g d a s
  | .hostForward dev write addr data => Sys2Proof.Machine.execHostForward dev write addr data s
  | .timesyncTimestamp transmit => Sys2Proof.Machine.execTimesyncTimestamp transmit s
  | .doorbell q w => Sys2Proof.Machine.execDoorbell q w s
  | .progressRead q => Sys2Proof.Machine.execProgressRead q s
  | .prioWrite q w => Sys2Proof.Machine.execPrioWrite q w s
  | .ctrlEnable q => Sys2Proof.Machine.execCtrlEnable q s
  | .ctrlDisable q => Sys2Proof.Machine.execCtrlDisable q s
  | .ctrlResume q => Sys2Proof.Machine.execCtrlResume q s
  | .ctrlSkip q => Sys2Proof.Machine.execCtrlSkip q s
  | .ctrlClear q => Sys2Proof.Machine.execCtrlClear q s
  | .viewDoorbell va => Sys2Proof.Machine.execViewDoorbell va s
  | .ctxtabWrite pa => Sys2Proof.Machine.execCtxtabWrite pa s
  | .permitack token => Sys2Proof.Machine.execPermitack token s
  | .preemptctx q => Sys2Proof.Machine.execPreemptctx q s
  | .attreq pa => Sys2Proof.Machine.execAttreq pa s
  | .fwload len => Sys2Proof.Machine.execFwload len s
  | .devnumWrite v => Sys2Proof.Machine.execDevnumWrite v s
  | .timeofsWrite d => Sys2Proof.Machine.execTimeofsWrite d s
  | .timerateWrite a => Sys2Proof.Machine.execTimerateWrite a s
  | .carveWrite core v => Sys2Proof.Machine.execCarveWrite core v s
  | .viswaysWrite v => Sys2Proof.Machine.execViswaysWrite v s
  | .pwrlimWrite v => Sys2Proof.Machine.execPwrlimWrite v s
  | .perfceilWrite ctx v => Sys2Proof.Machine.execPerfceilWrite ctx v s
  | .ctxidWrite key v => Sys2Proof.Machine.execCtxidWrite key v s
  | .walkactResume core req => Sys2Proof.Machine.execWalkactResume core req s
  | .walkactEnd core req => Sys2Proof.Machine.execWalkactEnd core req s
  | .registerWrite key csr v => Sys2Proof.Machine.execRegisterWrite key csr v s
  | .cardRead q => Sys2Proof.Machine.execCardRead q s
  | .teamPlace team => Sys2Proof.Machine.execTeamPlace team s
  | .teamStart team => Sys2Proof.Machine.execTeamStart team s
  | .carveConversion core => Sys2Proof.Machine.execCarveConversion core s
  | .registerRefill key reg => Sys2Proof.Machine.execRegisterRefill key reg s
  | .teamComplete team => Sys2Proof.Machine.execTeamComplete team s
  | .callSheetFire entry => Sys2Proof.Machine.execCallSheetFire entry s
  | .rasterStart view => Sys2Proof.Machine.execRasterStart view s
  | .drawEntryRead view => Sys2Proof.Machine.execDrawEntryRead view s
  | .binFlush view => Sys2Proof.Machine.execBinFlush view s
  | .viewSeal view => Sys2Proof.Machine.execViewSeal view s
  | .tileScan view => Sys2Proof.Machine.execTileScan view s
  | .binTimeout bin => Sys2Proof.Machine.execBinTimeout bin s
  | .attributeWrite team => Sys2Proof.Machine.execAttributeWrite team s
  | .viewDone view => Sys2Proof.Machine.execViewDone view s
  | .traversalComplete ray => Sys2Proof.Machine.execTraversalComplete ray s
  | .walkStepRetire core req => Sys2Proof.Machine.execWalkStepRetire core req s
  | .ringAcquireRequest core req => Sys2Proof.Machine.execRingAcquireRequest core req s
  | .windowCopyEnd core req => Sys2Proof.Machine.execWindowCopyEnd core req s
  | .matrixStep core => Sys2Proof.Machine.execMatrixStep core s
  | .drainElement n => Sys2Proof.Machine.execDrainElement n s
  | .orderedContribution n => Sys2Proof.Machine.execOrderedContribution n s
  | .atomReply key => Sys2Proof.Machine.execAtomReply key s
  | .translationComplete key => Sys2Proof.Machine.execTranslationComplete key s
  | .runSelect core quad => Sys2Proof.Machine.execRunSelect core quad s
  | .throttleEnd string => Sys2Proof.Machine.execThrottleEnd string s
  | .stallBreak core quad => Sys2Proof.Machine.execStallBreak core quad s
  | .candidateDue key slotB => Sys2Proof.Machine.execCandidateDue key slotB s
  | .strimbUpdate string => Sys2Proof.Machine.execStrimbUpdate string s
  | .laneRatioChange core => Sys2Proof.Machine.execLaneRatioChange core s
  | .perfStep string => Sys2Proof.Machine.execPerfStep string s
  | .hotspotMigration core => Sys2Proof.Machine.execHotspotMigration core s
  | .heatThrottle string => Sys2Proof.Machine.execHeatThrottle string s
  | .heatThrottleEnd string => Sys2Proof.Machine.execHeatThrottleEnd string s
  | .droopStretch string => Sys2Proof.Machine.execDroopStretch string s
  | .droopEnd string => Sys2Proof.Machine.execDroopEnd string s
  | .eccUncorrectable key pa => Sys2Proof.Machine.execEccUncorrectable key pa s
  | .flitReplay port => Sys2Proof.Machine.execFlitReplay port s
  | .portRetrain port => Sys2Proof.Machine.execPortRetrain port s
  | .portDown port => Sys2Proof.Machine.execPortDown port s
  | .permitRetry key slotB => Sys2Proof.Machine.execPermitRetry key slotB s
  | .asyncTrapTake key => Sys2Proof.Machine.execAsyncTrapTake key s
  | .preemptVictim team => Sys2Proof.Machine.execPreemptVictim team s
  | .drainTimeout team => Sys2Proof.Machine.execDrainTimeout team s
  | .retake team => Sys2Proof.Machine.execRetake team s
  | .save team => Sys2Proof.Machine.execSave team s
  | .restore team => Sys2Proof.Machine.execRestore team s
  | .linkAccess use size pa data => Sys2Proof.Machine.execLinkAccess use size pa data s
  | .loadDataArrival key => Sys2Proof.Machine.execLoadDataArrival key s
  | .unassignedOpcode w => Sys2Proof.Machine.execUnassignedOpcode w s
  | .attestationReport => Sys2Proof.Machine.execAttestationReport s
  | .csctlArm => Sys2Proof.Machine.execCsctlArm s
  | .csctlDisarm => Sys2Proof.Machine.execCsctlDisarm s
  | .queueSwitch => Sys2Proof.Machine.execQueueSwitch s
  | .dealChunk => Sys2Proof.Machine.execDealChunk s
  | .callSheetSwap => Sys2Proof.Machine.execCallSheetSwap s
  | .viewActivate => Sys2Proof.Machine.execViewActivate s
  | .caplvlLower => Sys2Proof.Machine.execCaplvlLower s
  | .caplvlRaise => Sys2Proof.Machine.execCaplvlRaise s
  | .sramTrim => Sys2Proof.Machine.execSramTrim s
  | .sramHoldEnd => Sys2Proof.Machine.execSramHoldEnd s
  | .eolRecompute => Sys2Proof.Machine.execEolRecompute s
  | .deviceReset => Sys2Proof.Machine.execDeviceReset s
  | .firmwareVerify => Sys2Proof.Machine.execFirmwareVerify s
  | .fetchFault => Sys2Proof.Machine.execFetchFault s
  | .join => Sys2Proof.Machine.execJoin s
  | .tret => Sys2Proof.Machine.execTret s
  | .yield => Sys2Proof.Machine.execYield s

end Sys2Proof.Machine
end

