-- ==== Sys2Proof/Machine/Run.lean ====
section
/-! DEFINITION. One step: the move that happens next, and how it is made (R144 to R150, R123, R224, R227; log 7). -/

namespace Sys2Proof.Machine

/-- A next state changed by `f`; a stop stays. -/
def mapNext (o : Host.Outcome State Fault Refusal) (f : State → State) : Host.Outcome State Fault Refusal :=
  match o with
  | .next s => .next (f s)
  | .fault r => .fault r
  | .refused r => .refused r

/-- A run in progress whose slot is no candidate any more has ended (R146). -/
def State.dropRuns (s : State) : State :=
  { s with cores := s.cores.map fun p : Nat × Core =>
      (p.1, { p.2 with quads := p.2.quads.map fun q =>
        match q with
        | some r => if (s.candidate r.key r.slotB).isSome then some r else none
        | none => none }) }

/-! ## Order among a group's accesses (R234, R240, R345 to R353; log 9) -/

/-- A word, other than a load, a store, an atomic or FENCE, that accesses memory or releases what came before it (R344, R350). -/
def Instr.accesses (w : Instr) : Bool :=
  match w with
  | .cacheZero _ _ | .mwait _ _ _ _ _ _ _ | .barArrive _ _ _ _ | .barDrop _ _ _ _ | .barJoin _ _ _ | .barExpect _ _ _ _ | .barWait _ _ _
  | .barSync _ _ _ | .barTest _ _ _ _ | .tbarSync _ _ | .tbarArrive _ _ _ | .tbarWait _ _ _ | .tbarTest _ _ _ _ | .evarm _ _ _ _ _ _ _ _
  | .mbox _ _ _ _ _ _ | .kick _ _ _ | .regionRing _ _ _ _ _ | .regionWindow _ _ _ _ _ | .regionAbsent _ _ _ | .regionPresent _ _ _
  | .regionFree _ _ _ | .racqFill _ _ _ _ | .racqFree _ _ _ _ | .rpub _ _ _ | .rrel _ _ _ | .mdrain _ _ _ _ _ _ _ _ | .msyncWait _ _ _
  | .topkmMerge _ _ _ | .topkmStore _ _ _ | .trace _ _ _ _ _ _ | .psalloc _ _ _ | .psfree _ _ _ _ | .sqpush _ _ _ _ _ | .sqpop _ _ _ _
  | .tex _ _ _ _ _ _ | .texg _ _ _ _ _ _ _ | .texqLod _ _ _ _ _ | .texqDims _ _ _ _ | .attr _ _ _ _ _ _ | .fback _ _ _ _ | .launch _ _ _ _ => true
  | _ => false

/-- The places of the lanes of a load, a store or an atomic, with the bytes of one. -/
def State.accessed (s : State) (i : Issue) (w : Instr) : Option (List (Nat × Loc) × Nat) :=
  let places (a : Access) (X : Word) (m : MemArg) : Option (List (Nat × Loc) × Nat) :=
    some ((s.checkLanes i a X (i.addrX false m)).perform, a.size)
  match w with
  | .ld g _ sz _ _ _ m => places (i.access (MemSize.bytes sz) false) (i.lanes g) m
  | .st g _ sz _ _ _ m => places (i.access (MemSize.bytes sz) true) (i.lanes g &&& ~~~i.mute) m
  | .ldb g sz _ _ _ m =>
    match lowLane (i.lanes g) with
    | some l => places (i.access (4 * 2 ^ sz) false) (BitVec.twoPow 32 l) m
    | none => none
  | .atom g op _ _ _ m | .red g op _ _ _ m => places (i.atomAccess op) (i.lanes g &&& ~~~i.mute) m
  | _ => none

/-- The acquires of a group complete: those that are atomics perform first (R240, R350). -/
def State.acquire (s : State) (key : Nat) : State :=
  match s.group? key with
  | none => s
  | some g =>
    let ds := (g.outstanding.filter Pending.acq).map fun p => some p.dst
    (s.performLate key fun o => ds.contains o.reply).modGroup key Group.completeAcquires

/-- What a word that is about to perform finds done (R234, R240, R346, R350): no access performs before an earlier acquire has completed; a load,
a store or an atomic comes after the earlier accesses of its part to the same bytes; another word that accesses memory or releases comes
after every earlier access of its part. -/
def State.order (s : State) (i : Issue) (w : Instr) : State :=
  let M := i.part.mask
  let s := s.modGroup i.key fun g => g.descend M
  let follows (p : Word) : Bool := p &&& M ≠ 0
  match s.accessed i w with
  | some (ps, n) =>
    let meets (loc : Loc) (k : Nat) : Bool := ps.any fun p => placesMeet p.2 n loc k
    ((s.acquire i.key).performLate i.key fun o => follows o.part && meets o.loc o.size).modGroup i.key fun g =>
      g.fixLoads fun p u => follows p.part && meets u.loc u.size
  | none =>
    if Instr.accesses w then
      ((s.acquire i.key).performLate i.key fun o => follows o.part).modGroup i.key fun g => g.fixLoads fun p _ => follows p.part
    else s

/-- A group has accesses that have issued and are not over. -/
def Group.moving (g : Group) : Bool := !g.outstanding.isEmpty || !g.late.isEmpty

/-- A slot's word has issued and waits to perform. -/
def Part.waitsToPerform (p : Part) : Bool :=
  match p.wait with
  | some .reissue | some .window | some .matrix | some (.msync _ _ _ _ _) => true
  | _ => false

/-- The slot of a word is left waiting to perform. -/
def State.leftWaiting (s : State) (i : Issue) : Bool := ((s.group? i.key).bind fun g => g.slot i.b).any Part.waitsToPerform

/-- A slot's word performs, in order with the earlier accesses of its group; one that still waits leaves them as they are. -/
def State.perform (s : State) (i : Issue) (w : Instr) : Host.Outcome State Fault Refusal :=
  match exec w (s.asIssuer i.key i.b) with
  | .next s' => if i.grp.moving && !s'.leftWaiting i then exec w ((s.order i w).asIssuer i.key i.b) else .next s'
  | o => o

/-- A candidate's word, which its team holds: checked in the order of R142, a spilled register that it reads refilled first, then
performed. -/
def State.runWord (s : State) (i : Issue) (raw : DWord) (d : Except DecodeError Instr) : Host.Outcome State Fault Refusal :=
  match d with
  | .error e => .next (((s.takeTrap s i.key i.b (decodeTrap e i.part)).endRun i.key i.grp.quad i.b).serve i.core i.grp.quad 0)
  | .ok w =>
    match i.refillFirst w with
    | some reg => exec (.registerRefill i.key reg) s
    | none => mapNext (s.perform i w) fun s' => s.afterWord s' i raw w

/-- The slot would execute its next word now: its run is the one in progress in its quadrant, or there is none (R122, R145), and permits are
taken in ascending position within a front cycle (R447). -/
def State.mayExecute (s : State) (i : Issue) : Bool :=
  s.permitAllows i.key &&
    match (s.core i.core).quads.getD i.grp.quad none with
    | some r => r.key = i.key && r.slotB = i.b
    | none => true

/-- The block of a candidate's next word is fetched; a fetch that fails takes the fetch fault where the slot would execute the word, and ends
the run (R122, R123, R142). -/
def State.fetchWord (s : State) (i : Issue) : Host.Outcome State Fault Refusal :=
  match s.fetchBlock i.key i.grp i.team i.pc with
  | .ok s' => .next s'
  | .error _ =>
    if s.mayExecute i then mapNext (exec .fetchFault (s.asIssuer i.key i.b)) fun s' => s'.endRun i.key i.grp.quad i.b else .next s

/-- The fetch of a slot's next word, when it is a candidate whose word its team does not hold; one that fails waits until the slot would execute
the word. A block is fetched when a slot needs a word of it, and none ahead of need: the model's choice (R122; log 83). -/
def State.fetchMove? (s : State) (key : Nat) (b : Bool) : Option Issue :=
  match s.candidate key b with
  | none => none
  | some (grp, part, team) =>
    let i : Issue := { key, b, grp, part, team }
    if (team.heldWord part.pc).isNone && ((s.fetchBlock key grp team part.pc).toOption.isSome || s.mayExecute i) then some i else none

/-- A front cycle in which the run's next word is held by the scoreboard: STALLMEM counts it when the outstanding write is a load's, an
atomic's, a texture read's or a walk request's, STALLALU otherwise (R146, R149). -/
def State.holdWord (s : State) (i : Issue) (u : Uses) : State :=
  let quad := i.grp.quad
  let mem := s.waitsMemory i.key i.grp u
  let s := s.modGroup i.key fun g => if mem then { g with stallMem := g.stallMem + 1 } else { g with stallAlu := g.stallAlu + 1 }
  let s := s.modCore i.core fun c => { c with quads := c.quads.set quad ((c.quads.getD quad none).map fun r => { r with held := r.held + 1 }) }
  s.serve i.core quad 0

/-- A front cycle in which a run waits for its group's translation check (R146). -/
def State.awaitCheck (s : State) (core quad : Nat) : State :=
  (s.modCore core fun c => { c with quads := c.quads.set quad ((c.quads.getD quad none).map fun r => { r with checking := r.checking + 1 }) }).serve
    core quad 0

/-- The turn of a run in progress: its next word issues, or is fetched or held (R145, R146, R149). Of a run that begins with a word whose sources
are there but whose destination has an outstanding write, R144 and R145 have the word issue and R149 forbids it: the run has begun and
its first word is held, the model's choice (log 87). -/
def State.runTurn (s : State) (r : Run) : Host.Outcome State Fault Refusal :=
  match s.candidate r.key r.slotB with
  | none => .next s
  | some (grp, part, team) =>
    let i : Issue := { key := r.key, b := r.slotB, grp, part, team }
    if grp.suspended then .next (s.awaitCheck i.core grp.quad)
    else match team.wordAt part with
    | none => mapNext (s.fetchWord i) fun s' => s'.serve i.core grp.quad 0
    | some (raw, d) =>
      match d with
      | .ok w =>
        let u := (i.reads w).and (i.writes w)
        if s.heldBy i.key grp u then .next (s.holdWord i u) else s.runWord i raw d
      | .error _ => s.runWord i raw d

/-- The run in progress of a quadrant is one that goes on: its group does not wait for a translation check past the second front cycle after
the word that asked for it, and its next word has not been held for 8 front cycles and is held still (R146). -/
def State.runGoesOn (s : State) (r : Run) : Bool :=
  (match s.group? r.key with
   | some g => !(g.suspended && 2 ≤ r.checking)
   | none => false) && !(8 ≤ r.held && s.runHeld r)

/-- The slot that acts at a quadrant's turn: that of its run in progress, or the one that the scheduler picks (R145). -/
def State.actor (s : State) (core quad : Nat) : Option (Nat × Bool) :=
  match (s.core core).quads.getD quad none with
  | some r => if s.runGoesOn r then some (r.key, r.slotB) else (s.breakRun core quad r).pick core quad
  | none => s.pick core quad

/-- The quadrants of a core that have still to act in the present front cycle, each with the slot that acts. A group at a lower position than
one that took a permit in this front cycle acts in the next (R447). -/
def State.actors (s : State) (core : Nat) : List (Nat × Nat × Bool) :=
  (List.range 4).filterMap fun q =>
    if ((s.core core).served.getD q none).isSome then none
    else
      match s.actor core q with
      | some (key, b) => if s.permitAllows key then some (q, key, b) else none
      | none => none

/-- The next quadrant of a core to act: the one whose slot is at the lowest position (R447). -/
def State.nextActor (s : State) (core : Nat) : Option (Nat × Nat × Bool) := argMin (fun a => a.2.1) (s.actors core)

/-- A quadrant's turn: a run that does not go on ends as a continuation, a quadrant without one begins the run that the scheduler picks, and
the run's next word issues or is held (R145 to R149). -/
def State.quadTurn (s : State) (core quad : Nat) : Host.Outcome State Fault Refusal :=
  let s := match (s.core core).quads.getD quad none with
    | some r => if s.runGoesOn r then s else s.breakRun core quad r
    | none => s
  let s := if ((s.core core).quads.getD quad none).isNone then (s.runSelect core quad).getD s else s
  match (s.core core).quads.getD quad none with
  | some r => s.runTurn r
  | none => .next s

/-- A core's turn: the next of its quadrants that has to act. -/
def State.turnMove (s : State) (core : Nat) : Host.Outcome State Fault Refusal :=
  match s.nextActor core with
  | some (q, _, _) => s.quadTurn core q
  | none => .next s

/-- Some quadrant of a string has still to act in the present front cycle (R145). -/
def State.busy (s : State) (n : Nat) : Bool := (strandCores n).any fun c => (s.nextActor c).isSome

/-- Some quadrant of a string has acted in the present front cycle. -/
def State.acted (s : State) (n : Nat) : Bool := (strandCores n).any fun c => (s.core c).served.any Option.isSome

/-- At the end of a front cycle the run of a quadrant ends as a continuation: its group's translation check has been waited for in two front
cycles, or the quadrant has not acted in this one because its next word was held in a 9th (R146, R147). -/
def State.runBreaks (s : State) (core quad : Nat) (r : Run) : Bool :=
  (match s.group? r.key with
   | some g => g.suspended && 2 ≤ r.checking
   | none => false) || (((s.core core).served.getD quad none).isNone && !s.runGoesOn r)

/-- The runs of a string that end so. -/
def State.breakRuns (s : State) (n : Nat) : State :=
  ((strandCores n).flatMap fun c => (List.range 4).map fun q => (c, q)).foldl (fun s p =>
    match (s.core p.1).quads.getD p.2 none with
    | some r => if s.runBreaks p.1 p.2 r then s.breakRun p.1 p.2 r else s
    | none => s) s

/-- A route-tag phase of a team falls due. -/
def State.tagDue (s : State) (k : Nat) (t : Team) : Bool := (List.range t.tags.length).any fun j => (s.tagComplete k j).isSome

/-- The route-tag phases of a string's teams that fall due complete, and the slots that wait for them become ready in this front cycle (R371). -/
def State.tagsDue (s : State) (n : Nat) : State :=
  match s.teams.filter fun p : Nat × Team => strandOf p.2.clockCore = n && s.tagDue p.1 p.2 with
  | [] => s
  | ts => (ts.foldl (fun s p => (List.range p.2.tags.length).foldl (fun s k => (s.tagComplete p.1 k).getD s) s) s).latchAll

/-- The front cycle of a string ends once no quadrant has still to act (R145). -/
def State.cycleMove (s : State) (n : Nat) : State := if s.busy n then s else ((s.breakRuns n).frontCycle n).tagsDue n

/-- The rows of the opcode table that are events of the device, the host and the engines. -/
def Instr.isEvent (i : Instr) : Bool := i.encodeNat.isNone && i != .fetchFault

/-! ## Words that wait (R105, R144, R304; log 76) -/

/-- A slot whose word waits to perform tries it again: it performs once its condition holds, and waits on until then. A word that would trap
waits for the next front cycle when a group at a higher position has taken a permit in this one (R447). -/
def State.tryAgain (s : State) (key : Nat) (b : Bool) : State :=
  match (s.asIssuer key b).issuing with
  | none => s
  | some i =>
    if !i.part.waitsToPerform || (i.grp.atWindow && i.part.wait != some .window) || !i.team.started || i.grp.suspended || i.grp.entering.isSome || i.grp.trapDue then s
    else
      match i.part.wait, i.team.wordAt i.part with
      | some (.msync _ _ _ _ _), _ => ((s.asIssuer key b).endSync).getD s
      | _, some (_, .ok w) =>
        let part := { i.part with wait := none }
        let grp := i.grp.setSlot b (some part)
        match (s.setGroup key grp).perform { i with grp, part } w with
        | .next s' =>
          if s'.leftWaiting i then s'
          else if s'.wordTrapped i w then if s.permitAllows key then s' else s
          else s'.performed i w
        | _ => s
      | _, _ => s

/-- Every slot that waits to perform tries once, slot A before slot B (R105). -/
def State.tryAll (s : State) : State :=
  let waits (g : Group) (b : Bool) : Bool := (g.slot b).any Part.waitsToPerform
  (s.groups.flatMap fun p : Nat × Group => [false, true].filterMap fun b => if waits p.2 b || waits p.2 (!b) then some (p.1, b) else none).foldl
    (fun s p => s.tryAgain p.1 p.2) s

/-! ## The passing of time (R49, R150) -/

/-- Front cycles of a string in which no quadrant acts; they end where one has to (R145). -/
def State.idleCyclesOf (s : State) (n : Nat) : Nat → State
  | 0 => s
  | k + 1 => if s.busy n then s else (s.cycleMove n).idleCyclesOf n k

/-- `ns` nanoseconds of a string's front clock (R429, log 10). -/
def State.clockString (s : State) (ns n : Nat) : State :=
  let s := (strandCores n).foldl (fun s c => s.setCore c (s.core c)) s
  let s := s.modStrand n fun x => { x with phase := x.phase + ns * s.frontRate n }
  if s.acted n then s else s.idleCyclesOf n ((s.strand n).phase.toNat / 6000)

/-- `ns` nanoseconds of the front clock of every string that nothing has touched, at level 0 and ratio 1 since device reset (R429, R430). -/
def State.clockIdle (s : State) (ns : Nat) : State :=
  let p := s.idlePhase + ns * 5400
  { s with idleCycles := s.idleCycles + p.toNat / 6000, idlePhase := p % 6000 }

/-- Time passes: TIME counts, the call sheet fires as it falls due, and the front clock of every string runs (log 7, log 10). -/
def State.advanceTime (s : State) (ns : Nat) : State :=
  let s := State.passInstants (ns + 1) s ns
  (((s.cores.map fun p : Nat × Core => strandOf p.1) ++ s.strands.map Prod.fst).eraseDups.foldl (fun s n => s.clockString ns n) s).clockIdle ns

/-- One move. -/
def State.move (s : State) (m : Move) : Host.Outcome State Fault Refusal :=
  match m with
  | .turn core => s.turnMove core
  | .cycle n => .next (s.cycleMove n)
  | .fetch key b => match s.fetchMove? key b with
    | some i => s.fetchWord i
    | none => .next s
  | .event i => if Instr.isEvent i then exec i s else .next s
  | .advance ns => .next (s.advanceTime ns)
  | .dropBlock team base => .next (s.modTeam team fun t => { t with blocks := t.blocks.filter fun x => x.1 ≠ base })
  | .fetchWord team base n => .next (s.fetchAgain team base n)
  | .delay key b => .next (s.modGroup key fun g => g.setSlot b ((g.slot b).map fun p => { p with delay := true }))
  | .late key n => .next (s.performNth key n)
  | .reload key n u => .next (s.reload key n u)
  | .readAhead q j va => .next (s.readAhead q j va)
  | .dropTlb core n => .next (s.modCore core fun c => { c with tlb := c.tlb.eraseIdx n })
  | .dropTlb2 n => .next { s with tlb2 := s.tlb2.eraseIdx n }
  | .dropLine core n => .next (s.modCore core fun c => { c with l1 := c.l1.eraseIdx n })
  | .dropL2 n => .next { s with l2 := s.l2.eraseIdx n }
  | .evictLine line => .next (s.evictLine line)
  | .raiseSvn v => .next (s.raiseSvn v)

/-! ## The move that comes next when the agenda names none (log 7) -/

/-- A move, when its event may occur. -/
def State.may (i : Instr) (f : Option State) : Option Move := if f.isSome then some (.event i) else none

/-- The first of a list of moves. -/
def firstMove : List (Unit → Option Move) → Option Move
  | [] => none
  | f :: fs =>
    match f () with
    | some m => some m
    | none => firstMove fs

/-- A may-fault word's checks, an access that has still to perform, or an outstanding value, of the first group that has one. -/
def State.arrivals (s : State) : Option Move :=
  s.groups.findSome? fun p : Nat × Group =>
    if p.2.suspended then some (.event (.translationComplete p.1))
    else if !p.2.late.isEmpty then some (.late p.1 0)
    else
      match p.2.outstanding with
      | [] => none
      | x :: _ => some (.event (if x.atomic then .atomReply p.1 else .loadDataArrival p.1))

/-- A reply for a saved team. -/
def State.savedArrivals (s : State) : Option Move :=
  s.images.findSome? fun m => m.groups.findSome? fun g =>
    State.may (.atomReply (savedKey + m.team * 64 + g.gidx)) (s.savedReply m.team g.gidx)

/-- A candidate whose next word is not held yet. -/
def State.fetchMove (s : State) : Option Move :=
  s.groups.findSome? fun p : Nat × Group => [false, true].findSome? fun b => if (s.fetchMove? p.1 b).isSome then some (.fetch p.1 b) else none

/-- A candidate that becomes due. -/
def State.dueMove (s : State) : Option Move :=
  s.groups.findSome? fun p : Nat × Group => [false, true].findSome? fun b =>
    State.may (.candidateDue p.1 b) (s.candidateDue p.1 b)

/-- The strings of the resident groups that have something to do in their front cycle. -/
def State.activeStrings (s : State) : List Nat :=
  ((s.groups.map fun p : Nat × Group => strandOf (keyCore p.1)).eraseDups).filter fun n => s.busy n || s.acted n

/-- The string that is furthest behind its clock acts: a core's turn, or the end of its front cycle. -/
def State.stringMove (s : State) : Option Move :=
  (argMin (fun n => (2 ^ 63 - (s.strand n).phase).toNat) s.activeStrings).map fun n =>
    match (strandCores n).find? fun c => (s.nextActor c).isSome with
    | some c => .turn c
    | none => .cycle n

/-- The moves of the groups' words. -/
def State.wordMoves (s : State) : List (Unit → Option Move) :=
  [fun _ => s.arrivals, fun _ => s.fetchMove, fun _ => s.dueMove, fun _ => s.stringMove]

/-- Events of a group. -/
def State.groupMove (s : State) : Option Move :=
  s.groups.findSome? fun p : Nat × Group =>
    firstMove [
      fun _ => State.may (.asyncTrapTake p.1) (s.asyncTake p.1),
      fun _ => [false, true].findSome? fun b => State.may (.permitRetry p.1 b) (s.permitRetry p.1 b),
      fun _ => (List.range 16).findSome? fun n => State.may (.eventDeadline p.1 n) (s.eventDeadline p.1 n),
      fun _ => [false, true].findSome? fun b => State.may (.sleepWake p.1 b) (s.sleepWake p.1 b),
      fun _ => State.may (.regroupTimeout p.1) (s.regroupTimeout p.1)]

/-- Events of the engines of a core. -/
def State.coreMove (s : State) : Option Move :=
  s.cores.findSome? fun p : Nat × Core =>
    firstMove [
      fun _ => p.2.requests.findSome? fun r => firstMove [
        fun _ => State.may (.ringAcquireRequest p.1 r.id) (s.acquireSlot p.1 r.id),
        fun _ => State.may (.walkStepRetire p.1 r.id) (s.walkStep p.1 r.id),
        fun _ => State.may (.windowCopyEnd p.1 r.id) (s.copyEnd p.1 r.id)],
      fun _ => State.may (.matrixStep p.1) (s.matrixStep p.1)]

/-- Drain elements on their way. -/
def State.drainMove (s : State) : Option Move :=
  (List.range s.drains.length).findSome? fun n => firstMove [
    fun _ => State.may (.drainElement n) (s.drainElement n),
    fun _ => State.may (.orderedContribution n) (s.orderedContribution n)]

/-- Events of the views, bins and rays. -/
def State.pictureMove (s : State) : Option Move :=
  firstMove [
    fun _ => State.may .viewActivate s.viewActivate,
    fun _ => s.views.findSome? fun v => firstMove [
      fun _ => State.may (.rasterStart v.id) (s.rasterStart v.id),
      fun _ => State.may (.drawEntryRead v.id) (s.drawEntry v.id),
      fun _ => State.may (.viewSeal v.id) (s.viewSeal v.id),
      fun _ => State.may (.tileScan v.id) (s.tileScan v.id),
      fun _ => State.may (.viewDone v.id) (s.viewDone v.id)],
    fun _ => (List.range s.bins.length).findSome? fun n => State.may (.binTimeout n) (s.binTimeout n),
    fun _ => (List.range s.rays.length).findSome? fun n => State.may (.traversalComplete n) (s.traversalComplete n)]

/-- Events of a team. -/
def State.teamMove (s : State) : Option Move :=
  s.teams.findSome? fun p : Nat × Team =>
    firstMove [
      fun _ => State.may (.teamComplete p.1) (s.teamComplete p.1),
      fun _ => (List.range p.2.tags.length).findSome? fun n => State.may (.tagPhaseComplete p.1 n) (s.tagComplete p.1 n),
      fun _ => State.may (.attributeWrite p.1) (s.attributeWrite p.1),
      fun _ => State.may (.retake p.1) (s.retake p.1),
      fun _ => State.may (.save p.1) (s.save p.1),
      fun _ => State.may (.drainTimeout p.1) (s.drainTimeout p.1),
      fun _ => State.may (.restore p.1) (s.restore p.1),
      fun _ => State.may (.teamPlace p.1) (s.teamPlace p.1),
      fun _ => State.may (.teamStart p.1) (s.teamStart p.1)]

/-- Events of the dispatcher and the call sheet. -/
def State.queueMove (s : State) : Option Move :=
  firstMove [
    fun _ => State.may .callSheetSwap s.sheetSwap,
    fun _ => s.sheetNext.map fun n => .event (.callSheetFire n),
    fun _ => if s.dispatches then firstMove [
      fun _ => State.may .queueSwitch s.queueSwitch,
      fun _ => s.resident.findSome? fun q => State.may (.cardRead q) (s.cardRead q),
      fun _ => State.may .dealChunk s.dealChunk,
      fun _ => match s.urgentVictim with
        | some (k, _, _, _) => some (.event (.preemptVictim k))
        | none => none,
      fun _ => (s.pending ++ s.images.map fun m => m.team).findSome? fun k => match (s.team? k).bind (s.targetOf k) with
        | some w => (match s.team? k with
          | some t => (coresAt t.card w).findSome? fun c => State.may (.carveConversion c) (s.carveStep c)
          | none => none)
        | none => none] else none]

/-- Events of the clocks, of boot and of attestation. -/
def State.deviceMove (s : State) : Option Move :=
  firstMove [
    fun _ => State.may .firmwareVerify s.firmwareVerify,
    fun _ => State.may .attestationReport s.attest,
    fun _ => s.cores.findSome? fun p : Nat × Core => firstMove [
      fun _ => State.may (.perfStep (strandOf p.1)) (s.perfStep (strandOf p.1)),
      fun _ => State.may (.laneRatioChange p.1) (s.laneRatioChange p.1),
      fun _ => State.may (.hotspotMigration p.1) (s.migration p.1)],
    fun _ => s.strands.findSome? fun p : Nat × Strand => firstMove [
      fun _ => State.may (.throttleEnd p.1) (s.throttleEnd p.1),
      fun _ => State.may (.strimbUpdate p.1) (s.strimbUpdate p.1),
      fun _ => State.may (.heatThrottle p.1) (s.heatThrottle p.1),
      fun _ => State.may (.heatThrottleEnd p.1) (s.heatEnd p.1)],
    fun _ => State.may .caplvlLower s.capLower,
    fun _ => State.may .caplvlRaise s.capRaise,
    fun _ => State.may .sramHoldEnd s.sramHoldEnd,
    fun _ => State.may .sramTrim s.sramTrim,
    fun _ => State.may .eolRecompute s.eolRecompute,
    fun _ => (List.range s.ports.length).findSome? fun n => State.may (.portRetrain n) (s.portRetrain n)]

/-- The moves of the engines and of the device. -/
def State.engineMoves (s : State) : List (Unit → Option Move) :=
  [fun _ => s.savedArrivals, fun _ => s.groupMove, fun _ => s.coreMove, fun _ => s.drainMove, fun _ => s.pictureMove,
   fun _ => s.queueMove, fun _ => s.teamMove, fun _ => s.deviceMove]

/-- The move that comes next: words, engines and time take turns to go first, and the next that has something to do follows. -/
def State.nextMove (s : State) : Move :=
  (match s.turn % 3 with
   | 0 => firstMove (s.wordMoves ++ s.engineMoves)
   | 1 => firstMove (s.engineMoves ++ s.wordMoves)
   | _ => none).getD (.advance 1)

/-- One step before it settles: the head of the agenda, else the default move. -/
def State.moveOnce (s : State) : Host.Outcome State Fault Refusal :=
  match s.agenda with
  | m :: rest => ({ s with agenda := rest } : State).move m
  | [] => ({ s with turn := (s.turn + 1) % 3 } : State).move s.nextMove

/-- What follows a move that started in `before`. -/
def State.close (before s : State) : State := (State.freshen before s.dropRuns.settle.tryAll).spillAll.unreserve

end Sys2Proof.Machine
end

