-- ==== Sys2Proof/Machine/Step.lean ====
section
/-! DEFINITION. One step of the machine, and the state in which a given word is the next to be fetched. -/

namespace Sys2Proof.Machine

/-- One step: the next move, then what follows every move (log 7). -/
def step (s : State) : Host.Outcome State Fault Refusal := mapNext s.moveOnce (State.close s)

/-- The card of a one-group team whose code starts at virtual address 0x1000 (R13). -/
def probeCard : List DWord :=
  [0x1000, 0, 0x0000000100010000, 0, 0x0000000000000000, 0, 0x0000000120000000, 0, 0, 0, 0, 0, 0, 0, 0, 0]

/-- The team that stands for a program loaded from outside (log 7): one group, running, with its fetch block held (R123). -/
def probeTeam (w : DWord) : Team :=
  { id := 0, ctx := 0, card := probeCard, phase := .running, fates := [.live],
    quarters := [{ core := 0, base := 0, kib := 1 }],
    blocks := [(0x1000, [w, 0, 0, 0, 0, 0, 0, 0])] }

/-- `s` with the word of `nbits` bits `w` where the next step fetches: at the PC of the run in progress of the group at position 0 of
core 0, in a fetch block that its team holds. -/
def State.withFetchWord (s : State) (nbits w : Nat) : State :=
  let x : DWord := BitVec.ofNat 64 (if nbits < 64 then w % 2 ^ nbits else w)
  let s := { s with agenda := [], turn := 0, teams := tabSet s.teams 0 (probeTeam x),
                    groups := [(0, { slotA := some { pc := 0x1000, mask := 0xFFFFFFFF }, lorigin := laneList.map (BitVec.ofNat 32) })] }
  s.modCore 0 fun c => { c with quads := [some { key := 0, slotB := false, cls := 0 }, none, none, none], scratchWays := 1 }

end Sys2Proof.Machine
end

