-- ==== Sys2Proof/Safety.lean ====
section
/-! DEFINITION. What counts as a safe run, and the terms in which statements speak of what a word does: what it writes, what it leaves,
and where its slot goes on. -/

namespace Sys2Proof

/-- The run from `s` takes `n` steps without a fault or a refusal. -/
def SafeFor (n : Nat) (s : Machine.State) : Prop := ∃ t, core.run n s = .next t

/-- The run from `s` never stops. -/
def Safe (s : Machine.State) : Prop := ∀ n, SafeFor n s

end Sys2Proof

namespace Sys2Proof.Claim

open Sys2Proof.Machine

/-- Every byte of memory reads in `t` as in `s`. -/
def SameBytes (s t : State) : Prop := ∀ a, cellGet (w := 8) t.mem a = cellGet (w := 8) s.mem a

/-- A 32-bit destination holds `f` in the lanes of `X` and what it held in the others; a uniform register holds `f` of the lowest
executing lane (R129). A vector register is bound when it was or when a lane executed (R109). -/
def Wrote (g g' : Group) (d : Operand) (X : Word) (f : Nat → Word) : Prop :=
  match d with
  | .v n => (∀ l, l < 32 → g'.v n l = if X.getLsbD l then f l else g.v n l) ∧ g'.bound n = (g.bound n || X != 0)
  | .s n => g'.sreg n = match lowLane X with
    | some l => f l
    | none => g.sreg n
  | _ => False

/-- A 64-bit destination: the low word in the even register, the high word in the next (R129). -/
def Wrote64 (g g' : Group) (d : Operand) (X : Word) (f : Nat → DWord) : Prop :=
  Wrote g g' d X (fun l => lo32 (f l)) ∧ Wrote g g' (Operand.next d 1) X fun l => hi32 (f l)

/-- A destination under a type: the result modulo 2^w (R163). -/
def WroteInt (g g' : Group) (t : IntType) (d : Operand) (X : Word) (f : Nat → Int) : Prop :=
  if t.is64 then Wrote64 g g' d X fun l => BitVec.ofInt 64 (f l) else Wrote g g' d X fun l => BitVec.ofInt 32 (f l)

/-- A destination under a type: 32 bits of `f`, or 64 bits of `f'`. -/
def WroteBits (g g' : Group) (t : IntType) (d : Operand) (X : Word) (f : Nat → Word) (f' : Nat → DWord) : Prop :=
  if t.is64 then Wrote64 g g' d X f' else Wrote g g' d X f

/-- Every register but those of `ds` is unchanged. -/
def RegsKept (g g' : Group) (ds : List Operand) : Prop :=
  (∀ n, .v n ∉ ds → g'.bound n = g.bound n ∧ ∀ l, g'.v n l = g.v n l) ∧ ∀ n, n < 32 → .s n ∉ ds → g'.sreg n = g.sreg n

/-- Every predicate but those of `ns` is unchanged; p0 is pT. -/
def PredsKept (g g' : Group) (ns : List Nat) : Prop := ∀ n, n < 8 → n ∉ ns → g'.pred n = g.pred n

/-- Predicate `n` holds `f` in the lanes of `X` and what it held in the others (R174). -/
def WrotePred (g g' : Group) (n : Nat) (X : Word) (f : Nat → Bool) : Prop :=
  ∀ l, l < 32 → (g'.pred n).getLsbD l = if X.getLsbD l then f l else (g.pred n).getLsbD l

/-- Beside its registers, predicates, FFLAGS and the issuing slot, the group is as it was: the other slot, the stack, the mode, the
frames, the vectors, and every other special register. -/
def RestKept (i : Issue) (g' : Group) : Prop :=
  { g' with vregs := i.grp.vregs, sregs := i.grp.sregs, preds := i.grp.preds, fflags := i.grp.fflags, slotA := i.grp.slotA,
            slotB := i.grp.slotB } = i.grp ∧ g'.slot (!i.b) = i.grp.slot (!i.b)

/-- The issuing slot stands at the next word, waiting for nothing (R119, R144). -/
def WentOn (i : Issue) (g' : Group) : Prop :=
  g'.slot i.b = some (i.part.goTo (i.part.pc + 8))

/-- A word that writes nothing but the registers `ds`, the predicates `ns` and, as `fl` says, FFLAGS, and completes: the state it leaves
differs from `s` in its group alone, of which `res` holds. -/
def Completes (s : State) (i : Issue) (o : Host.Outcome State Fault Refusal) (ds : List Operand) (ns : List Nat) (fl : Word)
    (res : Group → Prop) : Prop :=
  ∃ g', o = .next (s.setGroup i.key g') ∧ SameBytes s (s.setGroup i.key g') ∧ res g' ∧ RegsKept i.grp g' ds ∧
    PredsKept i.grp g' ns ∧ g'.fflags = i.grp.fflags ||| fl ∧ RestKept i g' ∧ WentOn i g'

/-- A word that completes: it leaves the state `t`, in which its group has become `g'` with the issuing slot at the next word. -/
def Ends (i : Issue) (o : Host.Outcome State Fault Refusal) (t : State) (g' : Group) : Prop :=
  o = .next (t.setGroup i.key (g'.setSlot i.b (some (i.part.goTo (i.part.pc + 8)))))

/-- A word whose slot parks: it leaves the state `t`, in which its group is `g'` with the issuing slot waiting at the word (R144). -/
def Parks (i : Issue) (o : Host.Outcome State Fault Refusal) (t : State) (g' : Group) (w : Wait) : Prop :=
  o = .next (t.setGroup i.key (g'.setSlot i.b (some { i.part with wait := some w })))

/-- The word takes the trap `t` instead, with no lane performed. -/
def Traps (s : State) (i : Issue) (o : Host.Outcome State Fault Refusal) (t : Trap) : Prop := o = .next (s.takeTrap s i.key i.b t)

/-- A word that computes in each executing lane (R162): where its registers fit `done` holds, else it takes the register-budget trap
that `budget` gives (R110). -/
def Fits (s : State) (i : Issue) (g : Guard) (ds : List Operand) (o : Host.Outcome State Fault Refusal) (done : Prop) : Prop :=
  (i.budget (i.lanes g) ds = none → done) ∧ ∀ t, i.budget (i.lanes g) ds = some t → Traps s i o t

/-- A word whose result is the integer `f` under a type, and which changes nothing else. -/
def DoesInt (s : State) (i : Issue) (g : Guard) (t : IntType) (d : Operand) (o : Host.Outcome State Fault Refusal) (f : Nat → Int) : Prop :=
  Fits s i g (typeDests t.is64 d) o
    (Completes s i o (typeDests t.is64 d) [] 0 fun g' => WroteInt i.grp g' t d (i.lanes g) f)

/-- A word whose result is the bits `f`, or `f'` under a 64-bit type, and which changes nothing else. -/
def DoesBits (s : State) (i : Issue) (g : Guard) (t : IntType) (d : Operand) (o : Host.Outcome State Fault Refusal) (f : Nat → Word)
    (f' : Nat → DWord) : Prop :=
  Fits s i g (typeDests t.is64 d) o
    (Completes s i o (typeDests t.is64 d) [] 0 fun g' => WroteBits i.grp g' t d (i.lanes g) f f')

/-- A word whose result is the 32 bits `f`, and which changes nothing else. -/
def DoesWord (s : State) (i : Issue) (g : Guard) (d : Operand) (o : Host.Outcome State Fault Refusal) (f : Nat → Word) : Prop :=
  Fits s i g [d] o (Completes s i o [d] [] 0 fun g' => Wrote i.grp g' d (i.lanes g) f)

/-- A word that tests the operands `os` for verdict words (R166), then writes the value of `f` and ORs its flags into FFLAGS (R165). -/
def DoesFloat (s : State) (i : Issue) (g : Guard) (d : Operand) (os : List Operand) (o : Host.Outcome State Fault Refusal)
    (f : Nat → Nat × Nat) : Prop :=
  (∀ t, i.verdictTrap (i.lanes g) (i.anyVerdict os) = some t → Traps s i o t) ∧
  (i.verdictTrap (i.lanes g) (i.anyVerdict os) = none → Fits s i g [d] o
    (Completes s i o [d] [] (BitVec.ofNat 32 (orFlags (i.lanes g) fun l => (f l).2))
      fun g' => Wrote i.grp g' d (i.lanes g) fun l => BitVec.ofNat 32 (f l).1))

/-- A word that writes predicate `n` and ORs the flags of `fl` into FFLAGS, and changes nothing else. -/
def DoesPred (s : State) (i : Issue) (g : Guard) (n : Nat) (o : Host.Outcome State Fault Refusal) (fl : Nat → Nat) (f : Nat → Bool) : Prop :=
  Completes s i o [] [n] (BitVec.ofNat 32 (orFlags (i.lanes g) fl)) fun g' => WrotePred i.grp g' n (i.lanes g) f

end Sys2Proof.Claim
end

