-- ==== Sys2Proof/Certificates/Slice0/Obligations.lean ====
section
/-! DEFINITION. What the provers are asked: statements about the words, the traps, the events and the step of the machine, from the
numbered rules of spec/. -/

namespace Sys2Proof

open Machine Claim

/-! ## Integer arithmetic, logic and moves -/

/-- R169: what each integer word stores, under its type, with every register it may name; `wrapSat` is the rule's wrapsat, the store
takes the value modulo 2^w. Nothing else changes (R162). -/
def integerArithmeticStoresResult : Prop :=
  ∀ (s : State) (i : Issue) (g : Guard) (t : IntType) (sat : Bool) (d a b c : Operand), s.issuing = some i →
    ((Instr.iadd g t sat d a b).wf → DoesInt s i g t d (exec (.iadd g t sat d a b) s) fun l => wrapSat t sat (i.int t a l + i.int t b l)) ∧
    ((Instr.isub g t sat d a b).wf → DoesInt s i g t d (exec (.isub g t sat d a b) s) fun l => wrapSat t sat (i.int t a l - i.int t b l)) ∧
    ((Instr.imul g t d a b).wf → DoesInt s i g t d (exec (.imul g t d a b) s) fun l => i.int t a l * i.int t b l) ∧
    ((Instr.imulh g t d a b).wf → DoesInt s i g t d (exec (.imulh g t d a b) s) fun l => i.int t a l * i.int t b l / 2 ^ t.width) ∧
    ((Instr.imad g t d a b c).wf → DoesInt s i g t d (exec (.imad g t d a b c) s) fun l => i.int t a l * i.int t b l + i.int t c l) ∧
    ((Instr.imadw g t d a b c).wf → DoesInt s i g .s64 d (exec (.imadw g t d a b c) s) fun l =>
      i.int t a l * i.int t b l + i.int (if t = .s32 then .s64 else .n64) c l) ∧
    ((Instr.imin g t d a b).wf → DoesInt s i g t d (exec (.imin g t d a b) s) fun l => min (i.int t a l) (i.int t b l)) ∧
    ((Instr.imax g t d a b).wf → DoesInt s i g t d (exec (.imax g t d a b) s) fun l => max (i.int t a l) (i.int t b l)) ∧
    ((Instr.iabs g t sat d a).wf → DoesInt s i g t d (exec (.iabs g t sat d a) s) fun l => wrapSat t sat (max (i.int t a l) (-(i.int t a l)))) ∧
    ((Instr.ineg g t sat d a).wf → DoesInt s i g t d (exec (.ineg g t sat d a) s) fun l => wrapSat t sat (-(i.int t a l))) ∧
    ((Instr.mov g t d b).wf → DoesInt s i g t d (exec (.mov g t d b) s) fun l => i.int t b l)

/-- The four products of IDOT4 and their addend (R169). -/
def idot4Sum (unsA unsB : Bool) (a b : Word) (c : Int) : Int :=
  c + extByte unsA a 0 * extByte unsB b 0 + extByte unsA a 1 * extByte unsB b 1 + extByte unsA a 2 * extByte unsB b 2 +
    extByte unsA a 3 * extByte unsB b 3

/-- R169: IADDC writes the sum or difference modulo 2^32 and the carry or borrow to its predicate; IDOT4 adds four byte products. -/
def carryAndDotProductWords : Prop :=
  ∀ (s : State) (i : Issue) (g : Guard) (sub sat unsA unsB : Bool) (n : Nat) (d a b c : Operand), s.issuing = some i →
    ((Instr.iaddc g sub n d a b).wf →
      Fits s i g [d] (exec (.iaddc g sub n d a b) s)
        (let cin (l : Nat) : Int := ((i.grp.pred n).getLsbD l).toNat
         let A (l : Nat) : Int := (i.srcN a l).toNat
         let B (l : Nat) : Int := (i.srcN b l).toNat
         Completes s i (exec (.iaddc g sub n d a b) s) [d] [n] 0 fun g' =>
           Wrote i.grp g' d (i.lanes g) (fun l => BitVec.ofInt 32 (if sub then A l - B l - cin l else A l + B l + cin l)) ∧
           WrotePred i.grp g' n (i.lanes g) fun l => if sub then A l - B l - cin l < 0 else 2 ^ 32 ≤ A l + B l + cin l)) ∧
    ((Instr.idot4 g sat unsA unsB d a b c).wf →
      DoesInt s i g .s32 d (exec (.idot4 g sat unsA unsB d a b c) s) fun l =>
        wrapSat .s32 sat (idot4Sum unsA unsB (i.src32 true a l) (i.src32 true b l) (i.int .s32 c l)))

/-- R172, R175: logic, shifts, rotations and selection, bit for bit. -/
def logicAndShiftWords : Prop :=
  ∀ (s : State) (i : Issue) (g : Guard) (t : IntType) (r neg : Bool) (n : Nat) (d a b : Operand), s.issuing = some i →
    let x := i.srcN a; let y := i.srcN b; let X := i.src64 false a; let Y := i.src64 false b
    let k (l : Nat) : Nat := (i.srcN b l).toNat % 32; let K (l : Nat) : Nat := (i.srcN b l).toNat % 64
    let p (l : Nat) : Bool := ((i.grp.pred n).getLsbD l) ^^ neg
    ((Instr.and g t d a b).wf → DoesBits s i g t d (exec (.and g t d a b) s) (fun l => x l &&& y l) fun l => X l &&& Y l) ∧
    ((Instr.or g t d a b).wf → DoesBits s i g t d (exec (.or g t d a b) s) (fun l => x l ||| y l) fun l => X l ||| Y l) ∧
    ((Instr.xor g t d a b).wf → DoesBits s i g t d (exec (.xor g t d a b) s) (fun l => x l ^^^ y l) fun l => X l ^^^ Y l) ∧
    ((Instr.andn g t d a b).wf → DoesBits s i g t d (exec (.andn g t d a b) s) (fun l => x l &&& ~~~(y l)) fun l => X l &&& ~~~(Y l)) ∧
    ((Instr.shl g t d a b).wf → DoesBits s i g t d (exec (.shl g t d a b) s) (fun l => x l <<< k l) fun l => X l <<< K l) ∧
    ((Instr.shr g t d a b).wf → DoesBits s i g t d (exec (.shr g t d a b) s) (fun l => x l >>> k l) fun l => X l >>> K l) ∧
    ((Instr.sar g t d a b).wf → DoesBits s i g t d (exec (.sar g t d a b) s)
      (fun l => (i.src32 true a l).sshiftRight (k l)) fun l => (i.src64 true a l).sshiftRight (K l)) ∧
    ((Instr.rot g t r d a b).wf → DoesBits s i g t d (exec (.rot g t r d a b) s)
      (fun l => if r then (x l).rotateRight (k l) else (x l).rotateLeft (k l))
      fun l => if r then (X l).rotateRight (K l) else (X l).rotateLeft (K l)) ∧
    ((Instr.sel g t neg n d a b).wf → DoesBits s i g t d (exec (.sel g t neg n d a b) s)
      (fun l => if p l then x l else y l) fun l => if p l then X l else Y l)

/-- R172, R175: bit fields, counts, reversal, permutation and MOVH. What `bfxOf`, `bfiOf`, `permOf` and the counts are, bit for bit, says
BitFieldFunctions. -/
def bitFieldWords : Prop :=
  ∀ (s : State) (i : Issue) (g : Guard) (t : IntType) (d a b c : Operand) (k : BitVec 16), s.issuing = some i →
    let x := i.srcN a; let X := i.src64 false a
    let count (f : Word → Nat) (f' : DWord → Nat) (l : Nat) : Word := BitVec.ofNat 32 (if t.is64 then f' (X l) else f (x l))
    ((Instr.bfx g t d a b).wf → DoesWord s i g d (exec (.bfx g t d a b) s) fun l =>
      BitVec.ofInt 32 (bfxOf (t = .s32) (i.src32 t.signed a l) (i.src32 t.signed b l))) ∧
    ((Instr.bfi g d a b c).wf → DoesWord s i g d (exec (.bfi g d a b c) s) fun l => bfiOf (x l) (i.srcN b l) (i.srcN c l)) ∧
    ((Instr.perm g d a b c).wf → DoesWord s i g d (exec (.perm g d a b c) s) fun l => permOf (x l) (i.srcN b l) (i.srcN c l)) ∧
    ((Instr.popc g t d a).wf → DoesWord s i g d (exec (.popc g t d a) s) (count popCount popCount)) ∧
    ((Instr.clz g t d a).wf → DoesWord s i g d (exec (.clz g t d a) s) (count leadingZeros leadingZeros)) ∧
    ((Instr.ctz g t d a).wf → DoesWord s i g d (exec (.ctz g t d a) s) (count trailingZeros trailingZeros)) ∧
    ((Instr.brev g t d a).wf → DoesBits s i g t d (exec (.brev g t d a) s) (fun l => reverseBits (x l)) fun l => reverseBits (X l)) ∧
    ((Instr.movh g d k).wf → DoesWord s i g d (exec (.movh g d k) s) fun l => k ++ (i.srcN d l).setWidth 16)

/-- R172: the bit-field functions, bit for bit. -/
def bitFieldFunctions : Prop :=
  (∀ (w : Nat) (x : BitVec w) (k : Nat), k < w → (reverseBits x).getLsbD k = x.getLsbD (w - 1 - k)) ∧
  (∀ (w : Nat) (x : BitVec w) (k : Nat), x.getLsbD k = true →
    ((∀ j, k < j → x.getLsbD j = false) → leadingZeros x = w - 1 - k) ∧ ((∀ j, j < k → x.getLsbD j = false) → trailingZeros x = k)) ∧
  (∀ w : Nat, leadingZeros (0 : BitVec w) = w ∧ trailingZeros (0 : BitVec w) = w ∧ popCount (0 : BitVec w) = 0) ∧
  (∀ (w : Nat) (x : BitVec w) (k : Nat), k < w → x.getLsbD k = false → popCount (x ||| BitVec.twoPow w k) = popCount x + 1) ∧
  (∀ (sg : Bool) (a b : Word) (k : Nat), k < 32 →
    let p := b.toNat % 32; let e := min (p + min (b.toNat / 256 % 64) 32) 32
    (BitVec.ofInt 32 (bfxOf sg a b)).getLsbD k = if k < e - p then a.getLsbD (p + k) else sg && decide (p < e) && a.getLsbD (e - 1)) ∧
  (∀ (a b c : Word) (k : Nat), k < 32 →
    let p := c.toNat % 32; let wd := min (c.toNat / 256 % 64) 32
    (bfiOf a b c).getLsbD k = if p ≤ k ∧ k < p + wd then b.getLsbD (k - p) else a.getLsbD k) ∧
  (∀ (a b c : Word) (k : Nat), k < 4 →
    let sel := c.toNat / 16 ^ k % 16
    (permOf a b c).extractLsb' (8 * k) 8 =
      if 8 ≤ sel then 0 else (if sel / 4 % 2 = 1 then b else a).extractLsb' (8 * (sel % 4)) 8)

/-- R175, R180: ICMP and FCMP combine their predicate with the relation, in the executing lanes; FCMP ORs NV into FFLAGS. LEA writes
base + ext(index) x scale + DISP modulo 2^64. What the relations are says comparisonRelations. -/
def comparisonAndAddressWords : Prop :=
  ∀ (s : State) (i : Issue) (g : Guard) (t : IntType) (c : Cond) (cb : Comb) (n : Nat) (a b d : Operand) (ux : Bool) (m : MemArg),
    s.issuing = some i →
    ((Instr.icmp g t c cb n a b).wf → DoesPred s i g n (exec (.icmp g t c cb n a b) s) (fun _ => 0) fun l =>
      Comb.apply cb ((i.grp.pred n).getLsbD l) (condInt c (i.int t a l) (i.int t b l))) ∧
    ((Instr.fcmp g c cb n a b).wf → DoesPred s i g n (exec (.fcmp g c cb n a b) s) (fun l => condFlags c (i.srcF a l) (i.srcF b l)) fun l =>
      Comb.apply cb ((i.grp.pred n).getLsbD l) (condFloat c (fmt32.read (i.srcF a l).toNat) (fmt32.read (i.srcF b l).toNat))) ∧
    ((Instr.lea g ux d m).wf →
      Fits s i g (typeDests true d) (exec (.lea g ux d m) s)
        (Completes s i (exec (.lea g ux d m) s) (typeDests true d) [] 0 fun g' => Wrote64 i.grp g' d (i.lanes g) fun l =>
          let x := i.srcN m.index l
          i.src64 false m.base l + (if ux then x.setWidth 64 else x.signExtend 64) * BitVec.ofNat 64 (2 ^ m.scale) + m.disp.signExtend 64))

/-- An FP32 encoding is a NaN; a signalling one has its top fraction bit clear. -/
def nan32 (x : Nat) : Bool := x / 2 ^ 23 % 2 ^ 8 = 255 && x % 2 ^ 23 ≠ 0
def snan32 (x : Nat) : Bool := nan32 x && x / 2 ^ 22 % 2 = 0

/-- Where an FP32 encoding that is no NaN stands in the order of numbers; -0 stands where +0 does (R180). -/
def rank32 (x : Word) : Int := if bit x 31 then -(bits x 30 0 : Int) else bits x 30 0

/-- The relation that FCMP and VTEST mean by A < B (R180). -/
def less32 (a b : Word) : Prop := nan32 a.toNat = false ∧ nan32 b.toNat = false ∧ rank32 a < rank32 b

/-- R174, R175, R180: the relations of ICMP and FCMP, their combination with the old bit, and when FCMP sets NV. -/
def comparisonRelations : Prop :=
  (∀ old t : Bool, Comb.apply .set old t = t ∧ Comb.apply .and old t = (old && t) ∧ Comb.apply .or old t = (old || t)) ∧
  (∀ x y : Int, (condInt .eq x y = true ↔ x = y) ∧ (condInt .ne x y = true ↔ x ≠ y) ∧ (condInt .lt x y = true ↔ x < y) ∧
    (condInt .le x y = true ↔ x ≤ y) ∧ (condInt .gt x y = true ↔ y < x) ∧ (condInt .ge x y = true ↔ y ≤ x)) ∧
  ∀ a b : Word,
    let un := nan32 a.toNat || nan32 b.toNat
    let holds (c : Cond) : Prop := condFloat c (fmt32.read a.toNat) (fmt32.read b.toNat) = true
    (holds .lt ↔ less32 a b) ∧ (holds .gt ↔ less32 b a) ∧ (holds .un ↔ un = true) ∧ (holds .ord ↔ un = false) ∧
    (holds .eq ↔ un = false ∧ rank32 a = rank32 b) ∧ (holds .ne ↔ ¬holds .eq) ∧
    (holds .le ↔ un = false ∧ rank32 a ≤ rank32 b) ∧ (holds .ge ↔ un = false ∧ rank32 b ≤ rank32 a) ∧
    ∀ c : Cond,
      let signals (x : Word) : Bool := (snan32 x.toNat && !isVerdict x) ||
        (decide (c = .lt ∨ c = .le ∨ c = .gt ∨ c = .ge) && nan32 x.toNat && !snan32 x.toNat)
      condFlags c a b = if signals a || signals b then 16 else 0

/-! ## Floating point -/

/-- R177, R179: each FP32 word tests the operands of R166, writes its function of the operand values and ORs its flags into FFLAGS. The
functions at their special operands: FpSpecialOperands, FpFunctionTable. -/
def fp32WordsWriteResultAndFlags : Prop :=
  ∀ (s : State) (i : Issue) (g : Guard) (r : Rnd) (d a b c : Operand), s.issuing = some i →
    let A (l : Nat) : Nat := (i.srcF a l).toNat; let B (l : Nat) : Nat := (i.srcF b l).toNat; let C (l : Nat) : Nat := (i.srcF c l).toNat
    ((Instr.fadd g r d a b).wf → DoesFloat s i g d [a, b] (exec (.fadd g r d a b) s) fun l => fmt32.add r (A l) (B l)) ∧
    ((Instr.fmul g r d a b).wf → DoesFloat s i g d [a, b] (exec (.fmul g r d a b) s) fun l => fmt32.mul r (A l) (B l)) ∧
    ((Instr.ffma g r d a b c).wf → DoesFloat s i g d [a, b, c] (exec (.ffma g r d a b c) s) fun l => fmt32.fma r (A l) (B l) (C l)) ∧
    ((Instr.fmin g d a b).wf → DoesFloat s i g d [a, b] (exec (.fmin g d a b) s) fun l => fmt32.minMax false (A l) (B l)) ∧
    ((Instr.fmax g d a b).wf → DoesFloat s i g d [a, b] (exec (.fmax g d a b) s) fun l => fmt32.minMax true (A l) (B l)) ∧
    ((Instr.frnd g r d a).wf → DoesFloat s i g d [a] (exec (.frnd g r d a) s) fun l => fmt32.toIntegral r (A l)) ∧
    ((Instr.fscale g r d a b).wf → DoesFloat s i g d [a] (exec (.fscale g r d a b) s) fun l =>
      fmt32.scale r (A l) (i.src32 true b l).toInt) ∧
    ((Instr.frcp g r d a).wf → DoesFloat s i g d [a] (exec (.frcp g r d a) s) fun l => frcpOf r (A l)) ∧
    ((Instr.frsq g r d a).wf → DoesFloat s i g d [a] (exec (.frsq g r d a) s) fun l => frsqOf r (A l)) ∧
    ((Instr.fsqrt g r d a).wf → DoesFloat s i g d [a] (exec (.fsqrt g r d a) s) fun l => fsqrtOf r (A l)) ∧
    ((Instr.fexp2 g r d a).wf → DoesFloat s i g d [a] (exec (.fexp2 g r d a) s) fun l => fexp2Of r (A l)) ∧
    ((Instr.flog2 g r d a).wf → DoesFloat s i g d [a] (exec (.flog2 g r d a) s) fun l => flog2Of r (A l)) ∧
    ((Instr.fsin g r d a).wf → DoesFloat s i g d [a] (exec (.fsin g r d a) s) fun l => fsinOf r (A l)) ∧
    ((Instr.fcos g r d a).wf → DoesFloat s i g d [a] (exec (.fcos g r d a) s) fun l => fcosOf r (A l))

/-- R164, R177: NaN operands, infinities, exact zeros and the two number orders of the FP32 arithmetic. NV is 16. -/
def fpSpecialOperands : Prop :=
  (∀ (r : Rnd) (x y : Nat), (nan32 x || nan32 y) = true →
    fmt32.add r x y = (0x7FC00000, if snan32 x || snan32 y then 16 else 0) ∧
    fmt32.mul r x y = (0x7FC00000, if snan32 x || snan32 y then 16 else 0)) ∧
  (∀ r : Rnd, fmt32.add r 0x7F800000 0xFF800000 = (0x7FC00000, 16) ∧ fmt32.mul r 0x7F800000 0x00000000 = (0x7FC00000, 16) ∧
    ∀ z : Nat, (fmt32.fma r 0x7F800000 0x00000000 z) = (0x7FC00000, 16)) ∧
  (∀ (r : Rnd) (x : Nat), x < 2 ^ 31 → nan32 x = false → x ≠ 0x7F800000 →
    fmt32.add r x (x + 2 ^ 31) = (if r = .rdn then 0x80000000 else 0, 0)) ∧
  (∀ x y : Nat, x < 2 ^ 32 → y < 2 ^ 32 →
    (nan32 x = true → nan32 y = false →
      fmt32.minMax false x y = (y, if snan32 x then 16 else 0) ∧ fmt32.minMax true y x = (y, if snan32 x then 16 else 0)) ∧
    (nan32 x = true → nan32 y = true → ∀ big, fmt32.minMax big x y = (0x7FC00000, if snan32 x || snan32 y then 16 else 0))) ∧
  (fmt32.minMax false 0 0x80000000 = (0x80000000, 0) ∧ fmt32.minMax true 0x80000000 0 = (0, 0))

/-- R179: the FP32 functions at infinities, zeros, negative numbers and NaNs, in every rounding direction; DZ is 8, NV 16. -/
def fpFunctionTable : Prop :=
  ∀ r : Rnd,
    (∀ f ∈ [frcpOf, frsqOf, fsqrtOf, fexp2Of, flog2Of, fsinOf, fcosOf], ∀ x : Nat, nan32 x = true →
      f r x = (0x7FC00000, if snan32 x then 16 else 0)) ∧
    (∀ x : Nat, 2 ^ 31 < x → x < 0xFF800000 →
      frsqOf r x = (0x7FC00000, 16) ∧ fsqrtOf r x = (0x7FC00000, 16) ∧ flog2Of r x = (0x7FC00000, 16)) ∧
    (frcpOf r 0xFF800000 = (0x80000000, 0) ∧ frsqOf r 0xFF800000 = (0x7FC00000, 16) ∧ fsqrtOf r 0xFF800000 = (0x7FC00000, 16) ∧
      fexp2Of r 0xFF800000 = (0, 0) ∧ flog2Of r 0xFF800000 = (0x7FC00000, 16) ∧ fsinOf r 0xFF800000 = (0x7FC00000, 16) ∧
      fcosOf r 0xFF800000 = (0x7FC00000, 16)) ∧
    (frcpOf r 0x80000000 = (0xFF800000, 8) ∧ frsqOf r 0x80000000 = (0xFF800000, 8) ∧ fsqrtOf r 0x80000000 = (0x80000000, 0) ∧
      fexp2Of r 0x80000000 = (0x3F800000, 0) ∧ flog2Of r 0x80000000 = (0xFF800000, 8) ∧ fsinOf r 0x80000000 = (0x80000000, 0) ∧
      fcosOf r 0x80000000 = (0x3F800000, 0)) ∧
    (frcpOf r 0 = (0x7F800000, 8) ∧ frsqOf r 0 = (0x7F800000, 8) ∧ fsqrtOf r 0 = (0, 0) ∧ fexp2Of r 0 = (0x3F800000, 0) ∧
      flog2Of r 0 = (0xFF800000, 8) ∧ fsinOf r 0 = (0, 0) ∧ fcosOf r 0 = (0x3F800000, 0)) ∧
    (frcpOf r 0x7F800000 = (0, 0) ∧ frsqOf r 0x7F800000 = (0, 0) ∧ fsqrtOf r 0x7F800000 = (0x7F800000, 0) ∧
      fexp2Of r 0x7F800000 = (0x7F800000, 0) ∧ flog2Of r 0x7F800000 = (0x7F800000, 0) ∧ fsinOf r 0x7F800000 = (0x7FC00000, 16) ∧
      fcosOf r 0x7F800000 = (0x7FC00000, 16))

/-! ### Exact values and their rounding -/

/-- The exponent of the smallest subnormal number of a format, negated: 149 for binary32. -/
def unitOf (F : Fmt) : Nat := F.bias + F.f - 1

/-- The sign of an encoding. -/
def signOf (F : Fmt) (x : Nat) : Bool := x / 2 ^ (F.e + F.f) % 2 = 1

/-- An encoding stands for a finite number (R263). -/
def finiteIn (F : Fmt) (x : Nat) : Prop := x % 2 ^ (F.e + F.f) ≤ F.maxE * 2 ^ F.f + F.maxF

/-- The number for which a finite encoding stands, in units of the smallest subnormal number (R263, R264). -/
def valueIn (F : Fmt) (x : Nat) : Int :=
  let E := x / 2 ^ F.f % 2 ^ F.e
  let m : Int := if E = 0 then x % 2 ^ F.f else (2 ^ F.f + x % 2 ^ F.f) * 2 ^ (E - 1)
  if signOf F x then -m else m

/-- The largest finite value, and the distance from it to what would come next. -/
def maxIn (F : Fmt) : Int := valueIn F (F.maxE * 2 ^ F.f + F.maxF)
def lastStep (F : Fmt) : Int := 2 ^ (F.maxE - 1)

/-- The finite encoding `z` is the number to which `v` rounds in a direction; `v` counts units 2^k times smaller than the format's (R164,
IEEE 754-2019). -/
def RoundsTo (F : Fmt) (r : Rnd) (v : Int) (k : Nat) (z : Nat) : Prop :=
  let u (x : Nat) : Int := valueIn F x * 2 ^ k
  finiteIn F z ∧ (v < 0 → signOf F z = true) ∧ (0 < v → signOf F z = false) ∧
  match r with
  | .rne => ∀ x, finiteIn F x → (u z - v).natAbs ≤ (u x - v).natAbs ∧ ((u x - v).natAbs = (u z - v).natAbs → u x ≠ u z → z % 2 = 0)
  | .rz => (u z).natAbs ≤ v.natAbs ∧ ∀ x, finiteIn F x → (u x).natAbs ≤ v.natAbs → (u x).natAbs ≤ (u z).natAbs
  | .rdn => u z ≤ v ∧ ∀ x, finiteIn F x → u x ≤ v → u x ≤ u z
  | .rup => v ≤ u z ∧ ∀ x, finiteIn F x → v ≤ u x → u z ≤ u x

/-- A result and its flags are those of the exact value `v`: within the format's range the rounded number, NX (1) exactly when it differs
from `v`, and no flag but NX and UF; beyond every rounding of the range an infinity, or the largest number where the direction points
towards zero, with `sat`, or in a format without infinities, with OF and NX (R164, R184). -/
def RoundedResult (F : Fmt) (r : Rnd) (sat : Bool) (v : Int) (k : Nat) (p : Nat × Nat) : Prop :=
  ((v.natAbs : Int) ≤ maxIn F * 2 ^ k → RoundsTo F r v k p.1 ∧ p.2 ≤ 3 ∧ (p.2 % 2 = 1 ↔ valueIn F p.1 * 2 ^ k ≠ v)) ∧
  ((maxIn F + lastStep F) * 2 ^ k ≤ (v.natAbs : Int) →
    let neg := decide (v < 0)
    p = (if sat || !F.inf || r = .rz || (r = .rdn && !neg) || (r = .rup && neg) then F.maxCode neg else F.infCode neg, 5))

/-- R164, R177: addition, multiplication and fused multiply-add of finite numbers round their exact value once, in every direction; a
product has the sign of its operands even when it is zero. -/
def arithmeticRoundsOnce : Prop :=
  ∀ F ∈ [fmt32, fmt16, fmtBf16], ∀ (r : Rnd) (x y z : Nat), finiteIn F x → finiteIn F y → finiteIn F z →
    let a := valueIn F x; let b := valueIn F y; let c := valueIn F z; let U := unitOf F
    RoundedResult F r false (a + b) 0 (F.add r x y) ∧
    RoundedResult F r false (a * b) U (F.mul r x y) ∧ signOf F (F.mul r x y).1 = (signOf F x ^^ signOf F y) ∧
    RoundedResult F r false (a * b + c * 2 ^ U) U (F.fma r x y z)

/-! ### Conversions -/

/-- The bits of a source in its format; BS20 lies in bits [31:12] (R183, R265). -/
def cvtField (F : Fmt) (x : DWord) : Nat := if F = fmtBs20 then x.toNat % 2 ^ 32 / 2 ^ 12 else x.toNat

/-- The exact value of a CVT source in units of 2^-149; none for an infinity, a NaN, or the reserved ternary code (R183, R184). -/
def cvtValue (st : NumType) (e8 : Bool) (x : DWord) : Option Int :=
  if e8 then (if x.toNat % 256 = 255 then none else some (2 ^ (x.toNat % 256 + 22)))
  else
    let whole (n : Int) : Option Int := some (n * 2 ^ 149)
    match st with
    | .s32 => whole (x.setWidth 32).toInt
    | .n32 => whole (x.toNat % 2 ^ 32 : Nat)
    | .s64 => whole x.toInt
    | .n64 => whole x.toNat
    | .i8 => whole (x.setWidth 8).toInt
    | .n8 => whole (x.toNat % 256 : Nat)
    | .t2 => if x.toNat % 4 = 2 then none else whole (x.setWidth 2).toInt
    | t =>
      match NumType.fmt t with
      | some F => if cvtField F x % 2 ^ (F.e + F.f) ≤ F.maxE * 2 ^ F.f + F.maxF then some (valueIn F (cvtField F x) * 2 ^ (149 - unitOf F)) else none
      | none => none

/-- `n` is the integer to which `v` units of 2^-149 round in a direction. -/
def RoundsToInt (r : Rnd) (v n : Int) : Prop :=
  let D : Int := 2 ^ 149
  match r with
  | .rne => 2 * (n * D - v).natAbs ≤ D.natAbs ∧ (2 * (n * D - v).natAbs = D.natAbs → n % 2 = 0)
  | .rz => 0 ≤ n * v ∧ n.natAbs * D.natAbs ≤ v.natAbs ∧ v.natAbs < (n.natAbs + 1) * D.natAbs
  | .rdn => n * D ≤ v ∧ v < (n + 1) * D
  | .rup => (n - 1) * D < v ∧ v ≤ n * D

/-- The integer destinations of R184: width in bits, MIN and MAX. -/
def intDests : List (NumType × Nat × Int × Int) :=
  [(.s32, 32, -(2 ^ 31), 2 ^ 31 - 1), (.n32, 32, 0, 2 ^ 32 - 1), (.s64, 64, -(2 ^ 63), 2 ^ 63 - 1), (.n64, 64, 0, 2 ^ 64 - 1),
   (.i8, 8, -128, 127), (.n8, 8, 0, 255)]

/-- The canonical NaN of each float destination that has one (R184). -/
def nanDests : List (NumType × Nat) :=
  [(.f32, 0x7FC00000), (.f16, 0x7E00), (.bf16, 0x7FC0), (.e5m2, 0x7E), (.bs20, 0x7FC00000), (.e4m3, 0x7F)]

/-- R184: the outcome of a conversion for a finite source, an infinite source, a NaN, and the reserved ternary code. -/
def conversionOutcomes : Prop :=
  ∀ (dt st : NumType) (e8 sat : Bool) (r : Rnd) (x : DWord),
    let p := cvtOf dt st e8 sat r x
    (∀ v, cvtValue st e8 x = some v →
      (∀ F, NumType.fmt dt = some F →
        RoundedResult F r sat v (149 - unitOf F) (if dt = .bs20 then p.1 / 2 ^ 12 else p.1, p.2) ∧ (dt = .bs20 → p.1 % 2 ^ 12 = 0)) ∧
      (∀ w lo hi, (dt, w, lo, hi) ∈ intDests → ∀ n, RoundsToInt r v n →
        p = ((BitVec.ofInt w (max lo (min hi n))).toNat, if n < lo ∨ hi < n then 16 else if n * 2 ^ 149 ≠ v then 1 else 0)) ∧
      (dt = .t2 → p = (if v = 0 then 0 else if v < 0 then 3 else 1, 0))) ∧
    (∀ F, e8 = false → NumType.fmt st = some F → F.inf = true →
      let y := cvtField F x; let frac := y % 2 ^ F.f
      y / 2 ^ F.f % 2 ^ F.e = 2 ^ F.e - 1 →
        (frac = 0 →
          let neg := signOf F y
          (∀ G, NumType.fmt dt = some G → p = ((if G.inf then G.infCode neg else G.maxCode neg) * (if dt = .bs20 then 2 ^ 12 else 1),
            if G.inf then 0 else 5)) ∧
          (∀ w lo hi, (dt, w, lo, hi) ∈ intDests → p = ((BitVec.ofInt w (if neg then lo else hi)).toNat, 16)) ∧
          (dt = .t2 → p = (if neg then 3 else 1, 0))) ∧
        (frac ≠ 0 →
          (∀ n, (dt, n) ∈ nanDests → p = (n, if frac < 2 ^ (F.f - 1) then 16 else 0)) ∧
          ((∃ w lo hi, (dt, w, lo, hi) ∈ intDests) ∨ dt = .e2m1 ∨ dt = .t2 → p = (0, 16)))) ∧
    ((e8 = true ∧ x.toNat % 256 = 255) ∨ (e8 = false ∧ st = .e4m3 ∧ x.toNat % 128 = 127) →
      (∀ n, (dt, n) ∈ nanDests → p = (n, 0)) ∧
      ((∃ w lo hi, (dt, w, lo, hi) ∈ intDests) ∨ dt = .e2m1 ∨ dt = .t2 → p = (0, 16))) ∧
    (e8 = false → st = .t2 → x.toNat % 4 = 2 → p = ((cvtOf dt st e8 sat r 0).1, 16))

/-- R166, R187, R268: what a verdict word is, and the three tests of VTEST. -/
def verdictTests : Prop :=
  ∀ a b : Word,
    (isVerdict a = true ↔ a.toNat / 2 ^ 21 = 0x7FD ∧ a.toNat / 4 % 4 = 0 ∧ (a.toNat % 4 = 1 ∨ a.toNat % 4 = 2)) ∧
    (vtestOf .dec a b = true ↔ isVerdict a = true) ∧
    (vtestOf .above a b = true ↔ if isVerdict a then a.toNat % 4 = 1 else less32 b a) ∧
    (vtestOf .below a b = true ↔ if isVerdict a then a.toNat % 4 = 2 else less32 a b)

/-- R183 to R187: CVT, PACK and UNPACK convert by the same rule, test FP32 and BS20 sources for verdict words and OR their flags into
FFLAGS; VTEST combines its predicate with the test and, with `.step`, writes STEP. -/
def conversionAndVerdictWords : Prop :=
  ∀ (s : State) (i : Issue) (g : Guard) (dt st e : NumType) (x8 sat step : Bool) (r : Rnd) (k n : Nat) (vc : VCond) (cb : Comb)
    (d a b c : Operand), s.issuing = some i →
    let E := NumType.elem e; let src := NumType.packSrc e; let w := e.packWidth
    ((Instr.cvt g dt st x8 sat r d a).wf →
      let f (l : Nat) : Nat × Nat := cvtOf dt st x8 sat r (i.cvtSrc st x8 a l)
      let tested := if !x8 && (st = .f32 || st = .bs20) then [a] else []
      (∀ t, i.verdictTrap (i.lanes g) (i.anyVerdict tested) = some t → Traps s i (exec (.cvt g dt st x8 sat r d a) s) t) ∧
      (i.verdictTrap (i.lanes g) (i.anyVerdict tested) = none →
        Fits s i g (typeDests dt.is64 d) (exec (.cvt g dt st x8 sat r d a) s)
          (Completes s i (exec (.cvt g dt st x8 sat r d a) s) (typeDests dt.is64 d) [] (BitVec.ofNat 32 (orFlags (i.lanes g) fun l => (f l).2))
            fun g' => if dt.is64 then Wrote64 i.grp g' d (i.lanes g) fun l => BitVec.ofNat 64 (f l).1
              else Wrote i.grp g' d (i.lanes g) fun l => BitVec.ofNat 32 (f l).1))) ∧
    ((Instr.pack g e k sat r d a b c).wf →
      DoesFloat s i g d (if src = .f32 then [a, b] else []) (exec (.pack g e k sat r d a b c) s) fun l =>
        let x := cvtOf E src false sat r (i.cvtSrc src false a l)
        let y := cvtOf E src false sat r (i.cvtSrc src false b l)
        (setElem (setElem (i.srcN c l).toNat w (2 * k) x.1) w (2 * k + 1) y.1, x.2 ||| y.2)) ∧
    ((Instr.unpack g e k d a).wf →
      DoesFloat s i g d [] (exec (.unpack g e k d a) s) fun l =>
        let x := cvtOf (if e = .i8 ∨ e = .t2 then .s32 else if e = .n8 then .n32 else .f32) E false false .rne
          (BitVec.ofNat 64 ((i.srcN a l).toNat / 2 ^ (w * k) % 2 ^ w))
        (x.1, if e = .e5m2 then 0 else x.2)) ∧
    ((Instr.vtest g vc cb step n d a b).wf →
      let v (l : Nat) : Bool := isVerdict (i.srcF a l)
      (∀ t, i.verdictTrap (i.lanes g) (i.anyVerdict (if vc = .dec then [] else [b])) = some t →
        Traps s i (exec (.vtest g vc cb step n d a b) s) t) ∧
      (i.verdictTrap (i.lanes g) (i.anyVerdict (if vc = .dec then [] else [b])) = none →
        Fits s i g (if step then [d] else []) (exec (.vtest g vc cb step n d a b) s)
          (Completes s i (exec (.vtest g vc cb step n d a b) s) (if step then [d] else []) [n] 0 fun g' =>
            (WrotePred i.grp g' n (i.lanes g) fun l => Comb.apply cb ((i.grp.pred n).getLsbD l) (vtestOf vc (i.srcF a l) (i.srcF b l))) ∧
            (step = true → Wrote i.grp g' d (i.lanes g) fun l =>
              if v l then BitVec.ofNat 32 (bits (i.srcF a l) 20 4) else 0xFFFFFFFF))))

/-- R166: a verdict-operand trap carries cause 0x07, the executing lanes, and in TINFO the lowest executing lane that holds a verdict
word; without such a lane there is no trap. -/
def verdictTrapNamesLowestLane : Prop :=
  ∀ (i : Issue) (X : Word) (bad : Nat → Bool),
    (i.verdictTrap X bad = none ↔ ∀ l, X.getLsbD l = true → bad l = false) ∧
    ∀ t, i.verdictTrap X bad = some t → ∃ l, X.getLsbD l = true ∧ bad l = true ∧ (∀ k, k < l → X.getLsbD k = true → bad k = false) ∧
      t = { code := 0x07, info := BitVec.ofNat 32 l, exmask := X, tepc := i.pc }

/-! ## Pair words, predicates and lanes -/

/-- R136, R162, R166, R189: both halves read before either writes; each writes its destination in its own lanes; the flags of both are
ORed into FFLAGS; a verdict word met by either FP32 half traps the whole word. -/
def pairWordRunsBothHalves : Prop :=
  ∀ (s : State) (i : Issue) (h0 h1 : Half), s.issuing = some i → (Instr.pairWord h0 h1).wf →
    let X0 := i.halfLanes h0; let X1 := i.halfLanes h1
    let r (h : Half) (l : Nat) : Nat × Nat := halfResult h (i.srcN (HalfReg.operand h.dst) l) (i.srcN (HalfReg.operand h.src) l)
    let bad (l : Nat) : Bool := (X0.getLsbD l && i.halfBad h0 l) || (X1.getLsbD l && i.halfBad h1 l)
    let ds := pairDests h0 h1 X0 X1
    let o := exec (.pairWord h0 h1) s
    (∀ t, i.verdictTrap (X0 ||| X1) bad = some t → Traps s i o t) ∧
    (i.verdictTrap (X0 ||| X1) bad = none → ∀ t, i.budget (X0 ||| X1) ds = some t → Traps s i o t) ∧
    (i.verdictTrap (X0 ||| X1) bad = none → i.budget (X0 ||| X1) ds = none →
      Completes s i o [HalfReg.operand h0.dst, HalfReg.operand h1.dst] []
        (BitVec.ofNat 32 (orFlags X0 fun l => (r h0 l).2) ||| BitVec.ofNat 32 (orFlags X1 fun l => (r h1 l).2)) fun g' =>
        Wrote i.grp g' (HalfReg.operand h0.dst) X0 (fun l => BitVec.ofNat 32 (r h0 l).1) ∧
        Wrote i.grp g' (HalfReg.operand h1.dst) X1 fun l => BitVec.ofNat 32 (r h1 l).1)

/-- R189: each half-op computes as its full instruction: `d` is the destination's old value, `x` the source, k the 8-bit immediate. -/
def halfOpsComputeAsFullWords : Prop :=
  ∀ (h : Half) (d x : Word),
    let v : Word := BitVec.ofNat 32 (halfResult h d x).1
    let k := h.imm; let n := x.toNat % 32
    match h.hop with
    | .iadd => v = BitVec.ofInt 32 (d.toInt + x.toInt)
    | .isub => v = BitVec.ofInt 32 (d.toInt - x.toInt)
    | .imin => v.toInt = min d.toInt x.toInt
    | .imax => v.toInt = max d.toInt x.toInt
    | .and => v = d &&& x
    | .or => v = d ||| x
    | .xor => v = d ^^^ x
    | .andn => v = d &&& ~~~x
    | .shl => v = d <<< n
    | .shr => v = d >>> n
    | .sar => v = d.sshiftRight n
    | .mov => v = x
    | .movi8 => v.toInt = k.toInt
    | .iaddi => v = BitVec.ofInt 32 (x.toInt + k.toInt)
    | .andi => v = x &&& k.setWidth 32
    | .shli => v = x <<< k.toNat
    | .shri => v = x >>> k.toNat
    | .sari => v = x.sshiftRight k.toNat
    | .fadd => halfResult h d x = fmt32.add (Rnd.ofCode (k.toNat % 4)) d.toNat x.toNat
    | .fmul => halfResult h d x = fmt32.mul (Rnd.ofCode (k.toNat % 4)) d.toNat x.toNat
    | .fmin => halfResult h d x = fmt32.minMax false d.toNat x.toNat
    | .fmax => halfResult h d x = fmt32.minMax true d.toNat x.toNat
    | .hadd2 => halfResult h d x = packHalves fun j =>
        (halfFmt (k.getLsbD 0)).add (Rnd.ofCode (k.toNat / 2 % 4)) (halfOf d j) (halfOf x j)
    | .hmul2 => halfResult h d x = packHalves fun j =>
        (halfFmt (k.getLsbD 0)).mul (Rnd.ofCode (k.toNat / 2 % 4)) (halfOf d j) (halfOf x j)

/-- R191, R192: PLOP looks its truth table up per lane; PMOV moves between a predicate and a register, as a mask or per lane. -/
def predicateWords : Prop :=
  ∀ (s : State) (i : Issue) (g : Guard) (pd pa pb n : Nat) (lut : BitVec 4) (x : Operand), s.issuing = some i →
    let p (n l : Nat) : Bool := (i.grp.pred n).getLsbD l
    ((Instr.plop g pd pa pb lut).wf → DoesPred s i g pd (exec (.plop g pd pa pb lut) s) (fun _ => 0) fun l =>
      lut.getLsbD (2 * (p pa l).toNat + (p pb l).toNat)) ∧
    ((Instr.pmov g .tomask n x).wf → DoesWord s i g x (exec (.pmov g .tomask n x) s) fun _ => i.grp.pred n) ∧
    ((Instr.pmov g .tobool n x).wf → DoesWord s i g x (exec (.pmov g .tobool n x) s) fun l => if p n l then 1 else 0) ∧
    ((Instr.pmov g .frommask n x).wf → DoesPred s i g n (exec (.pmov g .frommask n x) s) (fun _ => 0) fun l => (i.srcN x l).getLsbD l) ∧
    ((Instr.pmov g .frombool n x).wf → DoesPred s i g n (exec (.pmov g .frombool n x) s) (fun _ => 0) fun l => i.srcN x l ≠ 0)

/-- R194: VOTE over the executing lanes X; LREAD of any lane; MATCH of bit patterns. -/
def voteMatchAndLaneReadWords : Prop :=
  ∀ (s : State) (i : Issue) (g : Guard) (m : VoteMode) (neg w64 : Bool) (n : Nat) (d a b : Operand), s.issuing = some i →
    let X := i.lanes g
    let q (l : Nat) : Bool := ((i.grp.pred n).getLsbD l) ^^ neg
    let A (l : Nat) : DWord := if w64 then i.src64 false a l else (i.srcN a l).setWidth 64
    let e := (lanesOf X).all fun j => (lanesOf X).all fun k => A j == A k
    ((Instr.vote g m neg n d).wf → DoesWord s i g d (exec (.vote g m neg n d) s) fun _ =>
      match m with
      | .ballot => X &&& maskOf q
      | .any => if (lanesOf X).any q then 1 else 0
      | .all => if (lanesOf X).all q then 1 else 0
      | .uni => if (lanesOf X).all q || (lanesOf X).all (fun j => !q j) then 1 else 0) ∧
    ((Instr.matchLanes g false w64 n d a).wf → DoesWord s i g d (exec (.matchLanes g false w64 n d a) s) fun l =>
      X &&& maskOf fun j => A j == A l) ∧
    ((Instr.matchLanes g true w64 n d a).wf → Fits s i g [d] (exec (.matchLanes g true w64 n d a) s)
      (Completes s i (exec (.matchLanes g true w64 n d a) s) [d] (if n = 0 then [] else [n]) 0 fun g' =>
        Wrote i.grp g' d X (fun _ => if e then X else 0) ∧ (n ≠ 0 → WrotePred i.grp g' n X fun _ => e))) ∧
    ((Instr.lread g false d a b).wf → DoesWord s i g d (exec (.lread g false d a b) s) fun l => i.srcN a ((i.srcN b l).toNat % 32)) ∧
    ((Instr.lread g true d a b).wf → DoesBits s i g .n64 d (exec (.lread g true d a b) s) (fun _ => 0) fun l =>
      i.src64 false a ((i.srcN b l).toNat % 32))

/-- R194: SHFL takes the value of the lane that its mode names within the segment, when that lane lies in the segment and executes; else
the lane's own. -/
def shuffleWord : Prop :=
  ∀ (s : State) (i : Issue) (g : Guard) (m : ShflMode) (w64 : Bool) (v seg : Nat) (d a b : Operand), s.issuing = some i →
    (Instr.shfl g m w64 v seg d a b).wf →
    let X := i.lanes g; let W := 32 / 2 ^ seg; let base (l : Nat) : Nat := l - l % W; let B (l : Nat) : Nat := (i.srcN b l).toNat
    let j (l : Nat) : Int := match m with
      | .idx => (base l + B l % W : Nat)
      | .up => (l : Int) - B l
      | .down => (l : Int) + B l
      | .xor => (base l + ((l - base l) ^^^ (B l % W)) : Nat)
    let valid (l : Nat) : Bool := (match m with
      | .up => B l < W && base l ≤ j l
      | .down => B l < W && j l < (base l + W : Nat)
      | _ => true) && X.getLsbD (j l).toNat
    let from_ (l : Nat) : Nat := if valid l then (j l).toNat else l
    Fits s i g (typeDests w64 d) (exec (.shfl g m w64 v seg d a b) s)
      (Completes s i (exec (.shfl g m w64 v seg d a b) s) (typeDests w64 d) (if v = 0 then [] else [v]) 0 fun g' =>
        (if w64 then Wrote64 i.grp g' d X fun l => i.src64 false a (from_ l) else Wrote i.grp g' d X fun l => i.srcN a (from_ l)) ∧
        (v ≠ 0 → WrotePred i.grp g' v X valid))

/-- R194: SCAN leaves in each executing lane the operation over the lanes of X up to it (or below it, with `.excl`) in ascending order,
from the identity; REDUX leaves it over all of X. Integer operations leave FFLAGS. -/
def scanAndReductionWords : Prop :=
  ∀ (s : State) (i : Issue) (g : Guard) (op : ScanOp) (t : ScanType) (excl : Bool) (r : Rnd) (d a : Operand), s.issuing = some i →
    let X := i.lanes g; let A (l : Nat) : Word := if t = .f32 then i.srcF a l else i.srcN a l
    let fold (ls : List Nat) : Word := ls.foldl (fun acc j => (scanStep op t r acc (A j)).1) (scanId op t)
    let fl := (scanOver op t r A (lanesOf X) (scanId op t)).2.2
    let bad (l : Nat) : Bool := t = .f32 && isVerdict (A l)
    ((Instr.scan g op t excl r d a).wf →
      (∀ tr, i.verdictTrap X bad = some tr → Traps s i (exec (.scan g op t excl r d a) s) tr) ∧
      (i.verdictTrap X bad = none → Fits s i g [d] (exec (.scan g op t excl r d a) s)
        (Completes s i (exec (.scan g op t excl r d a) s) [d] [] (BitVec.ofNat 32 fl) fun g' => Wrote i.grp g' d X fun l =>
          fold ((lanesOf X).filter fun j => if excl then j < l else j ≤ l)))) ∧
    ((Instr.redux g op t r d a).wf →
      (∀ tr, i.verdictTrap X bad = some tr → Traps s i (exec (.redux g op t r d a) s) tr) ∧
      (i.verdictTrap X bad = none → Fits s i g [d] (exec (.redux g op t r d a) s)
        (Completes s i (exec (.redux g op t r d a) s) [d] [] (BitVec.ofNat 32 fl) fun g' => Wrote i.grp g' d X fun _ => fold (lanesOf X)))) ∧
    (t ≠ .f32 → fl = 0)

/-- R194: the operation of SCAN and REDUX and its identity, on 32-bit integers and on FP32: −0.0 for add, the infinities for min and max, whose
operations are those of FADD, FMIN and FMAX. A number combined with the identity is that number, without a flag. -/
def scanOperationsHaveIdentities : Prop :=
  ∀ (r : Rnd) (x y : Word),
    (∀ t, t ≠ .f32 → (scanStep .add t r x y).1 = x + y ∧ scanId .add t = 0 ∧ (scanStep .and t r x y).1 = x &&& y ∧
      (scanStep .or t r x y).1 = x ||| y ∧ (scanStep .xor t r x y).1 = x ^^^ y ∧
      ∀ op, (scanStep op t r (scanId op t) x).1 = x) ∧
    (scanStep .min .s32 r x y).1.toInt = min x.toInt y.toInt ∧ (scanStep .max .s32 r x y).1.toInt = max x.toInt y.toInt ∧
    (scanStep .min .n32 r x y).1.toNat = min x.toNat y.toNat ∧ (scanStep .max .n32 r x y).1.toNat = max x.toNat y.toNat ∧
    (scanId .add .f32 = 0x80000000 ∧ scanId .min .f32 = 0x7F800000 ∧ scanId .max .f32 = 0xFF800000) ∧
    (let fl (p : Nat × Nat) : Word × Nat := (BitVec.ofNat 32 p.1, p.2)
     scanStep .add .f32 r x y = fl (fmt32.add r x.toNat y.toNat) ∧ scanStep .min .f32 r x y = fl (fmt32.minMax false x.toNat y.toNat) ∧
     scanStep .max .f32 r x y = fl (fmt32.minMax true x.toNat y.toNat)) ∧
    (nan32 y.toNat = false → ∀ op, op = .add ∨ op = .min ∨ op = .max →
      (op = .add → r = .rdn → y ≠ 0) → scanStep op .f32 r (scanId op .f32) y = (y, 0))

/-! ## Control flow -/

/-- A computed target that R120 refuses: not 64-byte aligned, or beyond bit 48. -/
def badTarget (a : DWord) : Prop := a.toNat % 64 ≠ 0 ∨ 2 ^ 49 ≤ a.toNat

/-- The fetch block that holds the word. -/
def blockOfWord (i : Issue) : DWord := i.part.pc &&& ~~~0x3F

/-- R153, R156, R200: a transfer of the lanes `X` of the issuing part to `T`, with `link` the registers that take the link. A bad
target traps with its address before any lane moves or any link is written; lanes that agree move together; otherwise the part splits into one part per
next PC, ascending, of depth one more: first in the slot, second in the other slot when that is empty, the others on the stack. -/
def TransfersLanes (s : State) (i : Issue) (X : Word) (link : Option Operand) (T : Nat → DWord) (o : Host.Outcome State Fault Refusal) :
    Prop :=
  let next (l : Nat) : DWord := if X.getLsbD l then T l else i.part.pc + 8
  let ds := match link with
    | some d => [d, Operand.next d 1]
    | none => []
  let lanesAt (pc : DWord) : Word := maskOf fun l => i.part.mask.getLsbD l && next l == pc
  let mk (pc : DWord) : Part := { pc, mask := lanesAt pc, depth := i.part.depth + 1 }
  (∀ l, X.getLsbD l = true → badTarget (T l) → (∀ k, k < l → X.getLsbD k = true → ¬ badTarget (T k)) →
    Traps s i o { code := 0x05, addr := T l, exmask := X, tepc := i.part.pc }) ∧
  ((∀ l, X.getLsbD l = true → ¬ badTarget (T l)) →
    (∀ t, i.budget X ds = some t → Traps s i o t) ∧
    (i.budget X ds = none → ∃ g1, RegsKept i.grp g1 ds ∧ (∀ d, link = some d → Wrote64 i.grp g1 d X fun _ => blockOfWord i + 64) ∧
      { g1 with vregs := i.grp.vregs, sregs := i.grp.sregs } = i.grp ∧
      (∀ pc, i.part.mask ≠ 0 → (∀ l, i.part.mask.getLsbD l = true → next l = pc) →
        o = .next (s.setGroup i.key (g1.setSlot i.b (some (i.part.goTo pc))))) ∧
      (∀ first second rest, (first :: second :: rest).Pairwise (fun a b => a.toNat < b.toNat) →
        (∀ pc, pc ∈ first :: second :: rest ↔ ∃ l, i.part.mask.getLsbD l = true ∧ next l = pc) →
        let alone := (i.grp.slot (!i.b)).isNone
        let pushed := (if alone then rest else second :: rest).map mk
        (32 < i.grp.stack.length + pushed.length → Traps s i o { code := 0x0B, exmask := X, tepc := i.part.pc }) ∧
        (i.grp.stack.length + pushed.length ≤ 32 →
          o = .next (s.setGroup i.key
            { (g1.setSlot i.b (some (mk first))).setSlot (!i.b) (if alone then some (mk second) else i.grp.slot (!i.b)) with
              stack := pushed ++ i.grp.stack })))))

/-- R131, R200: the targets and links of the five transfers. -/
def transfersMoveOrSplitTheirPart : Prop :=
  ∀ (s : State) (i : Issue) (g : Guard) (ofs : BitVec 24) (d a : Operand), s.issuing = some i →
    let near (_ : Nat) : DWord := blockOfWord i + ofs.signExtend 64 * 64
    let far (l : Nat) : DWord := i.src64 false a l
    ((Instr.bra g ofs).wf → TransfersLanes s i (i.lanes g) none near (exec (.bra g ofs) s)) ∧
    ((Instr.brx g a).wf → TransfersLanes s i (i.lanes g) none far (exec (.brx g a) s)) ∧
    ((Instr.call g d ofs).wf → TransfersLanes s i (i.lanes g) (some d) near (exec (.call g d ofs) s)) ∧
    ((Instr.callx g d a).wf → TransfersLanes s i (i.lanes g) (some d) far (exec (.callx g d a) s)) ∧
    ((Instr.ret g a).wf → TransfersLanes s i (i.lanes g) none far (exec (.ret g a) s))

/-- R154, R155: JOIN. At depth 0 the slot goes on. Below, the part parks at the JOIN; alone it is released at once; with one other part,
in the other slot, it merges with it when that part is parked here too, waits when that part has its depth or more, and is released when
that part is shallower; when that part is parked elsewhere at the same depth, the reconvergence trap names the JOIN. -/
def joinParksMergesAndReleases : Prop :=
  ∀ (s : State) (i : Issue), s.issuing = some i →
    let x := i.part; let j := x.pc; let o := exec .join s
    let out (m : Word) : Part := { pc := j + 8, mask := m, depth := x.depth - 1 }
    let at_ : Part := { pc := j, mask := x.mask, depth := x.depth, park := some j }
    let both (p q : Option Part) : Prop := o = .next (s.setGroup i.key ((i.grp.setSlot i.b p).setSlot (!i.b) q))
    (x.depth = 0 → Ends i o s i.grp) ∧
    (0 < x.depth → i.grp.mode = .normal → i.grp.stack = [] →
      (i.grp.slot (!i.b) = none → both (some (out x.mask)) none) ∧
      ∀ y, i.grp.slot (!i.b) = some y →
        (y.park = some j → y.depth = x.depth → both (some (out (x.mask ||| y.mask))) none) ∧
        (y.park = none → x.depth ≤ y.depth → both (some at_) (some y)) ∧
        (y.park = none → y.depth < x.depth → both (some (out x.mask)) (some y)) ∧
        (∀ k, y.park = some k → k ≠ j → y.depth = x.depth → Traps s i o { code := 0x0C, addr := j, exmask := x.mask, tepc := j }))

/-- R154, R155: what settle() leaves of a group `g` whose parts were `ps`: every lane of `ps` in a part and no other, no parked part without
another as deep, a slot with a part that is not parked, no empty slot while the stack holds a part of the running mode, and everything but the
parts as it was. -/
def Settled (g g' : Group) (ps : List Part) : Prop :=
  (∀ l, (∃ p ∈ g'.parts, p.mask.getLsbD l = true) ↔ ∃ p ∈ ps, p.mask.getLsbD l = true) ∧
  (∃ b p, g'.slot b = some p ∧ p.park = none) ∧
  (∀ (n : Nat) (p : Part), g'.parts[n]? = some p → p.park ≠ none → ∃ (m : Nat) (q : Part), m ≠ n ∧ g'.parts[m]? = some q ∧ p.depth ≤ q.depth) ∧
  (g'.own ≠ [] → g'.slotA ≠ none ∧ g'.slotB ≠ none) ∧
  { g' with slotA := g.slotA, slotB := g.slotB, stack := g.stack } = g

/-- R154, R155: whatever parts a group has, a JOIN that does not trap settles them. -/
def joinSettlesEveryPart : Prop :=
  ∀ (s : State) (i : Issue), s.issuing = some i → 0 < i.part.depth →
    (∃ g', exec .join s = .next (s.setGroup i.key g') ∧ Settled i.grp g' i.grp.parts) ∨
    Traps s i (exec .join s) { code := 0x0C, addr := i.part.pc, exmask := i.part.mask, tepc := i.part.pc }

/-- R154, R201: EXIT. No lane, nothing; in a handler, the illegal-operand trap; lanes that stay go on; with the part gone the part in the
other slot runs on; whatever other parts there are settle, or trap when every one of them is parked; with the last part gone the group has
exited: no part, no armed slot, no token, its fate recorded. -/
def exitRemovesItsLanes : Prop :=
  ∀ (s : State) (i : Issue) (g : Guard), s.issuing = some i → (Instr.exit g).wf →
    let X := i.lanes g; let o := exec (.exit g) s; let left := i.part.mask &&& ~~~X
    (X = 0 → Ends i o s i.grp) ∧
    (X ≠ 0 → i.grp.mode ≠ .normal → Traps s i o { code := 0x03, exmask := X, tepc := i.part.pc }) ∧
    (X ≠ 0 → i.grp.mode = .normal →
      (left ≠ 0 → o = .next (s.setGroup i.key (i.grp.setSlot i.b (some { i.part.goTo (i.part.pc + 8) with mask := left })))) ∧
      (left = 0 → i.grp.stack = [] → ∀ y, i.grp.slot (!i.b) = some y → y.park = none →
        o = .next (s.setGroup i.key (i.grp.setSlot i.b none))) ∧
      (left = 0 → (i.grp.setSlot i.b none).parts ≠ [] →
        let others := (i.grp.setSlot i.b none).parts
        (∃ g', o = .next (s.setGroup i.key g') ∧ Settled i.grp g' others) ∨
        ((∀ p ∈ others, p.park ≠ none) ∧ Traps s i o { code := 0x0C, addr := i.part.pc, exmask := X, tepc := i.part.pc })) ∧
      (left = 0 → i.grp.stack = [] → i.grp.slot (!i.b) = none → ∃ t g', o = .next t ∧ t.group? i.key = some g' ∧
        g'.slotA = none ∧ g'.slotB = none ∧ g'.stack = [] ∧ g'.events = List.replicate 16 {} ∧ g'.mailbox = [] ∧ g'.barriers = [] ∧
        g'.vregs = i.grp.vregs ∧ g'.sregs = i.grp.sregs ∧ g'.preds = i.grp.preds ∧
        (t.team? i.grp.team).map Team.fates = some (i.team.fates.set i.grp.gidx .exited) ∧
        (i.grp.barriers = [] → i.grp.heldTraps = [] → ∀ k, k ≠ i.key → t.group? k = s.group? k)))

/-- R128, R135, R204: NOP does nothing; YIELD restarts its slot's waiting time and changes nothing else. -/
def nopAndYield : Prop :=
  ∀ (s : State) (i : Issue) (g : Guard), s.issuing = some i →
    Ends i (exec (.nop g) s) s i.grp ∧
    Ends i (exec .yield s) s (i.grp.setCand i.b { i.grp.cand i.b with since := (s.core (keyCore i.key)).cycle, passed := 0 })

/-! ## Traps, handlers and permits -/

/-- The causes of R393 taken at the user vector. -/
def userCauses : List Nat := [0x01, 0x02, 0x03, 0x05, 0x06, 0x07, 0x08, 0x09, 0x0A, 0x0B, 0x0C, 0x0E, 0x10, 0x19]

/-- The causes of R393 that are reported and enter a handler. -/
def reportedCauses : List Nat := [0x0D, 0x18, 0x1A, 0x1B, 0x1C, 0x1D, 0x20]

/-- What a frame records of a trap `t` (R396): both slots and the slot that trapped, whose run is over (R146), the stack depth, the trap, and the
mode. -/
def recorded (g : Group) (b : Bool) (t : Trap) (cause : Word) (f : Frame) : Prop :=
  let ended (p : Part) : Part := { p with cont := none }
  f.slotA = (if b then g.slotA else g.slotA.map ended) ∧ f.slotB = (if b then g.slotB.map ended else g.slotB) ∧ f.inB = b ∧ f.stackDepth = g.stack.length ∧ f.tepc = t.tepc ∧ f.tmask = t.tmask ∧
  f.exmask = t.exmask ∧ f.taddr = t.addr ∧ f.tinfo = t.info ∧ f.mode = g.mode ∧ f.tcause = cause

/-- A group that has entered a handler (R396): one part of depth 0 at `pc` in slot A with the trapping part's lanes, TACTION 0, its
frame written, and its registers, predicates, masks, event slots, stack and other frame as they were. -/
def entered (g g' : Group) (mode : Mode) (p : Part) (pc : DWord) : Prop :=
  g'.mode = mode ∧ g'.slotA = some { pc, mask := p.mask, depth := 0 } ∧ g'.slotB = none ∧ g'.taction = 0 ∧
  g'.lastS = (mode == .supervisor) ∧ g'.vregs = g.vregs ∧ g'.sregs = g.sregs ∧ g'.preds = g.preds ∧ g'.evmask = g.evmask ∧
  g'.events = g.events ∧ g'.stack = g.stack ∧ g'.fflags = g.fflags ∧ g'.trapvec = g.trapvec ∧ g'.mailbox = g.mailbox ∧
  (if mode = .user then g'.sframe = g.sframe else g'.uframe = g.uframe)

/-- R393, R394, R396: a cause of the user vector, from normal mode with an aligned TRAPVEC, enters the user handler with the U-frame
written; no other group, permit or byte of memory changes. -/
def userCauseEntersUserHandler : Prop :=
  ∀ (s before : State) (key : Nat) (b : Bool) (t : Trap) (g : Group) (p : Part), s.group? key = some g → g.slot b = some p →
    t.code ∈ userCauses → g.mode = .normal → g.trapvec ≠ 0 → ¬ badTarget g.trapvec →
    let s' := before.takeTrap s key b t
    SameBytes s s' ∧ s'.cores = s.cores ∧ (∀ k, k ≠ key → s'.group? k = s.group? k) ∧
    ∃ g', s'.group? key = some g' ∧ entered g g' .user p g.trapvec ∧ recorded g b t (BitVec.ofNat 32 t.code) g'.uframe

/-- R394, R396, R402: a cause of the supervisor vector, or one of the user vector that escalates from user handler mode or for want of
a TRAPVEC, enters the supervisor handler at SVEC with the S-frame written and ESC telling which; here no report is made. -/
def supervisorCauseAndEscalation : Prop :=
  ∀ (s before : State) (key : Nat) (b : Bool) (t : Trap) (g : Group) (p : Part), s.group? key = some g → g.slot b = some p →
    (t.code ∈ userCauses → g.mode = .user ∨ g.trapvec = 0) → t.code ∉ reportedCauses → t.code < 0x100 → g.mode ≠ .supervisor →
    let svec := (s.core (keyCore key)).svec
    let esc : Nat := if t.code ∈ userCauses then 1 else 0
    svec ≠ 0 → ¬ badTarget svec →
    let s' := before.takeTrap s key b t
    SameBytes s s' ∧ s'.cores = s.cores ∧ (∀ k, k ≠ key → s'.group? k = s.group? k) ∧
    ∃ g', s'.group? key = some g' ∧ entered g g' .supervisor p svec ∧
      recorded g b t (BitVec.ofNat 32 (esc * 2 ^ 15 + t.code)) g'.sframe

/-- R396: a misaligned TRAPVEC is found after the U-frame has the original cause; a branch-alignment trap is then taken from user handler
mode, with ESC, TADDR and TEPC the TRAPVEC. -/
def misalignedTrapVectorEscalates : Prop :=
  ∀ (s before : State) (key : Nat) (b : Bool) (t : Trap) (g : Group) (p : Part), s.group? key = some g → g.slot b = some p →
    t.code ∈ userCauses → g.mode = .normal → g.trapvec ≠ 0 → badTarget g.trapvec →
    let svec := (s.core (keyCore key)).svec
    svec ≠ 0 → ¬ badTarget svec →
    ∃ g', (before.takeTrap s key b t).group? key = some g' ∧ recorded g b t (BitVec.ofNat 32 t.code) g'.uframe ∧
      g'.mode = .supervisor ∧ g'.slotA = some { pc := svec, mask := p.mask, depth := 0 } ∧ g'.slotB = none ∧
      g'.sframe.tcause = 0x8005 ∧ g'.sframe.taddr = g.trapvec ∧ g'.sframe.tinfo = 0 ∧ g'.sframe.tepc = g.trapvec ∧
      g'.sframe.mode = .user ∧ g'.sframe.slotA = some { pc := g.trapvec, mask := p.mask, depth := 0 }

/-- R394, R396, R403, R404, R406: a reported cause takes the lowest free permit of its core and its token, restores the back-off to
256 and, when the fault ring has room and no other group of the core waits for room, enters the supervisor handler with REP and PIDX in TCAUSE; with no permit free the slot parks for
its back-off, which doubles up to 8,192, and the state before the word stands otherwise; with no fault ring the report is counted in
FLTDROP and no permit is taken. -/
def reportedCauseTakesPermit : Prop :=
  ∀ (s before : State) (key : Nat) (b : Bool) (t : Trap) (g h : Group) (p : Part) (c : Core), s.group? key = some g → g.slot b = some p →
    t.code ∈ reportedCauses → g.mode ≠ .supervisor → c = s.core (keyCore key) → c.svec ≠ 0 → ¬ badTarget c.svec →
    before.group? key = some h → h.slot b = some p →
    let s' := before.takeTrap s key b t
    (s.ringLog ≠ none → (∀ k, k < 4 → c.permits.getD k false = true) →
      s' = before.setGroup key
        { (h.setSlot b (some { p with wait := some (.permit ((before.core (keyCore key)).cycle + h.backoff)) })) with
          backoff := if 8192 ≤ 2 * h.backoff then 8192 else 2 * h.backoff }) ∧
    (∀ k, s.ringLog ≠ none → k < 4 → c.permits.getD k false = false → (∀ j, j < k → c.permits.getD j false = true) →
      ∃ g', s'.group? key = some g' ∧ g'.backoff = 256 ∧ g'.tokens = (keyCore key * 8 + k) :: g.tokens ∧
        (s'.core (keyCore key)).permits = c.permits.set k true ∧
        (s.ringRoom = true → (∀ q ∈ s.groups, keyCore q.1 = keyCore key → q.2.entering = none) →
          entered g g' .supervisor p c.svec ∧ recorded g b t (BitVec.ofNat 32 (2 ^ 14 + k * 2 ^ 11 + t.code)) g'.sframe) ∧
        (s.ringRoom = false ∨ (∃ q ∈ s.groups, keyCore q.1 = keyCore key ∧ q.2.entering ≠ none) →
          g'.entering = some { trap := t, slotB := b, esc := false, permit := k, since := s.fresh } ∧ g'.mode = g.mode ∧ g'.slotA = g.slotA ∧ g'.slotB = g.slotB ∧ SameBytes s s')) ∧
    (s.ringLog = none → SameBytes s s' ∧ s'.csr.fltdrop = s.csr.fltdrop + 1 ∧ (s'.core (keyCore key)).permits = c.permits ∧
      ∃ g', s'.group? key = some g' ∧ entered g g' .supervisor p c.svec ∧ recorded g b t (BitVec.ofNat 32 t.code) g'.sframe)

/-- A group that has ended abnormally (R412): its fate, ABEND and the last such group in its team, no part, no armed slot, no token of the
mailbox; its requests are gone, its role's rings are BROKEN, and its permits stay held. -/
def EndedAbnormally (s s' : State) (key : Nat) (g : Group) (tm : Team) : Prop :=
  (∃ g', s'.group? key = some g' ∧ g'.slotA = none ∧ g'.slotB = none ∧ g'.stack = [] ∧ g'.events = List.replicate 16 {} ∧
    g'.mailbox = [] ∧ g'.barriers = [] ∧ g'.tokens = g.tokens) ∧
  (∃ t', s'.team? g.team = some t' ∧ t'.fates = tm.fates.set g.gidx .abnormal ∧ t'.abend = (tm.abend + 1) % 2 ^ 32 ∧
    t'.lastAbend = g.gidx ∧ ∀ h r, t'.ring? h = some r → r.owner = g.role → r.state = .broken) ∧
  (∀ r, r ∈ (s'.core (keyCore key)).requests → ¬ (r.team = g.team ∧ r.gidx = g.gidx)) ∧
  ∀ c, (s'.core c).permits = (s.core c).permits

/-- Every group of a team that was live has ended abnormally (R400, R412): its fate, no part, no armed slot, no token of the mailbox, no walk
request; ABEND counts them; permits stay held. -/
def TeamEndedAbnormally (s s' : State) (id : Nat) (tm : Team) : Prop :=
  (∃ t', s'.team? id = some t' ∧ t'.fates.length = tm.fates.length ∧
    ∀ n, (n < tm.fates.length → tm.live n = true → (∃ q ∈ s.groups, q.2.team = id ∧ q.2.gidx = n ∧ s.group? q.1 = some q.2) →
      t'.fates.getD n .exited = .abnormal) ∧ (tm.live n = false → t'.fates.getD n .exited = tm.fates.getD n .exited)) ∧
  (∀ k g, s.group? k = some g → g.team = id → tm.live g.gidx = true →
    (∀ k' h, k' ≠ k → s.group? k' = some h → ¬(h.team = id ∧ h.gidx = g.gidx)) →
    ∃ g', s'.group? k = some g' ∧ g'.slotA = none ∧ g'.slotB = none ∧ g'.stack = [] ∧ g'.events = List.replicate 16 {} ∧ g'.mailbox = []) ∧
  ∀ c, (s'.core c).permits = (s.core c).permits

/-- A context has become fatal (R411): no group of a team of it is live, whichever core it resides on, and its queue is STOPPED with code 10 and
FAIL, where the fault ring lies elsewhere. -/
def BecameFatal (s s' : State) (ctx : Nat) : Prop :=
  (∀ k x y, s.group? k = some x → s.team? x.team = some y → y.ctx = ctx → ∃ y', s'.team? x.team = some y' ∧ y'.live x.gidx = false) ∧
  (ctx < 4096 →
    let q := s.csr.qtbase.toNat + ctx * 64; let fr := s.csr.frbase.toNat
    fr = 0 ∨ q + 64 ≤ fr ∨ fr + 0x40 + 64 * 2 ^ 20 ≤ q →
    let w := read64 s'.mem (q + 8)
    bit w 23 = true ∧ bits w 31 28 = 10 ∧ bit w 22 = true)

/-- R402, R411, R412: a trap in supervisor handler mode is context fatal. -/
def supervisorTrapIsContextFatal : Prop :=
  ∀ (s before : State) (key : Nat) (b : Bool) (t : Trap) (g : Group) (tm : Team), s.group? key = some g → s.team? g.team = some tm →
    g.mode = .supervisor →
    BecameFatal s (before.takeTrap s key b t) tm.ctx

/-- R399, R404: a held asynchronous trap is taken at the group's next word boundary in normal mode, oldest first, at slot A's part, once its
back-off has passed; a reported cause that finds no permit waits for its back-off without a word; a slot whose back-off has passed issues its
word again. -/
def heldTrapsAndPermitRetry : Prop :=
  ∀ (s : State) (key : Nat) (b : Bool) (g : Group) (p : Part) (t : Trap) (rest : List Trap) (n : Nat), s.group? key = some g →
    g.slot b = some p →
    let c := s.core (keyCore key)
    (g.heldTraps = t :: rest → b = g.slotA.isNone → g.mode = .normal → g.suspended = false → g.entering = none →
      (∀ q, q ∈ g.slotA.toList ++ g.slotB.toList → ∀ m, q.wait ≠ some (.permit m)) →
      (∀ m, g.heldUntil = some m → m ≤ c.cycle) → c.permitPos ≤ keyPos key + 1 →
      ((t.code ∈ reportedCauses → s.ringLog ≠ none → ∃ k, k < 4 ∧ c.permits.getD k false = false) →
        let u := s.setGroup key { g with heldTraps := rest, heldUntil := none }
        exec (.asyncTrapTake key) s = .next (u.takeTrap u key b { t with tepc := p.pc })) ∧
      (t.code ∈ reportedCauses → s.ringLog ≠ none → (∀ k, k < 4 → c.permits.getD k false = true) →
        exec (.asyncTrapTake key) s = .next (s.setGroup key { g with heldUntil := some (c.cycle + g.backoff),
                                                                     backoff := if 8192 ≤ 2 * g.backoff then 8192 else 2 * g.backoff }))) ∧
    (p.wait = some (.permit n) → n ≤ (s.core (keyCore key)).cycle →
      exec (.permitRetry key b) s = .next (s.setGroup key (g.setSlot b (some { p with wait := none }))))

/-! ## The system words and the CSRs -/

/-- A word that goes on from the state `t` (R144). -/
def GoesOnFrom (i : Issue) (o : Host.Outcome State Fault Refusal) (t : State) : Prop :=
  o = .next (t.modGroup i.key fun g => g.setSlot i.b ((g.slot i.b).map fun p => p.goTo (p.pc + 8)))

/-- A PC slot waits for a permit (R404). -/
def waitsForPermit (p : Option Part) : Bool :=
  match p with
  | some { wait := some (.permit _), .. } => true
  | _ => false

/-- R212, R213, R214, R391, R397, R401, R403, R415: which state each CSR reads; 32-bit registers read zero-extended, write-only ones 0.
What PERFSTAT reads in REQ of a group without a request is the model's choice (log 46). -/
def csrReadsNameTheirState : Prop :=
  ∀ (s : State) (key : Nat) (g : Group) (t : Team),
    let core := keyCore key; let c := s.core core; let x := s.strand (strandOf core); let r := s.csrRead key g t
    let f := match g.mode with | .user => g.uframe | .supervisor => g.sframe | .normal => if g.lastS then g.sframe else g.uframe
    (r 0x000 = s.time ∧ r 0x001 = s.time >>> 32 ∧ r 0x002 = BitVec.ofNat 64 c.cycle ∧ r 0x004 = BitVec.ofNat 64 c.lcycle) ∧
    (∀ k, k < 64 → (r 0x010).getLsbD k = if k < 16 then (g.ev k).pend else decide (k < 32) && (g.ev (k - 16)).armed) ∧
    (let req := g.perfReq.getD (s.requestOf g)
     r 0x040 = (BitVec.ofNat 32 (s.perfCeil t.ctx * 2 ^ 16 + (s.perfPend core).toNat * 2 ^ 14 + req.2 * 2 ^ 12 + req.1 * 2 ^ 8 +
       c.ratio * 2 ^ 4 + x.level)).setWidth 64) ∧
    (r 0x801 = BitVec.ofNat 64 (g.ctxid.getD (s.ctxAsid t.ctx)) ∧
      r 0x804 = (BitVec.ofNat 32 (c.spillWays * 2 ^ 16 + c.scratchWays * 2 ^ 8 + c.rsv)).setWidth 64) ∧
    (let waiting := s.groups.countP fun p => keyCore p.1 = core && (waitsForPermit p.2.slotA || waitsForPermit p.2.slotB || p.2.heldUntil.isSome)
     (r 0x805).toNat / 256 = min 255 waiting ∧ ∀ k, k < 8 → (r 0x805).getLsbD k = (decide (k < 5) && c.permits.getD k false)) ∧
    (r 0x011 = g.evmask.setWidth 64 ∧ r 0x012 = g.evslot.setWidth 64 ∧ r 0x017 = g.evcxl.setWidth 64 ∧
      ∀ k, k < 4 → r (0x013 + k) = (g.evdata.getD k 0).setWidth 64) ∧
    (r 0x020 = g.trapvec ∧ r 0x021 = f.tcause.setWidth 64 ∧ r 0x022 = f.taddr ∧ r 0x023 = f.tepc ∧ r 0x024 = f.tmask.setWidth 64 ∧
      r 0x025 = f.tinfo.setWidth 64 ∧ r 0x026 = f.exmask.setWidth 64) ∧
    (r 0x030 = BitVec.ofNat 64 core ∧ r 0x031 = BitVec.ofNat 64 (core / 4) ∧ r 0x032 = BitVec.ofNat 64 t.id ∧
      r 0x033 = BitVec.ofNat 64 g.gidx) ∧
    (r 0x060 = g.fflags.setWidth 64 ∧ r 0x061 = x.strimb ∧ r 0x062 = c.fillcnt ∧ r 0x063 = c.throtcnt ∧ r 0x064 = g.stallMem ∧
      r 0x065 = g.stallAlu) ∧
    (r 0x800 = c.svec ∧ r 0x802 = BitVec.ofNat 64 (s.perfCeil t.ctx) ∧ r 0x806 = s.csr.spillbase ∧ r 0x807 = s.csr.frbase ∧
      r 0x808 = s.csr.fltdrop ∧ r 0x809 = g.taction.setWidth 64 ∧ r 0x80A = g.sscr0 ∧ r 0x80B = g.sscr1 ∧
      r 0x80C = g.uframe.tcause.setWidth 64 ∧ r 0x80D = g.uframe.tepc ∧ r 0x80E = 0 ∧ r 0x80F = s.csr.savebase) ∧
    (r 0x803 = s.csr.preemptctl.setWidth 64 ∧ r 0x810 = 0 ∧ r 0x811 = s.timerate.setWidth 64 ∧ r 0x812 = s.csr.sramset.setWidth 64 ∧
      r 0x813 = s.csr.eoldays.setWidth 64 ∧ r 0x814 = s.csr.savecnt.setWidth 64 ∧ r 0x815 = s.csr.presaves ∧
      r 0x816 = s.csr.preretakes ∧ r 0x817 = s.csr.predrains ∧ r 0x818 = s.csr.pwrlim.setWidth 64 ∧ r 0x819 = s.csr.devnum ∧
      r 0x81A = g.uframe.exmask.setWidth 64) ∧
    (r 0x820 = s.csr.qtbase ∧ r 0x821 = s.csr.cstable ∧ r 0x822 = s.csr.csperiod.setWidth 64 ∧ r 0x823 = s.csr.csepoch ∧
      r 0x824 = s.csr.csctl.setWidth 64 ∧ r 0x825 = s.csr.csmiss ∧ r 0x830 = s.csr.binbuf.setWidth 64 ∧
      r 0x831 = s.csr.visways.setWidth 64 ∧ r 0x832 = s.csr.viewdrop ∧ r 0x833 = s.csr.matdir ∧ r 0x834 = s.csr.pooltab ∧
      r 0x840 = s.csr.hotthr.setWidth 64 ∧ r 0x841 = s.csr.hothyst.setWidth 64 ∧ r 0x842 = BitVec.ofNat 64 x.strlim ∧
      r 0x843 = BitVec.ofNat 64 x.fillbud)

/-- R206, R215, R397, R401, R415: what a stored value changes: `zero` bits are ignored, a value outside the accepted range leaves the CSR as
it was. The writes that do more have rows of their own. -/
def csrStoresChangeTheirState : Prop :=
  ∀ (s : State) (key : Nat) (g : Group) (t : Team) (v : DWord), s.group? key = some g →
    let core := keyCore key; let st (n : Nat) : State := s.csrStore key t n v
    let grp (n : Nat) (g' : Group) : Prop := st n = s.setGroup key g'
    let csr (n : Nat) (c : Csrs) : Prop := st n = { s with csr := c }
    let tepc (f : Frame) : Frame := { f with tepc := v, rewritten := true }
    let x := s.strand (strandOf core); let w : Word := v.setWidth 32
    (grp 0x020 { g with trapvec := v } ∧ grp 0x060 { g with fflags := w &&& 0x1F } ∧ grp 0x809 { g with taction := w &&& 3 } ∧
      grp 0x80A { g with sscr0 := v } ∧ grp 0x80B { g with sscr1 := v } ∧ grp 0x80D { g with uframe := tepc g.uframe } ∧
      grp 0x801 { g with ctxid := some (v.toNat % 65536) }) ∧
    (grp 0x023 (if g.mode = .supervisor ∨ (g.mode = .normal ∧ g.lastS = true) then { g with sframe := tepc g.sframe }
      else { g with uframe := tepc g.uframe })) ∧
    (let g' : Group := { g with evmask := w &&& 0xFFFF }
     grp 0x011 (if (List.range 16).any fun k => (g.ev k).pend && w.getLsbD k && !g.evmask.getLsbD k then g'.wakeSleep else g')) ∧
    (st 0x800 = s.setCore core { s.core core with svec := v }) ∧
    (csr 0x803 { s.csr with preemptctl := w &&& 0xFFFF0003 } ∧ csr 0x807 { s.csr with frbase := v } ∧
      csr 0x821 { s.csr with cstable := v } ∧ csr 0x822 { s.csr with csperiod := w } ∧ csr 0x823 { s.csr with csepoch := v } ∧
      (let m : Nat := w.toNat % 65536; let step : Nat := s.csr.sramset.toNat / 65536 % 256
       csr 0x812 { s.csr with sramset := BitVec.ofNat 32 (w.toNat / 2 ^ 31 * 2 ^ 31 +
         (if 2 ^ 31 ≤ w.toNat ∧ m ≠ 0 then min step 30 else 0) * 2 ^ 16 + m) }) ∧
      csr 0x840 { s.csr with hotthr := w &&& 0xFFFF } ∧ csr 0x841 { s.csr with hothyst := w &&& 0xFFFF }) ∧
    (csr 0x806 (if v.toNat % 65536 = 0 ∧ v.toNat + 442368 * 1024 ≤ Config.dramBytes then { s.csr with spillbase := v, spillbaseSet := true }
      else s.csr)) ∧
    (csr 0x820 (if v.toNat % 64 = 0 ∧ v.toNat + 262144 ≤ Config.dramBytes then { s.csr with qtbase := v, qtbaseSet := true } else s.csr)) ∧
    (csr 0x80F (if v.toNat % 2 ^ 24 = 0 ∧ s.csr.savecnt.toNat ≤ 4096 ∧ v.toNat + s.csr.savecnt.toNat * 2 ^ 24 ≤ Config.dramBytes then
      { s.csr with savebase := v } else s.csr)) ∧
    (let n := v.toNat % 8192
     csr 0x814 (if s.csr.savebase.toNat % 2 ^ 24 = 0 ∧ n ≤ 4096 ∧ s.csr.savebase.toNat + n * 2 ^ 24 ≤ Config.dramBytes then
      { s.csr with savecnt := BitVec.ofNat 32 n } else s.csr)) ∧
    (let n := v.toNat % 128
     csr 0x830 (if 4 ≤ n ∧ n ≤ 64 then { s.csr with binbuf := BitVec.ofNat 32 n } else s.csr)) ∧
    (csr 0x833 (if v.toNat % 16 = 0 ∧ v.toNat < 2 ^ 49 then { s.csr with matdir := v } else s.csr) ∧
      csr 0x834 (if v.toNat % 64 = 0 ∧ v.toNat < 2 ^ 49 then { s.csr with pooltab := v } else s.csr)) ∧
    (st 0x842 = if 2 ≤ w.toNat ∧ w.toNat ≤ 12 then s.setStrand (strandOf core) { x with strlim := w.toNat } else s) ∧
    (st 0x843 = if v.toNat % 128 ≤ 64 then s.setStrand (strandOf core) { x with fillbud := v.toNat % 128 } else s) ∧
    (w = 1 → exec .csctlArm s = .next (st 0x824)) ∧
    (∀ (r : Request) (a : DWord) (info : Word), r ∈ (s.core core).requests → r.phase = .stopped a info → r.num < 256 → r.team = g.team →
      (∀ x, x ∈ (s.core core).requests → x.num = r.num → x.team = g.team → x.isStopped = true → x = r) →
      (w.toNat = r.num → st 0x80E = s.setRequest core { r with phase := .running }) ∧
      (w.toNat = 256 + r.num → st 0x80E = s.endRequest core r (info.toNat / 256 % 16))) ∧
    (s.team? g.team = some t → ∀ n : BitVec 12, ∀ wide acc, csrInfo n.toNat = some (wide, acc) → acc ≠ .ro →
      (0x800 ≤ n.toNat → g.mode = .supervisor) → exec (.registerWrite key n v) s = .next (st n.toNat)) ∧
    (s.team? g.team = some t → g.mode = .supervisor → exec (.ctxidWrite key w) s = .next (s.csrStore key t 0x801 (w.setWidth 64)))

/-- R49, R62, R77, R112, R430, R432: what the writes of TIMEOFS, TIMERATE, CARVE, VISWAYS, PWRLIM, PERFCEIL and 0 to CSCTL change, as
events and as CSR words store them: TIME steps by TIMEOFS; TIMERATE is clamped; CARVE takes an RSV of 1 to 4; VISWAYS takes 0 to 8 ways, in
effect at once when no view is active; PWRLIM takes at most 2,400; the sheet ends at the next period start. -/
def csrEventsChangeTheirState : Prop :=
  ∀ (s : State) (key ctx : Nat) (t : Team) (v : DWord),
    let core := keyCore key; let w : Word := v.setWidth 32
    let both (o : Host.Outcome State Fault Refusal) (n : Nat) (x : State) : Prop := o = .next x ∧ s.csrStore key t n v = x
    both (exec (.timeofsWrite v) s) 0x810 { s with time := s.time + v } ∧
    both (exec (.timerateWrite w) s) 0x811 { s with timerate := BitVec.ofInt 32 (max (-4294967) (min 4294967 w.toInt)) } ∧
    both (exec (.pwrlimWrite w) s) 0x818 { s with csr := { s.csr with pwrlim := BitVec.ofNat 32 (min 2400 (w.toNat % 4096)) } } ∧
    (let n := w.toNat % 16
     let busy : Prop := ∃ x, x ∈ s.views ∧ (x.phase = .active ∨ x.phase = .drawing ∨ x.phase = .sealed)
     (8 < n → both (exec (.viswaysWrite w) s) 0x831 s) ∧
     (n ≤ 8 → busy → both (exec (.viswaysWrite w) s) 0x831 { s with csr := { s.csr with viswaysNew := BitVec.ofNat 32 n } }) ∧
     (n ≤ 8 → ¬ busy → both (exec (.viswaysWrite w) s) 0x831
       { s with csr := { s.csr with viswaysNew := BitVec.ofNat 32 n, visways := BitVec.ofNat 32 n } })) ∧
    (core < 216 →
      let r := w.toNat % 8
      both (exec (.carveWrite core w) s) 0x804 (if 1 ≤ r ∧ r ≤ 4 then s.setCore core { s.core core with rsv := r } else s)) ∧
    (t.ctx ≤ 4096 → ∃ p, both (exec (.perfceilWrite t.ctx w) s) 0x802 { s with perfceil := p } ∧
      ({ s with perfceil := p } : State).perfCeil t.ctx = w.toNat % 16 ∧
      (ctx ≠ t.ctx → ({ s with perfceil := p } : State).perfCeil ctx = s.perfCeil ctx)) ∧
    (w = 0 → both (exec .csctlDisarm s) 0x824 { s with
      csr := { s.csr with csctl := 0 }
      sheetChange := match s.sheet with
        | some x => .disarm (if s.time.toNat < x.epoch then x.epoch else
            x.epoch + ((s.time.toNat - x.epoch) / x.period + 1) * x.period)
        | none => .keep })

/-- R208, R430: SETPERF records the request, its level capped at PERFCEIL, and answers 3 above the ceiling, 2 when the core's target for
other groups exceeds it, 0 when the core runs at it and no change is under way, else 1; a level above 15 or a ratio above 2 traps. -/
def setperfRecordsAndAnswers : Prop :=
  ∀ (s : State) (i : Issue) (g : Guard) (d a b : Operand) (lv r : Nat), s.issuing = some i → (Instr.setperf g d a b).wf →
    let X := i.lanes g; let o := exec (.setperf g d a b) s
    let isMax (f : Operand) (m : Nat) : Prop := (∃ l, X.getLsbD l = true ∧ (i.srcN f l).toNat = m) ∧
      ∀ l, X.getLsbD l = true → (i.srcN f l).toNat ≤ m
    (X = 0 → Ends i o s i.grp) ∧
    (isMax a lv → isMax b r → 15 < lv ∨ 2 < r → Traps s i o { code := 0x03, exmask := X, tepc := i.part.pc }) ∧
    (isMax a lv → isMax b r → lv ≤ 15 → r ≤ 2 →
      let ceil := s.perfCeil i.team.ctx; let l := min lv ceil
      let s1 := s.setGroup i.key { i.grp with perfReq := some (l, r) }
      let core := keyCore i.key; let t := s1.coreTarget core
      let st : Word := if ceil < lv then 3 else if l < t.1 ∨ r < t.2 then 2
        else if (s.strand (strandOf core)).level = l ∧ (s.core core).ratio = r ∧ s1.perfPend core = false then 0 else 1
      Fits s i g [d] o (∃ g', Wrote i.grp g' d X (fun _ => st) ∧ RegsKept i.grp g' [d] ∧ g'.perfReq = some (l, r) ∧
        { g' with vregs := i.grp.vregs, sregs := i.grp.sregs, perfReq := i.grp.perfReq } = i.grp ∧ Ends i o s g'))

/-- R210, R211: TLBI and TRAPACK with an executing lane need supervisor handler mode. TLBI takes out of every TLB and fetch block what it names; TRAPACK frees a
held permit and answers 0, or answers 1 and changes nothing; a token of no permit traps. -/
def tlbiAndTrapack : Prop :=
  ∀ (s : State) (i : Issue) (g : Guard) (m : TlbiMode) (d a : Operand) (l : Nat), s.issuing = some i →
    let X := i.lanes g; let o := exec (.tlbi g m a) s; let o' := exec (.trapack g d a) s
    (X ≠ 0 → i.grp.mode ≠ .supervisor → Traps s i o { code := 0x04, exmask := X, tepc := i.part.pc } ∧
      Traps s i o' { code := 0x04, exmask := X, tepc := i.part.pc }) ∧
    (X = 0 → Ends i o s i.grp ∧ Ends i o' s i.grp) ∧
    (i.grp.mode = .supervisor → X.getLsbD l = true → (∀ k, k < l → X.getLsbD k = false) → (Instr.tlbi g m a).wf →
      let asid := match i.grp.ctxid with | some x => x | none => s.ctxAsid i.team.ctx
      let va := (i.src64 false a l).toNat
      let hit (e : TlbEntry) : Prop := match m with
        | .page => e.asid = asid ∧ e.vpn = va / 2 ^ e.shift
        | .ctx => e.asid = asid
        | .all => True
      let lost (tm : Team) (base : Nat) : Prop := match m with
        | .page => s.ctxAsid tm.ctx = asid ∧ (base / 2 ^ 19 = va / 2 ^ 19 ∨ base / 2 ^ 25 = va / 2 ^ 25 ∨ base / 2 ^ 31 = va / 2 ^ 31)
        | .ctx => s.ctxAsid tm.ctx = asid
        | .all => True
      ∃ t, Ends i o t i.grp ∧ SameBytes s t ∧ t.groups = s.groups ∧ (∀ e, e ∈ t.tlb2 ↔ e ∈ s.tlb2 ∧ ¬ hit e) ∧
        (∀ c e, e ∈ (t.core c).tlb ↔ e ∈ (s.core c).tlb ∧ ¬ hit e) ∧
        ∀ k tm, s.team? k = some tm → ∃ tm', t.team? k = some tm' ∧ { tm' with blocks := tm.blocks } = tm ∧
          ∀ b, b ∈ tm'.blocks ↔ b ∈ tm.blocks ∧ ¬ lost tm b.1) ∧
    (i.grp.mode = .supervisor → X.getLsbD l = true → (∀ k, k < l → X.getLsbD k = false) → (Instr.trapack g d a).wf →
      let tok := (i.srcN a l).toNat; let c := s.core (tok / 8); let held := c.permits.getD (tok % 8) false
      (216 ≤ tok / 8 ∨ 4 < tok % 8 → Traps s i o' { code := 0x03, exmask := X, tepc := i.part.pc }) ∧
      (tok / 8 < 216 → tok % 8 ≤ 4 → Fits s i g [d] o' (∃ t g', o' = .next t ∧ t.group? i.key = some g' ∧
        Wrote i.grp g' d X (fun _ => if held then 0 else 1) ∧ RegsKept i.grp g' [d] ∧ WentOn i g' ∧ SameBytes s t ∧
        (t.core (tok / 8)).permits = c.permits.set (tok % 8) false ∧ ∀ k, k ≠ tok / 8 → t.core k = s.core k)))

/-! ## Memory -/

/-- R218: the address of a form-M operand in a lane, modulo 2^64. -/
def laneAddr (i : Issue) (m : MemArg) (l : Nat) : DWord :=
  i.src64 false m.base l + (i.srcN m.index l).signExtend 64 * BitVec.ofNat 64 (2 ^ m.scale) + m.disp.signExtend 64

/-- The lanes of `X` all pass the checks of the access `a`, at these places. -/
def allPass (s : State) (i : Issue) (a : Access) (X : Word) (va : Nat → DWord) (place : Nat → Loc) : Prop :=
  ∀ l, X.getLsbD l = true → s.check i a (va l) = .ok (place l)

/-- The access of a group's load (`w` false) or store of `n` bytes. -/
def accessOf (i : Issue) (n : Nat) (w : Bool) : Access :=
  { size := n, align := n, need := { r := !w, w, sup := i.grp.mode = .supervisor }, acc := if w then 1 else 0, store := w }

/-- A group whose may-fault word has gone on: issue suspended until its checks have passed (R233). -/
def Suspends (i : Issue) (g' : Group) : Prop := g'.suspended = true ∧ WentOn i g'

/-- A group but for its registers, the issuing slot, the suspension of issue, the scoreboard and its accesses still to perform is as it was. -/
def RestOfLoad (i : Issue) (g' : Group) : Prop :=
  { g' with vregs := i.grp.vregs, sregs := i.grp.sregs, slotA := i.grp.slotA, slotB := i.grp.slotB, suspended := i.grp.suspended,
            outstanding := i.grp.outstanding, late := i.grp.late } = i.grp ∧ g'.slot (!i.b) = i.grp.slot (!i.b)

/-- Every earlier load and atomic of a group has returned and every earlier store has performed (R236, R240, R350; log 9). -/
def calm (g : Group) : Prop := g.outstanding = [] ∧ g.late = []

/-- A place in DRAM, or in the bytes of a core's scratch or operand memory. -/
def plainPlace (s : State) (n : Nat) (p : Loc) : Prop :=
  match p with
  | .dram _ => True
  | .win c o => o + n ≤ (s.core c).scratchWays * 32768 ∨ (0x100000 ≤ o ∧ o + n ≤ 0x180000)

/-- The bytes a store of `n` bytes per lane of `Y` leaves in DRAM and on chip: the highest-numbered lane that covers a byte sets it, every
other byte stands (R234, R236). -/
def StoredBytes (s t : State) (Y : Word) (n : Nat) (place : Nat → Loc) (byte : Nat → Nat → Byte) : Prop :=
  (∀ a, (∀ l k, Y.getLsbD l = true → k < n → place l ≠ .dram (a - k) ∨ a < k) → cellGet (w := 8) t.mem a = cellGet (w := 8) s.mem a) ∧
  (∀ a l k, Y.getLsbD l = true → k < n → k ≤ a → place l = .dram (a - k) →
    (∀ l' k', l < l' → Y.getLsbD l' = true → k' < n → k' ≤ a → place l' ≠ .dram (a - k')) →
    cellGet (w := 8) t.mem a = byte l k) ∧
  (∀ c a, (∀ l k, Y.getLsbD l = true → k < n → place l ≠ .win c (a - k) ∨ a < k) →
    cellGet (t.core c).chip a = cellGet (s.core c).chip a) ∧
  (∀ c a l k, Y.getLsbD l = true → k < n → k ≤ a → place l = .win c (a - k) →
    (∀ l' k', l < l' → Y.getLsbD l' = true → k' < n → k' ≤ a → place l' ≠ .win c (a - k')) →
    cellGet (t.core c).chip a = byte l k)

/-- R92, R218, R234, R236: ST whose lanes all pass stores the low bytes of each lane's data at its address, in ascending lane order, in DRAM,
scratch, operand memory or any other place of a core's window; helper and vacant lanes are not checked and store nothing (log 73); a `.rel`
store first waits for the group's earlier accesses. No register changes but through a window. A store that performs late leaves its
units, of at most 8 bytes, to perform (log 9). -/
def storesWriteTheirLanes : Prop :=
  ∀ (s : State) (i : Issue) (g : Guard) (nl1 rel : Bool) (sz : MemSize) (sc : Scope) (d : Operand) (m : MemArg) (place : Nat → Loc),
    s.issuing = some i → (Instr.st g nl1 sz rel sc d m).wf →
    let X := i.lanes g; let Y := X &&& ~~~(i.grp.helper ||| i.grp.vacant); let va := laneAddr i m
    let n : Nat := match sz with | .n8 | .i8 => 1 | .h16 => 2 | .w32 => 4 | .w64 => 8 | .x4 => 16
    let o := exec (.st g nl1 sz rel sc d m) s
    let byte (l k : Nat) : Byte := match d with
      | .inline c => BitVec.ofNat 8 (((inlineInt c).signExtend 128).toNat / 256 ^ k)
      | _ => BitVec.ofNat 8 ((i.srcN (Operand.next d (k / 4)) l).toNat / 256 ^ (k % 4))
    (X = 0 → Ends i o s i.grp) ∧
    (X ≠ 0 → rel = true → ¬ calm i.grp → Parks i o s i.grp .reissue) ∧
    (X ≠ 0 → (rel = true → calm i.grp) → allPass s i (accessOf i n true) Y va place →
      (i.part.delay = false → (∀ l, Y.getLsbD l = true → plainPlace s n (place l)) →
        ∃ t g', o = .next t ∧ t.group? i.key = some g' ∧ StoredBytes s t Y n place byte ∧
          g'.vregs = i.grp.vregs ∧ g'.sregs = i.grp.sregs ∧ RestOfLoad i g' ∧ g'.late = i.grp.late ∧ Suspends i g' ∧
          ∀ k, k ≠ i.key → t.group? k = s.group? k) ∧
      (i.part.delay = false →
        let u := (lanesOf Y).foldl (fun (u : State) l => u.writeLoc (place l) ((List.range n).map (byte l))) s
        ∃ t, o = .next t ∧ t.mem = u.mem ∧ (∀ c, (t.core c).chip = (u.core c).chip ∧ (t.core c).acc = (u.core c).acc ∧
          (t.core c).partials = (u.core c).partials) ∧ (∀ k, t.team? k = u.team? k) ∧ (∀ k, k ≠ i.key → t.group? k = u.group? k) ∧
          t.group? i.key = (u.group? i.key).map fun y =>
            ({ y with suspended := true } : Group).setSlot i.b (some (i.part.goTo (i.part.pc + 8)))) ∧
      (i.part.delay = true → ∃ t g', o = .next t ∧ t.group? i.key = some g' ∧ SameBytes s t ∧
        (∀ c, (t.core c).chip = (s.core c).chip ∧ (t.core c).acc = (s.core c).acc) ∧ g'.vregs = i.grp.vregs ∧ g'.sregs = i.grp.sregs ∧
        g'.late = i.grp.late ++ (lanesOf Y).flatMap (fun l => (if n = 16 then [0, 8] else [0]).map fun k =>
          { lane := l, part := i.part.mask, loc := (place l).plus k, size := min n 8, word := s.fresh
            effect := .store (i.storeData (MemSize.words sz) d l / 256 ^ k) }) ∧
        RestOfLoad i g' ∧ Suspends i g' ∧ ∀ k, k ≠ i.key → t.group? k = s.group? k))

/-- R109, R115, R116, R254: what a byte written in a core's window beyond scratch and operand memory sets: the byte of the accumulators, of the
partial slots or of a bound register at its place, and nothing in the rows of zeros and the region tables. Every other byte of
these stands. -/
def windowBytesWritten : Prop :=
  ∀ (s : State) (c o : Nat) (b : Byte),
    let t := s.writeLoc (.win c o) [b]
    t.mem = s.mem ∧ (∀ c', c' ≠ c → t.core c' = s.core c') ∧
    (0x200000 ≤ o → o < 0x248000 → (s.core c).scratchWays ≤ 24 → ∀ p, 0x200000 ≤ p → p < 0x248000 →
      t.winByte c p = if p = o then b else s.winByte c p) ∧
    (0x500000 ≤ o ∧ o < 0x600000 ∨ zeroRow o = true → (s.core c).scratchWays ≤ 24 → t = s) ∧
    ∀ pos x g, pos < 64 → x < 0x6080 → o = 0x300000 + 32768 * pos + x → (s.core c).scratchWays ≤ 24 → s.group? (posKey c pos) = some g →
      ∃ g', t.group? (posKey c pos) = some g' ∧ { g' with vregs := g.vregs, sregs := g.sregs } = g ∧ (∀ n, g'.bound n = g.bound n) ∧
        ∀ y, y < 0x6080 → g'.winByte y = if y = x ∧ (x < 0x6000 → g.bound (x / 128) = true) then b else g.winByte y

/-- R345, R346, R352: a unit of a store that its group still has to perform performs, indivisibly, when no earlier unit must precede it; the
others wait on (log 9). -/
def lateUnitsPerform : Prop :=
  ∀ (s : State) (key : Nat) (g : Group) (pre post : List LateOp) (u : LateOp) (x : Nat), s.group? key = some g → g.late = pre ++ u :: post →
    u ∉ pre → u ∉ post → u.effect = .store x →
    (∀ p, p ∈ pre → p.part &&& u.part = 0 ∨ p.loc.address + p.size ≤ u.loc.address ∨ u.loc.address + u.size ≤ p.loc.address) →
    s.move (.late key pre.length) = .next ((s.setGroup key { g with late := pre ++ post }).writeLocNat u.loc u.size x)

/-- R232, R233, R393, R395: when a check fails, LD and ST trap at the first failing check in the order of R232 and, within it, the lowest
lane: TADDR is its address, TINFO its level and kind of access; the lanes that pass have performed unless the address was not canonical
or not aligned, and TMASK says which. A helper or vacant lane of ST is not checked (log 73). -/
def failedAccessNamesFirstCheck : Prop :=
  ∀ (s : State) (i : Issue) (g : Guard) (nl1 ord : Bool) (sz : MemSize) (sc : Scope) (d : Operand) (m : MemArg) (l : Nat) (f : CheckFail),
    s.issuing = some i →
    let X := i.lanes g; let va := laneAddr i m
    let n : Nat := match sz with | .n8 | .i8 => 1 | .h16 => 2 | .w32 => 4 | .w64 => 8 | .x4 => 16
    let a (w : Bool) : Access := accessOf i n w
    let first (w : Bool) (Y : Word) : Prop := Y.getLsbD l = true ∧ s.check i (a w) (va l) = .error f ∧ f.code ≠ 0 ∧
      ∀ j e, Y.getLsbD j = true → s.check i (a w) (va j) = .error e → e.code ≠ 0 → f.order < e.order ∨ (f.order = e.order ∧ l ≤ j)
    let trap (w : Bool) (Y : Word) (t : Trap) : Prop := t.code = f.code ∧ t.addr = va l ∧ t.exmask = X ∧ t.tepc = i.part.pc ∧
      t.info = (if f.code = 0x09 then BitVec.ofNat 32 f.handle else BitVec.ofNat 32 (f.level * 64 + if w then 1 else 0)) ∧
      ∀ j, t.tmask.getLsbD j = true ↔ 2 < f.order ∧ Y.getLsbD j = true ∧ ∃ p, s.check i (a w) (va j) = .ok p
    ((Instr.ld g nl1 sz ord sc d m).wf → first false X → i.budget X ((List.range (MemSize.words sz)).map fun k => Operand.next d k) = none →
      ∃ s' t, exec (.ld g nl1 sz ord sc d m) s = .next (s.takeTrap s' i.key i.b t) ∧ trap false X t ∧ SameBytes s s') ∧
    ((Instr.st g nl1 sz ord sc d m).wf → let Y := X &&& ~~~(i.grp.helper ||| i.grp.vacant)
      first true Y → (ord = true → calm i.grp) → ∃ s' t, exec (.st g nl1 sz ord sc d m) s = .next (s.takeTrap s' i.key i.b t) ∧ trap true Y t ∧
        (f.order ≤ 2 → SameBytes s s'))

/-- R3, R217, R221 to R223, R232: the checks of one access in order, up to the place: bits [63:49], alignment, the scratch allocation, the
walk, the permission, the physical address. Range locks and demand windows are checked after them (R253, R256). -/
def accessCheckOrder : Prop :=
  ∀ (s : State) (i : Issue) (a : Access) (va : DWord), 0 < a.align → s.badData = none →
    let n := va.toNat; let r := s.check i a va; let ctx := i.team.ctx
    (2 ^ 49 ≤ n → r = .error { order := 1, code := 0x19 }) ∧
    (n < 2 ^ 49 → n % a.align ≠ 0 → r = .error { order := 2, code := 0x06 }) ∧
    (n < 2 ^ 49 → n % a.align = 0 → Config.scrBase ≤ n →
      (a.aperture = false ∨ i.team.allocBytes (keyCore i.key) < n - Config.scrBase + a.size → r = .error { order := 3, code := 0x19 }) ∧
      ∀ q, i.team.quarterOn (keyCore i.key) = some q → a.aperture = true → a.plain = false → a.demand = false →
        n - Config.scrBase + a.size ≤ i.team.allocBytes (keyCore i.key) → r = .ok (.win q.core (q.base * 1024 + (n - Config.scrBase)))) ∧
    (n < Config.scrBase → n < 2 ^ 49 → n % a.align = 0 →
      (∀ c lv, s.leafOf (some (keyCore i.key)) ctx n = .error (c, lv) → r = .error { order := 4, code := c, level := lv }) ∧
      ∀ leaf shift, s.leafOf (some (keyCore i.key)) ctx n = .ok (leaf, shift) →
        let level := if shift = 31 then 1 else if shift = 25 then 2 else 3
        let allowed := (a.need.r = true → bit leaf 4 = true) ∧ (a.need.w = true → bit leaf 5 = true) ∧ (a.need.x = true → bit leaf 6 = true) ∧
          (a.need.sup = true ∨ bit leaf 8 = false)
        let pa := bits leaf 45 19 * 2 ^ 19 + n % 2 ^ shift
        (¬ allowed → r = .error { order := 5, code := 0x1C, level }) ∧
        (allowed → bit leaf 59 = false → Config.dramBytes ≤ pa → pa < Config.windowBase → r = .error { order := 6, code := 0x19, level }) ∧
        (allowed → bit leaf 59 = false → pa < Config.dramBytes → a.plain = false → r = .ok (.dram pa)))

/-- R221 to R223: with no TLB entry, a walk reads the level-0, level-1, level-2 and level-3 entries that the address indexes; three
tables and a valid 512 KiB leaf translate; an entry that is not valid ends the walk with a page fault at its level. -/
def pageWalkReadsFourLevels : Prop :=
  ∀ (s : State) (core : Option Nat) (ctx va : Nat), s.csr.ctxtabSet = true →
    tlbFind (match core with | some c => (s.core c).tlb | none => []) (s.ctxAsid ctx) va = none → tlbFind s.tlb2 (s.ctxAsid ctx) va = none →
    let next (e : DWord) : Nat := e.toNat / 2 ^ 9 % 2 ^ 37 * 2 ^ 9
    let root := (read64 s.mem (s.csr.ctxtab.toNat + ctx * 32)).toNat / 2 ^ 12 % 2 ^ 34 * 2 ^ 12
    let e0 := read64 s.mem (root + va / 2 ^ 40 % 512 * 8); let e1 := read64 s.mem (next e0 + va / 2 ^ 31 % 512 * 8)
    let e2 := read64 s.mem (next e1 + va / 2 ^ 25 % 64 * 8); let e3 := read64 s.mem (next e2 + va / 2 ^ 19 % 64 * 8)
    let table (e : DWord) (top : Bool) : Prop := bit e 0 = true ∧ bit e 1 = false ∧ bits e 63 46 = 0 ∧ bits e 8 2 = 0 ∧
      (top = true → bits e 11 9 = 0)
    (bit e0 0 = false → s.leafOf core ctx va = .error (0x1A, 0)) ∧
    (table e0 true → bit e1 0 = false → s.leafOf core ctx va = .error (0x1A, 1)) ∧
    (table e0 true → table e1 false → bit e2 0 = false → s.leafOf core ctx va = .error (0x1A, 2)) ∧
    (table e0 true → table e1 false → table e2 false →
      (bit e3 0 = false → s.leafOf core ctx va = .error (0x1A, 3)) ∧
      (bit e3 0 = true → bit e3 1 = false → s.leafOf core ctx va = .error (0x1B, 3)) ∧
      (bit e3 0 = true → bit e3 1 = true → bits e3 63 60 = 0 → bits e3 50 46 = 0 → bits e3 18 12 = 0 → bit e3 9 = false → bit e3 7 = false →
        bits e3 3 2 = 0 → bits e3 11 10 ≤ 1 → bit e3 59 = false → s.leafOf core ctx va = .ok (e3, 19)))

/-- R360: the new value each atomic operation makes of the old one, with data `D` and, for CAS, `N`. -/
def atomicOperations : Prop :=
  ∀ m D N : Nat, m < 2 ^ 32 → D < 2 ^ 32 → N < 2 ^ 32 →
    let f (op : AtomOp) : Nat := AtomOp.apply op m D N; let b (x : Nat) : Word := BitVec.ofNat 32 x
    f .add32 = (m + D) % 2 ^ 32 ∧ b (f .and) = b m &&& b D ∧ b (f .or) = b m ||| b D ∧ b (f .xor) = b m ^^^ b D ∧
    f .minN = min m D ∧ f .maxN = max m D ∧ (b (f .minS)).toInt = min (b m).toInt (b D).toInt ∧
    (b (f .maxS)).toInt = max (b m).toInt (b D).toInt ∧ f .exch32 = D ∧ f .cas32 = (if m = D then N else m) ∧
    f .addF32 = (fmt32.add .rne m D).1 ∧ f .minF32 = (fmt32.minMax false m D).1 ∧ f .maxF32 = (fmt32.minMax true m D).1 ∧
    ∀ M E K : Nat, M < 2 ^ 64 → E < 2 ^ 64 → K < 2 ^ 64 → AtomOp.apply .add64 M E K = (M + E) % 2 ^ 64 ∧
      AtomOp.apply .exch64 M E K = E ∧ AtomOp.apply .cas64 M E K = if M = E then K else M

/-- R129, R361, R417: ATOM and RED whose lanes all pass, in DRAM, apply the lanes in ascending order, each to what the one before left; ATOM binds
its destination and leaves each lane's old value outstanding, until ATOM_REPLY brings it there (log 75); an atomic that performs late leaves its
lanes to perform (log 9). The team's retake eligibility is revoked. A verdict word among FP32 data traps. Helper and vacant lanes
are not checked (log 73). -/
def atomicsApplyLanesInOrder : Prop :=
  ∀ (s : State) (i : Issue) (g : Guard) (op : AtomOp) (o : Ord) (rel : Bool) (sc : Scope) (d : Operand) (m : MemArg) (key : Nat → Nat),
    s.issuing = some i →
    let X := i.lanes g; let Y := X &&& ~~~(i.grp.helper ||| i.grp.vacant); let va := laneAddr i m
    let n : Nat := match op with | .add64 | .exch64 | .cas64 => 8 | _ => 4
    let ds := (List.range (n / 4)).map fun k => Operand.next d k
    let acc : Access := { size := n, align := n, need := { r := true, w := true, sup := i.grp.mode = .supervisor }, acc := 2, store := true,
                          windows := false }
    let run := (lanesOf Y).foldl (fun (p : Memory × (Nat → Nat)) l =>
      let old := readNat p.1 (key l) n
      (writeNat p.1 (key l) n (AtomOp.apply op old (i.atomData op d l) (i.casData op d l)), fun j => if j = l then old else p.2 j))
      (s.mem, fun _ => 0)
    let bad (l : Nat) : Bool := AtomOp.float op && isVerdict (BitVec.ofNat 32 (i.atomData op d l))
    let a := exec (.atom g op o sc d m) s; let r := exec (.red g op rel sc d m) s
    let s0 := s.revoke i.grp.team
    let kept (t : State) (g' : Group) (reply : Option Operand) : Prop := RestOfLoad i g' ∧ Suspends i g' ∧
      (i.part.delay = false → t.mem = run.1 ∧ g'.late = i.grp.late) ∧
      (i.part.delay = true → t.mem = s.mem ∧ g'.late = i.grp.late ++ (lanesOf Y).map fun l =>
        { lane := l, part := i.part.mask, loc := .dram (key l), size := n, reply, word := s.fresh
          effect := .atom op (i.atomData op d l) (i.casData op d l) }) ∧
      (t.team? i.grp.team).map Team.revoked = some true ∧ ∀ k, k ≠ i.key → t.group? k = s.group? k
    (X = 0 → Ends i a s0 i.grp ∧ Ends i r s0 i.grp) ∧
    (∀ t, X ≠ 0 → i.verdictTrap X bad = some t → Traps s i a t ∧ Traps s i r t) ∧
    (X ≠ 0 → i.verdictTrap X bad = none → ¬ calm i.grp →
      (o = .rel ∨ o = .ar → i.budget X ds = none → Parks i a s0 i.grp .reissue) ∧ (rel = true → Parks i r s0 i.grp .reissue)) ∧
    (X ≠ 0 → i.verdictTrap X bad = none → allPass s i acc Y va (fun l => .dram (key l)) →
      ((Instr.atom g op o sc d m).wf → (o = .rel ∨ o = .ar → calm i.grp) →
        (∀ t, i.budget X ds = some t → Traps s i a t) ∧
        (i.budget X ds = none → ∃ t g', a = .next t ∧ t.group? i.key = some g' ∧ kept t g' (some d) ∧ RegsKept i.grp g' ds ∧
          (∀ k, k < n / 4 → Wrote i.grp g' (Operand.next d k) X fun l => match Operand.next d k with
            | .v j => i.grp.v j l
            | .s j => i.grp.sreg j
            | _ => 0) ∧
          ∃ p, g'.outstanding = i.grp.outstanding ++ [p] ∧ p.atomic = true ∧ p.dst = d ∧ p.words = n / 4 ∧ p.mask = X ∧
            ∀ k l, i.part.delay = false → k < n / 4 → l < 32 → (p.values.getD k []).getD l 0 = BitVec.ofNat 32 (run.2 l / 2 ^ (32 * k)))) ∧
      ((Instr.red g op rel sc d m).wf → (rel = true → calm i.grp) →
        ∃ t g', r = .next t ∧ t.group? i.key = some g' ∧ kept t g' none ∧ g'.vregs = i.grp.vregs ∧ g'.sregs = i.grp.sregs))

/-- R363, R364: MWAIT goes on when the value in memory meets its condition, else arms a monitor at the address with the slot parked;
a failing check traps with ACC 7. It acts for the lowest executing lane. -/
def mwaitMeetsOrParks : Prop :=
  ∀ (s : State) (i : Issue) (g : Guard) (c : MonCond) (w64 acq : Bool) (sc : Scope) (d : Operand) (m : MemArg) (l key : Nat),
    s.issuing = some i → (Instr.mwait g c w64 acq sc d m).wf →
    let X := i.lanes g; let o := exec (.mwait g c w64 acq sc d m) s; let va := laneAddr i m l
    let n := if w64 then 8 else 4
    let acc : Access := { size := n, align := n, need := { r := true, sup := i.grp.mode = .supervisor }, acc := 7, plain := false,
                          aperture := false, windows := false }
    let s0 := s.revoke i.grp.team
    let x : BitVec 64 := if w64 then i.src64 false d l else (i.srcN d l).setWidth 64
    let v : BitVec 64 := BitVec.ofNat 64 (readNat s.mem key n)
    let sx : Int := if w64 then x.toInt else (x.setWidth 32).toInt
    let sv : Int := if w64 then v.toInt else (v.setWidth 32).toInt
    let met : Prop := match c with
      | .eq => v = x | .ne => v ≠ x | .geU => x.toNat ≤ v.toNat | .gtU => x.toNat < v.toNat | .geS => sx ≤ sv | .gtS => sx < sv
    (X = 0 → Ends i o s0 i.grp) ∧
    (X.getLsbD l = true → (∀ j, j < l → X.getLsbD j = false) →
      (∀ f, s.check i acc va = .error f → f.code ≠ 0x09 →
        Traps s i o { code := f.code, addr := va, info := BitVec.ofNat 32 (f.level * 64 + 7), exmask := X, tepc := i.part.pc }) ∧
      (s.check i acc va = .ok (.dram key) →
        (met → ∃ t, Ends i o t i.grp ∧ SameBytes s t ∧ t.groups = s.groups ∧ t.monitors = s.monitors) ∧
        (¬ met → ∃ t y, Parks i o t i.grp .monitor ∧ SameBytes s t ∧ t.groups = s.groups ∧ t.monitors = s.monitors ++ [y] ∧
          y.team = i.grp.team ∧ y.gidx = i.grp.gidx ∧ y.target = .slot i.b ∧ y.addr = key ∧ y.wide = w64 ∧ y.value = x ∧ y.hit = none)))

/-- R149, R233, R421: the checks of a may-fault word pass and issue resumes; the oldest outstanding value of its kind (log 10's order; logs 30 and 75)
arrives in its registers and leaves the scoreboard; a spilled register is refilled unchanged (R111). -/
def valuesArriveAndIssueResumes : Prop :=
  ∀ (s : State) (key reg : Nat) (g : Group) (pre post : List Pending) (p : Pending) (r : VReg), s.group? key = some g →
    key < 216 * 64 →
    (g.suspended = true → exec (.translationComplete key) s = .next (s.setGroup key { g with suspended := false })) ∧
    (g.outstanding = pre ++ p :: post → (∀ q, q ∈ pre → q.atomic ≠ p.atomic) → p.dst.isReg = true → p.words ≤ 32 →
      (∀ k, k < p.words → (Operand.next p.dst k).isReg = true) →
      ∃ g', (if p.atomic then exec (.atomReply key) s else exec (.loadDataArrival key) s) = .next (s.setGroup key g') ∧
        g'.outstanding = pre ++ post ∧ { g' with vregs := g.vregs, sregs := g.sregs, outstanding := g.outstanding } = g ∧
        (∀ k, k < p.words → Wrote g g' (Operand.next p.dst k) p.mask fun l => (p.values.getD k []).getD l 0) ∧
        RegsKept g g' ((List.range p.words).map fun k => Operand.next p.dst k)) ∧
    (tabGet? g.vregs reg = some r → r.spill ≠ .none →
      ∃ g', exec (.registerRefill key reg) s = .next (s.setGroup key g') ∧ { g' with vregs := g.vregs } = g ∧
        tabGet? g'.vregs reg = some { r with spill := .none, used := 0 } ∧ ∀ n, n ≠ reg → tabGet? g'.vregs n = tabGet? g.vregs n)

/-! ## Barriers, events and mailboxes -/

/-- R367: the steps on a barrier object and the flip check that ends each; a step whose requirement fails does not happen. -/
def barrierObjectSteps : Prop :=
  ∀ (o : BarObj) (n : DWord), -32768 ≤ o.delta → o.delta ≤ 32767 → 0 ≤ (o.expected : Int) + o.delta → (o.expected : Int) + o.delta < 65536 →
    let e : Int := (o.expected : Int) + o.delta
    let flip (x : BarObj) : BarObj :=
      if 0 < x.expected ∧ x.arrived = x.expected ∧ x.pending = 0 then
        { expected := ((x.expected : Int) + x.delta).toNat, arrived := 0, delta := 0, phase := (x.phase + 1) % 65536, pending := 0 }
      else x
    o.arrive n = (if o.arrived < o.expected then some (flip { o with arrived := o.arrived + 1, pending := o.pending + n }) else none) ∧
    o.drop n = (if o.arrived < o.expected ∧ 1 ≤ e then
      some (flip { o with arrived := o.arrived + 1, pending := o.pending + n, delta := o.delta - 1 }) else none) ∧
    o.join = (if o.expected = 0 then some (flip { o with expected := 1, delta := o.delta }) else
      if e < 65535 ∧ o.delta < 32767 then some (flip { o with delta := o.delta + 1 }) else none) ∧
    o.expect n = some (flip { o with pending := o.pending + n }) ∧ o.post n = some (flip { o with pending := o.pending - n })

/-- The offset that a BAR word names, taken from lane `l`, passes the checks of R370, and its object lies in scratch. -/
def barPasses (s : State) (i : Issue) (store : Bool) (a : Operand) (l : Nat) (q : Quarter) : Prop :=
  let off := (i.srcN a l).toNat
  off % 16 = 0 ∧ off + 16 ≤ i.team.allocBytes (keyCore i.key) ∧ i.team.quarterOn (keyCore i.key) = some q ∧
  q.base * 1024 + off + 16 ≤ (s.core q.core).scratchWays * 32768 ∧
  ∃ p, s.check i { size := 16, align := 16, need := {}, acc := if store then 2 else 0, store } (BitVec.ofNat 64 (Config.scrBase + off)) = .ok p

/-- A word that has stepped the object at `off` to `o'`: it goes on, and only scratch and its own group have changed. -/
def SteppedTo (s : State) (i : Issue) (o : Host.Outcome State Fault Refusal) (q : Quarter) (off : Nat) (o' : BarObj) (g' : Group) : Prop :=
  ∃ t, o = .next t ∧ t.group? i.key = some g' ∧ SameBytes s t ∧ t.barGet q off = { o' with delta := (BitVec.ofInt 16 o'.delta).toInt } ∧
    t.teams = s.teams ∧ (∀ k, k ≠ i.key → t.group? k = s.group? k) ∧
    ∀ c x, (c ≠ q.core ∨ x < q.base * 1024 + off ∨ q.base * 1024 + off + 16 ≤ x) → cellGet (t.core c).chip x = cellGet (s.core c).chip x

/-- R366 to R370: the BAR words that step their object write the phase from before the step, enter or leave the group's record, and trap
where the step's requirement fails; `.sync` parks with that phase as its token unless the object flips; `.wait` parks while the phase is
the token's; `.test` says whether it differs. A misplaced offset traps with its address. -/
def barrierWordsStepTheirObject : Prop :=
  ∀ (s : State) (i : Issue) (g : Guard) (d a b : Operand) (l : Nat) (q : Quarter), s.issuing = some i →
    let X := i.lanes g; let off := (i.srcN a l).toNat; let o := s.barGet q off; let n : DWord := (i.srcN b l).setWidth 64
    let token := (i.srcN b l).toNat % 65536
    let low : Prop := X.getLsbD l = true ∧ ∀ k, k < l → X.getLsbD k = false
    let bad (out : Host.Outcome State Fault Refusal) : Prop := Traps s i out { code := 0x03, exmask := X, tepc := i.part.pc }
    let word (rel : Bool) (out : Host.Outcome State Fault Refusal) (step : Option BarObj) (record : List (Nat × Option Nat) → List (Nat × Option Nat)) :
        Prop :=
      (∀ t, i.budget X [d] = some t → Traps s i out t) ∧
      (i.budget X [d] = none →
        (rel = true → ¬ calm i.grp → Parks i out s i.grp .reissue) ∧
        (rel = false ∨ calm i.grp → (step = none → bad out) ∧ ∀ o', step = some o' → ∃ g', SteppedTo s i out q off o' g' ∧
          Wrote i.grp g' d X (fun _ => BitVec.ofNat 32 o.phase) ∧ RegsKept i.grp g' [d] ∧ WentOn i g' ∧
          g'.barriers = record i.grp.barriers))
    (X = 0 → (∀ out, out ∈ [exec (.barArrive g d a b) s, exec (.barDrop g d a b) s, exec (.barJoin g d a) s, exec (.barExpect g d a b) s,
      exec (.barWait g a b) s, exec (.barSync g a b) s, exec (.barTest g d a b) s] → Ends i out s i.grp)) ∧
    (low → barPasses s i true a l q →
      ((Instr.barArrive g d a b).wf → word true (exec (.barArrive g d a b) s) (o.arrive n) fun r => barEnter r off (some o.phase)) ∧
      ((Instr.barDrop g d a b).wf → word true (exec (.barDrop g d a b) s) (o.drop n) fun r =>
        (barEnter r off (some o.phase)).filter fun p => p.1 ≠ off) ∧
      ((Instr.barJoin g d a).wf → word false (exec (.barJoin g d a) s) o.join fun r => barEnter r off none) ∧
      ((Instr.barExpect g d a b).wf → word false (exec (.barExpect g d a b) s) (o.expect n) fun r => r) ∧
      (let out := exec (.barSync g a b) s
       calm i.grp → (o.arrive n = none → bad out) ∧ ∀ o', o.arrive n = some o' → ∃ g', SteppedTo s i out q off o' g' ∧
         g'.vregs = i.grp.vregs ∧ g'.sregs = i.grp.sregs ∧ g'.barriers = barEnter i.grp.barriers off (some o.phase) ∧
         (o'.phase ≠ o.phase → WentOn i g') ∧
         (o'.phase = o.phase → g'.slot i.b =
           some { i.part with wait := some (.barSync (BitVec.ofNat 64 off) (BitVec.ofNat 32 o.phase)) }))) ∧
    (low → barPasses s i false a l q →
      (let out := exec (.barWait g a b) s
       (o.phase ≠ token → Ends i out s i.grp) ∧ (o.phase = token → Parks i out s i.grp (.bar (BitVec.ofNat 64 off) (i.srcN b l)))) ∧
      ((Instr.barTest g d a b).wf → Fits s i g [d] (exec (.barTest g d a b) s)
        (Completes s i (exec (.barTest g d a b) s) [d] [] 0 fun g' => Wrote i.grp g' d X fun _ => if o.phase ≠ token then 1 else 0))) ∧
    (low → off % 16 ≠ 0 → Traps s i (exec (.barWait g a b) s)
      { code := 0x06, addr := BitVec.ofNat 64 (Config.scrBase + off), exmask := X, tepc := i.part.pc }) ∧
    (low → off % 16 = 0 → i.team.allocBytes (keyCore i.key) < off + 16 → Traps s i (exec (.barSync g a b) s)
      { code := 0x19, addr := BitVec.ofNat 64 (Config.scrBase + off), info := 2, exmask := X, tepc := i.part.pc })

/-- R368: a record of participation: entering puts an object in once, as the latest, with its phase of arrival; a fifth object displaces
the least recently entered. -/
def participationRecordHoldsFour : Prop :=
  ∀ (l : List (Nat × Option Nat)) (off : Nat) (ph : Option Nat), l.length ≤ 4 → (l.map Prod.fst).Nodup →
    let r := barEnter l off ph
    r.length ≤ 4 ∧ (r.map Prod.fst).Nodup ∧ off ∈ r.map Prod.fst ∧ (∀ p, ph = some p → (off, some p) ∈ r) ∧
    (∀ x y, x ≠ off → (x, y) ∈ r → (x, y) ∈ l) ∧
    (r.getLast?).map Prod.fst = some off ∧ (∀ p, ph = none → (off, p) ∈ l → (off, p) ∈ r) ∧
    (l.length < 4 ∨ off ∈ l.map Prod.fst → ∀ x y, x ≠ off → (x, y) ∈ l → (x, y) ∈ r) ∧
    (∀ x t, l = x :: t → l.length = 4 → off ∉ l.map Prod.fst → r = t ++ [(off, ph)])

/-- R374, R375, R377 to R380, R383: EVARM puts its kind, object, target and handler in the slot and arms it, pending at once when its condition
holds already; CNT and MON watch their word through a monitor of the group, and suspend its issue until their check has passed; a slot beyond EVENTS, a handler offset beyond 24 bits or a
ring the team does not hold traps. -/
def evarmArmsItsSlot : Prop :=
  ∀ (s : State) (i : Issue) (g : Guard) (k : EvKind) (n : Nat) (c : EvCond) (t : IntType) (a b h : Operand) (l key : Nat),
    s.issuing = some i → (Instr.evarm g k n c t a b h).wf → i.grp.events.length = 16 → i.part.wait = none →
    let X := i.lanes g; let o := exec (.evarm g k n c t a b h) s
    let obj : DWord := if k = .cnt ∨ k = .mon ∨ k = .time then i.src64 false a l else (i.srcN a l).setWidth 64
    let tgt : DWord := match k with
      | .bar => (i.srcN b l).setWidth 64
      | .cnt => i.src64 false b l
      | .mon => if t.is64 then i.src64 false b l else (i.srcN b l).setWidth 64
      | _ => 0
    let hofs := i.srcN h l
    let ok : Prop := n < cardEvents i.team.card ∧ hofs.toNat < 2 ^ 24 ∧ (k = .mbx → obj.toNat ≤ 255)
    let ringed : Prop := k = .rfill ∨ k = .rfree ∨ k = .pipe
    let armed (g' : Group) (pend : Bool) : Prop :=
      (g'.ev n).armed = true ∧ (g'.ev n).kind = k ∧ (g'.ev n).cond = c ∧ (g'.ev n).type = t ∧ (g'.ev n).object = obj ∧
      (g'.ev n).target = tgt ∧ (g'.ev n).hofs = hofs ∧ (k ≠ .mbx → (g'.ev n).pend = pend) ∧
      (∀ m, m ≠ n → (g'.ev m).armed = (i.grp.ev m).armed ∧ (g'.ev m).kind = (i.grp.ev m).kind ∧ (g'.ev m).object = (i.grp.ev m).object ∧
        (g'.ev m).target = (i.grp.ev m).target ∧ (g'.ev m).hofs = (i.grp.ev m).hofs) ∧
      g'.vregs = i.grp.vregs ∧ g'.sregs = i.grp.sregs ∧ g'.preds = i.grp.preds ∧ g'.evmask = i.grp.evmask
    let mine (m : Monitor) : Prop := m.team = i.grp.team ∧ m.gidx = i.grp.gidx ∧ m.target = .event n
    (X = 0 → Ends i o s i.grp) ∧
    (X.getLsbD l = true → (∀ j, j < l → X.getLsbD j = false) →
      (¬ ok → Traps s i o { code := 0x03, exmask := X, tepc := i.part.pc }) ∧
      (ok → ringed → i.team.ring? obj.toNat = none → Traps s i o { code := 0x03, exmask := X, tepc := i.part.pc }) ∧
      (ok → (ringed → i.team.ring? obj.toNat ≠ none) → k ≠ .cnt → k ≠ .mon →
        (k = .bar → obj.toNat % 16 = 0 ∧ obj.toNat + 16 ≤ i.team.allocBytes (keyCore i.key)) →
        let cond := (s.slotCond (keyCore i.key) i.team { armed := true, kind := k, cond := c, type := t, object := obj, target := tgt, hofs }).isSome ||
          (k = .time && decide (obj.toNat ≤ s.time.toNat))
        ∃ u g', Ends i o u g' ∧ SameBytes s u ∧ armed g' cond ∧ ∀ m, m ∈ u.monitors ↔ m ∈ s.monitors ∧ ¬ mine m) ∧
      (ok → k = .cnt ∨ k = .mon →
        let wide := k = .cnt || t.is64; let w := if wide then 8 else 4
        s.check i { size := w, align := w, need := { r := true, sup := i.grp.mode = .supervisor }, acc := 7, plain := false,
                    aperture := false, windows := false } obj = .ok (.dram key) →
        let v : DWord := BitVec.ofNat 64 (readNat s.mem key w)
        let test : MonTest := if k = .cnt then .geU else match c with
          | .eq => .eq | .ne => .ne | .ge => if t.signed then .geS else .geU | .gt => if t.signed then .gtS else .gtU
        let met := test.holds wide v tgt
        ∃ u g', Ends i o u g' ∧ SameBytes s u ∧ armed g' met ∧ g'.suspended = true ∧
          (met = true → (g'.ev n).data = [v.setWidth 32, (v >>> 32).setWidth 32] ∧ ∀ m, m ∈ u.monitors ↔ m ∈ s.monitors ∧ ¬ mine m) ∧
          (met = false → ∃ y, u.monitors = (s.monitors.filter fun m => ¬ (m.team = i.grp.team ∧ m.gidx = i.grp.gidx ∧ m.target = .event n)) ++ [y] ∧
            mine y ∧ y.addr = key ∧ y.wide = wide ∧ y.test = test ∧ y.value = tgt ∧ y.hit = none)))

/-- R385: EVDIS reports the pending bits of its mask and disarms the named slots below EVENTS. -/
def evdisDisarms : Prop :=
  ∀ (s : State) (i : Issue) (g : Guard) (d b : Operand) (l : Nat), s.issuing = some i → (Instr.evdis g d b).wf → i.grp.events.length = 16 →
    i.part.wait = none →
    let X := i.lanes g; let o := exec (.evdis g d b) s; let B := i.srcN b l
    let named (n : Nat) : Prop := n < 16 ∧ n < cardEvents i.team.card ∧ B.getLsbD n = true
    (X = 0 → Ends i o s i.grp) ∧
    (X.getLsbD l = true → (∀ j, j < l → X.getLsbD j = false) → Fits s i g [d] o
      (∃ u g', Ends i o u g' ∧ SameBytes s u ∧
        Wrote i.grp g' d X (fun _ => maskOf fun n => n < 16 && (i.grp.ev n).pend && B.getLsbD n) ∧ RegsKept i.grp g' [d] ∧
        (∀ n, named n → (g'.ev n).armed = false ∧ (g'.ev n).pend = false) ∧
        (∀ n, ¬ named n → (g'.ev n).armed = (i.grp.ev n).armed ∧ (g'.ev n).kind = (i.grp.ev n).kind) ∧
        ∀ m, m ∈ u.monitors ↔ m ∈ s.monitors ∧ ¬ (m.team = i.grp.team ∧ m.gidx = i.grp.gidx ∧ ∃ n, named n ∧ m.target = .event n)))

/-- Slot `n` of a group takes an unbound token with this tag (R388). -/
def takesTag (g : Group) (n tag : Nat) : Prop :=
  n < 16 ∧ (g.ev n).armed = true ∧ (g.ev n).kind = .mbx ∧ (∀ t, t ∈ g.mailbox → t.slot ≠ some n) ∧
    ((g.ev n).object.toNat = tag ∨ (g.ev n).object.toNat = 255)

/-- No unbound token of a group has a slot that takes it (R388). -/
def tokensSettled (g : Group) : Prop := ∀ t, t ∈ g.mailbox → t.slot = none → ∀ n, ¬ takesTag g n t.tag

/-- R381 to R383: WAITANY traps in a handler, with other parts, or when its mask names no armed enabled slot; dispatches the lowest pending
slot it names, disarming it, with EVSLOT and EVDATA set and the part at ENTRY + HOFS x 64, an MBX slot with the tag and sender of its token,
which leaves the queue; and parks when none is pending. -/
def waitanyDispatchesLowest : Prop :=
  ∀ (s : State) (i : Issue) (b : Operand) (n : Nat), s.issuing = some i → (Instr.waitany b).wf → i.grp.events.length = 16 →
    i.part.reissue = none → i.part.wait = none → i.part.mask ≠ 0 →
    let o := exec (.waitany b) s
    ∀ l, i.part.mask.getLsbD l = true → (∀ j, j < l → i.part.mask.getLsbD j = false) →
      let M := i.srcN b l; let R (k : Nat) : Bool := k < 16 && (i.grp.ev k).pend && i.grp.evmask.getLsbD k && M.getLsbD k
      let bad : Prop := i.grp.mode ≠ .normal ∨ 1 < i.grp.parts.length ∨
        ∀ k, k < 16 → (M.getLsbD k && i.grp.evmask.getLsbD k && (i.grp.ev k).armed) = false
      let e := i.grp.ev n
      let target : DWord := BitVec.ofNat 64 (cardEntry i.team.card + e.hofs.toNat * 64)
      (bad → Traps s i o { code := 0x03, exmask := i.part.mask, tepc := i.part.pc }) ∧
      (¬ bad → (∀ k, R k = false) → Parks i o s i.grp (.waitany (M &&& 0xFFFF))) ∧
      (¬ bad → R n = true → (∀ k, k < n → R k = false) → e.kind ≠ .mbx → ¬ badTarget target →
        ∃ u g', o = .next u ∧ u.group? i.key = some g' ∧ SameBytes s u ∧ g'.slot i.b = some (i.part.goTo target) ∧
          (g'.ev n).armed = false ∧ (g'.ev n).pend = false ∧ bits g'.evslot 3 0 = n ∧ bits g'.evslot 7 4 = e.kind.toNat ∧
          bits g'.evslot 31 8 = 0 ∧ (∀ k, k < 4 → g'.evdata.getD k 0 = e.data.getD k 0) ∧
          g'.vregs = i.grp.vregs ∧ g'.sregs = i.grp.sregs) ∧
      (¬ bad → R n = true → (∀ k, k < n → R k = false) → e.kind = .mbx → ¬ badTarget target → tokensSettled i.grp →
        ∀ tok, i.grp.mailbox.find? (fun t => t.slot == some n) = some tok → tok.tag < 256 → tok.sender < 64 →
          ∃ u g', o = .next u ∧ u.group? i.key = some g' ∧ SameBytes s u ∧ g'.slot i.b = some (i.part.goTo target) ∧
            (g'.ev n).armed = false ∧ (g'.ev n).pend = false ∧ bits g'.evslot 3 0 = n ∧ bits g'.evslot 7 4 = e.kind.toNat ∧
            bits g'.evslot 21 16 = tok.sender ∧ bits g'.evslot 31 24 = tok.tag ∧ (∀ k, k < 4 → g'.evdata.getD k 0 = e.data.getD k 0) ∧
            g'.mailbox = i.grp.mailbox.filter (fun t => t.slot ≠ some n) ∧ g'.vregs = i.grp.vregs ∧ g'.sregs = i.grp.sregs)

/-- R374, R383, R388: a token that arrives binds to the lowest-numbered armed MBX slot that takes it and makes it pending with its payload; one
that no slot takes stays queued, unbound. When a slot is armed, the oldest unbound token that it takes binds. -/
def mbxTokensBind : Prop :=
  ∀ (x : Group) (tok : MailToken) (n : Nat), x.events.length = 16 → tokensSettled x → tok.slot = none →
    let x' : Group := { x with mailbox := x.mailbox ++ [tok] }
    let y := x'.bindTokens
    ((∀ m, ¬ takesTag x m tok.tag) → y = x') ∧
    (takesTag x n tok.tag → (∀ m, m < n → ¬ takesTag x m tok.tag) → (x.ev n).pend = false →
      y.mailbox = x.mailbox ++ [{ tok with slot := some n }] ∧ (y.ev n).pend = true ∧ (y.ev n).data = tok.payload ∧
      (∀ m, m ≠ n → y.ev m = x.ev m) ∧ y.vregs = x.vregs ∧ y.sregs = x.sregs ∧ y.preds = x.preds ∧
      (x.evmask.getLsbD n = true → ∀ b p, x.slot b = some p → ∀ t, p.wait = some (.sleep t) → y.slot b = some (p.goTo (p.pc + 8)))) ∧
    ∀ (e : EvSlot) (pre post : List MailToken) (t : MailToken), x.mailbox = pre ++ t :: post → t.slot = none → n < 16 →
      e.armed = true → e.pend = false → e.kind = .mbx → (e.object.toNat = t.tag ∨ e.object.toNat = 255) →
      (∀ k, k ∈ pre → k.slot = none → e.object.toNat ≠ k.tag ∧ e.object.toNat ≠ 255) → (∀ k, k ∈ x.mailbox → k.slot ≠ some n) →
      let z := (x.setEv n e).bindTokens
      z.mailbox = pre ++ { t with slot := some n } :: post ∧ (z.ev n).pend = true ∧ (z.ev n).data = t.payload

/-- R387 to R389, R417: MBOX, once the checks of R389 have passed, answers 1 for a group that is not live, 2 (with `.try`) or parks when four tokens are queued, waits for the group's earlier accesses, and then
appends its token and answers 0; a target beyond the team, or itself with a full queue and no `.try`, traps. Eligibility is revoked. -/
def mboxSendsAToken : Prop :=
  ∀ (s : State) (i : Issue) (g : Guard) (try_ : Bool) (tag : BitVec 8) (d a p : Operand) (l key : Nat) (x : Group), s.issuing = some i →
    (Instr.mbox g try_ tag d a p).wf →
    let X := i.lanes g; let o := exec (.mbox g try_ tag d a p) s; let r := (i.srcN a l).toNat; let s0 := s.revoke i.grp.team
    let live := i.team.live r = true
    let low : Prop := X.getLsbD l = true ∧ ∀ j, j < l → X.getLsbD j = false
    let answers (t : State) (g1 : Group) (v : Word) : Prop := ∃ g', Ends i o t g' ∧ Wrote g1 g' d X (fun _ => v) ∧ RegsKept g1 g' [d] ∧
      { g' with vregs := g1.vregs, sregs := g1.sregs } = g1
    let revoked (t : State) : Prop := SameBytes s t ∧ (t.team? i.grp.team).map Team.revoked = some true
    (X = 0 → Ends i o s0 i.grp) ∧
    (low → i.team.fates.length ≤ r → Traps s i o { code := 0x03, exmask := X, tepc := i.part.pc }) ∧
    let tok : MailToken := { tag := tag.toNat, sender := i.grp.gidx,
                             payload := [i.srcN p l, i.srcN (Operand.next p 1) l, i.srcN (Operand.next p 2) l, i.srcN (Operand.next p 3) l] }
    let takes (x y : Group) : Prop := y = ({ x with mailbox := x.mailbox ++ [tok] } : Group).bindTokens
    let selfFull : Prop := live ∧ try_ = false ∧ r = i.grp.gidx ∧ 4 ≤ i.grp.mailbox.length ∧ s.groupKey i.grp.team r = some i.key
    (low → selfFull → Traps s i o { code := 0x03, exmask := X, tepc := i.part.pc }) ∧
    (low → i.budget X [d] = none → r < i.team.fates.length →
      (¬ live → answers s0 i.grp 1 ∧ revoked s0) ∧
      (live → s.groupKey i.grp.team r = some key → s.group? key = some x →
        (4 ≤ x.mailbox.length → try_ = true → answers s0 i.grp 2) ∧
        (4 ≤ x.mailbox.length → try_ = false → r ≠ i.grp.gidx → Parks i o s0 i.grp .reissue) ∧
        (x.mailbox.length < 4 → ¬ calm i.grp → Parks i o s0 i.grp .reissue) ∧
        (x.mailbox.length < 4 → calm i.grp → key ≠ i.key → ∃ t y, answers t i.grp 0 ∧ revoked t ∧ t.group? key = some y ∧ takes x y) ∧
        (x.mailbox.length < 4 → calm i.grp → key = i.key → i.part.wait = none → ∃ t y, answers t y 0 ∧ revoked t ∧ takes x y))) ∧
    (∀ t, low → r < i.team.fates.length → (live → r ≠ i.grp.gidx ∨ try_ = true ∨
      ∀ k y, s.groupKey i.grp.team r = some k → s.group? k = some y → y.mailbox.length < 4) → i.budget X [d] = some t → Traps s i o t)

/-- A part waits at a SLEEP. -/
def sleeping (p : Part) : Bool :=
  match p.wait with
  | some (.sleep _) => true
  | _ => false

/-- R204, R390: when a group wakes, its sleeping slots go on at the next word, and the sleeps of the parts in its frames are over; the rest
of the group stays. -/
def wakingEndsEverySleep : Prop :=
  ∀ x : Group,
    let y := x.wakeSleep; let go (p : Part) : Part := if sleeping p then p.goTo (p.pc + 8) else p
    let ended (p : Part) : Part := if sleeping p then { p with wait := some (.sleep 0) } else p
    let frame (f : Frame) : Frame := { f with slotA := f.slotA.map ended, slotB := f.slotB.map ended }
    y = { x with slotA := x.slotA.map go, slotB := x.slotB.map go, uframe := frame x.uframe, sframe := frame x.sframe }

/-- R204, R375: SLEEP parks for the longest duration of its executing lanes, 0 acts as YIELD; the slot goes on when TIME reaches the
deadline; an armed TIME slot whose deadline has come becomes pending with TIME as its data. -/
def sleepAndDeadlines : Prop :=
  ∀ (s : State) (i : Issue) (g : Guard) (b : Operand) (D : Nat), s.issuing = some i →
    let X := i.lanes g; let o := exec (.sleep g b) s
    (X = 0 → Ends i o s i.grp) ∧
    ((∃ l, X.getLsbD l = true ∧ (i.srcN b l).toNat = D) → (∀ l, X.getLsbD l = true → (i.srcN b l).toNat ≤ D) →
      (D = 0 → o = exec .yield s) ∧ (0 < D → Parks i o s i.grp (.sleep (s.time.toNat + D)))) ∧
    ∀ (key : Nat) (b : Bool) (x : Group) (p : Part) (t n : Nat), s.group? key = some x →
      (x.slot b = some p → p.wait = some (.sleep t) → t ≤ s.time.toNat →
        exec (.sleepWake key b) s = .next (s.setGroup key (x.setSlot b (some (p.goTo (p.pc + 8)))))) ∧
      (x.events.length = 16 → n < 16 → (x.ev n).armed = true → (x.ev n).pend = false → (x.ev n).kind = .time →
        (x.ev n).object.toNat ≤ s.time.toNat →
        ∃ x', exec (.eventDeadline key n) s = .next (s.setGroup key x') ∧ (x'.ev n).pend = true ∧
          (x'.ev n).data = [s.time.setWidth 32, (s.time >>> 32).setWidth 32] ∧ (∀ m, m ≠ n → x'.ev m = x.ev m) ∧
          { x' with events := x.events } = (if x.evmask.getLsbD n then x.wakeSleep else x) ∧
          x'.vregs = x.vregs ∧ x'.sregs = x.sregs ∧ x'.preds = x.preds ∧ x'.mailbox = x.mailbox)

/-! ## REGROUP -/

/-- A group that waits at a REGROUP, alone in its slot `b`, since front cycle `n` of its core. -/
def AtRegroup (x : Group) (b : Bool) (p : Part) (buddy : Bool) (d vF vL : Operand) (n : Nat) : Prop :=
  x.slot b = some p ∧ x.slot (!b) = none ∧ p.wait = some (.regroup buddy d vF vL n)

/-- The registers of a live range (R195). -/
def inRange (vF vL : Operand) (r : Nat) : Prop :=
  match vF, vL with
  | .v a, .v b => a ≤ r ∧ r ≤ b
  | _, _ => False

/-- R198: the survivor `S`, in slot `b` with part `p`, and the donor `D` with part `q` have paired: the survivor's new lanes, ascending,
take the active lanes of `p`, then those of `q`, with the registers of the range, the predicates and the lane origins; its other vector
registers are unbound, `d` is 0, its uniform registers and slots stay, EVCXL has counted the donor's armed slots and queued tokens (R391), and
the donor has exited. -/
def Paired (t : State) (kS : Nat) (S : Group) (b : Bool) (p : Part) (kD : Nat) (D : Group) (q : Part) (d vF vL : Operand) (team : Team) :
    Prop :=
  let ls := lanesOf p.mask; let ld := lanesOf q.mask; let n := ls.length + ld.length
  let word (fS fD : Nat → Word) (k : Nat) : Word := if k < ls.length then fS (ls.getD k 0) else fD (ld.getD (k - ls.length) 0)
  let bool (fS fD : Nat → Bool) (k : Nat) : Bool := if k < ls.length then fS (ls.getD k 0) else fD (ld.getD (k - ls.length) 0)
  (∃ g', t.group? kS = some g' ∧ g'.slot b = some { p.goTo (p.pc + 8) with mask := maskOf fun l => l < n } ∧
    (∀ k, k < n → g'.lorigin.getD k 0 = word (fun l => S.lorigin.getD l 0) (fun l => D.lorigin.getD l 0) k) ∧
    (∀ m, 1 ≤ m → m < 8 → ∀ k, k < n →
      (g'.pred m).getLsbD k = bool (fun l => (S.pred m).getLsbD l) (fun l => (D.pred m).getLsbD l) k) ∧
    (∀ r, .v r ≠ d →
      (inRange vF vL r → g'.bound r = true ∧ ∀ k, k < 32 → g'.v r k = if k < n then word (S.v r) (D.v r) k else 0) ∧
      (¬ inRange vF vL r → g'.bound r = false)) ∧
    (∀ k, k < n → match d with | .v r => g'.v r k = 0 | .s r => g'.sreg r = 0 | _ => True) ∧
    (∀ r, r < 32 → .s r ≠ d → g'.sreg r = S.sreg r) ∧ g'.events = S.events ∧ g'.mailbox = S.mailbox ∧ g'.gidx = S.gidx ∧
    bits g'.evcxl 15 0 = min 0xFFFF (bits S.evcxl 15 0 + D.events.countP EvSlot.armed) ∧
    bits g'.evcxl 31 16 = min 0xFFFF (bits S.evcxl 31 16 + D.mailbox.length)) ∧
  (∃ y, t.group? kD = some y ∧ y.slotA = none ∧ y.slotB = none ∧ y.stack = [] ∧ y.events = List.replicate 16 {} ∧ y.mailbox = []) ∧
  (t.team? S.team).map Team.fates = some (team.fates.set D.gidx .exited)

/-! ## The walk engine -/

/-- R257, R258: KICK checks its operands, the range of its records and then the records; waits for the group's earlier accesses and for
room; and queues its records in order, with no STATUS and nothing done. -/
def kickChecksAndQueuesRecords : Prop :=
  ∀ (s : State) (i : Issue) (g : Guard) (a b : Operand) (q : Quarter) (l : Nat), s.issuing = some i → (Instr.kick g a b).wf →
    let c := keyCore i.key; i.team.quarterOn c = some q →
    let X := i.lanes g; let o := exec (.kick g a b) s
    let off := (i.srcN a l).toNat; let n := (i.srcN b l).toNat; let room := i.team.allocBytes c
    let va : DWord := BitVec.ofNat 64 (Config.scrBase + off)
    let rec_ (k : Nat) : List DWord := s.readRecord q (off + 64 * k)
    let core := s.core c
    let locks := (List.range n).countP fun k => takesLock s i.grp.team i.team (rec_ k)
    (X = 0 → Ends i o s i.grp) ∧
    (X.getLsbD l = true → (∀ j, j < l → X.getLsbD j = false) →
      (n = 0 ∨ 32 < n → Traps s i o { code := 0x03, exmask := X, tepc := i.part.pc }) ∧
      (0 < n → n ≤ 32 →
        (off % 64 ≠ 0 → Traps s i o { code := 0x06, addr := va, exmask := X, tepc := i.part.pc }) ∧
        (off % 64 = 0 → room < off + 64 * n → Traps s i o { code := 0x19, addr := va, exmask := X, tepc := i.part.pc }) ∧
        (off % 64 = 0 → off + 64 * n ≤ room →
          (∀ k, k < n → recordBad s i (rec_ k) = true → (∀ j, j < k → recordBad s i (rec_ j) = false) →
            Traps s i o { code := 0x03, info := BitVec.ofNat 32 k, exmask := X, tepc := i.part.pc }) ∧
          ((∀ k, k < n → recordBad s i (rec_ k) = false) →
            (¬ calm i.grp ∨ 256 < core.requests.length + n ∨ 64 < core.locks.length + locks → Parks i o s i.grp .reissue) ∧
            (calm i.grp → core.requests.length + n ≤ 256 → core.locks.length + locks ≤ 64 →
              ∃ t g' rs, o = .next t ∧ t.group? i.key = some g' ∧ Suspends i g' ∧ g'.vregs = i.grp.vregs ∧ g'.sregs = i.grp.sregs ∧
                SameBytes s t ∧ (t.core c).requests = core.requests ++ rs ∧
                rs.map (fun r : Request => (r.team, r.gidx, r.recOff, r.record)) =
                  (List.range n).map (fun k => (i.grp.team, i.grp.gidx, off + 64 * k, rec_ k)) ∧
                (∀ r ∈ rs, r.done = 0 ∧ r.phase = .waiting ∧ r.slot = none ∧ r.window = none) ∧
                (t.core c).locks.length = core.locks.length + locks)))))

/-- R244: the element at a dense place, dimension 0 fastest, is SRC plus the sum of index times stride, modulo 2^64, where every index
lies within its bounds, and is fill elsewhere. -/
def tileElementAddresses : Prop :=
  ∀ (d : List DWord) (x : Nat),
    let e := recExt d; let str := recStride d
    let i0 := x % e 0; let i1 := x / e 0 % e 1; let i2 := x / (e 0 * e 1) % e 2; let i3 := x / (e 0 * e 1 * e 2) % e 3
    let inside : Prop := (recLo d 0 ≤ i0 ∧ i0 < recHi d 0) ∧ (recLo d 1 ≤ i1 ∧ i1 < recHi d 1) ∧ (recLo d 2 ≤ i2 ∧ i2 < recHi d 2) ∧
      (recLo d 3 ≤ i3 ∧ i3 < recHi d 3)
    (inside → recElement d x =
      some (((recSrc d : Int) + i0 * str 0 + i1 * str 1 + i2 * str 2 + i3 * str 3) % 2 ^ 64).toNat) ∧
    (¬ inside → recElement d x = none) ∧
    (str 0 = 2 ^ bits (dwordAt d 0) 63 62 ∧ str 1 = (BitVec.ofNat 32 (bits (dwordAt d 3) 63 32)).toInt ∧
      str 2 = (BitVec.ofNat 32 (bits (dwordAt d 3) 31 0)).toInt ∧ str 3 = (BitVec.ofNat 32 (bits (dwordAt d 4) 63 32)).toInt) ∧
    recFill d = (List.range (2 ^ bits (dwordAt d 0) 63 62)).map fun k => (dwordAt d 4).extractLsb' (8 * (k % 4)) 8

/-- The requests of a core other than `id`, in order. -/
def others (c : Core) (id : Nat) : List Request := c.requests.filter fun r => r.id ≠ id

/-- R242, R246, R247, R251, R253, R410: the events of a request. A step into scratch writes its bytes at DST + DONE and counts them; after the last
step the request has left the engine with its locks. A request for a ring takes the next free slot when it is first in line, and ends
when the ring is not open. A window's copy that has ended makes its window PRESENT. Software resumes a stopped request
or ends it with the STATUS of its trap, by the number that TINFO gives; that number names the writer's own request where two of a core have it (log 90). -/
def requestEvents : Prop :=
  ∀ (s : State) (c id : Nat) (r : Request) (t : Team), (s.core c).requests.find? (fun x => x.id == id) = some r → s.team? r.team = some t →
    let T := recBytes r.record; let n := min 4096 (T - r.done); let esz := recEsz r.record
    (∀ q bs, t.quarterOn c = some q → recDkind r.record = 1 → recMc r.record = false → recCkind r.record = 0 → r.window = none →
      (r.phase = .waiting ∨ r.phase = .running) → r.done < T →
      s.elements c t r.record (r.done / esz) (n / esz) = .ok bs →
      let w := s.writeLoc (.win q.core (q.base * 1024 + recDst r.record + r.done)) bs
      ∃ u, exec (.walkStepRetire c id) s = .next u ∧ u.mem = w.mem ∧ (∀ k, (u.core k).chip = (w.core k).chip) ∧
        (r.done + n < T → (w.core c).requests = (s.core c).requests →
          (u.core c).requests = (s.core c).requests.map fun x => if x.id = r.id then { r with done := r.done + n, phase := .running } else x) ∧
        (T ≤ r.done + n → (w.core c).requests = (s.core c).requests → (u.core c).requests = others (s.core c) r.id ∧
          ∀ k ∈ (u.core c).locks, k.owner ≠ .request r.id)) ∧
    (∀ h x, recDkind r.record = 4 → r.slot = none → h = recDst r.record % 16 → t.ring? h = some x →
      (x.state = .opened → 0 < x.free → x.waiters.head? = some (.request c id) →
        ∃ u t' y, exec (.ringAcquireRequest c id) s = .next u ∧ SameBytes s u ∧ u.team? r.team = some t' ∧ t'.ring? h = some y ∧
          y.free = x.free - 1 ∧ y.pidx = (x.pidx + 1) % x.n ∧ y.writing = x.writing ++ [(x.pidx, .request c id)] ∧
          (u.core c).requests = (s.core c).requests.map fun z => if z.id = r.id then { r with slot := some x.pidx } else z) ∧
      (x.state ≠ .opened → r.window = none →
        ∃ u, exec (.ringAcquireRequest c id) s = .next u ∧ ∀ z ∈ (u.core c).requests, z.id ≠ r.id)) ∧
    (∀ h w, r.window = some h → t.window? h = some w → T ≤ r.done →
      ∃ u t' w', exec (.windowCopyEnd c id) s = .next u ∧ SameBytes s u ∧ (u.core c).requests = others (s.core c) id ∧
        u.team? r.team = some t' ∧ t'.window? h = some w' ∧ w' = { w with state := .present }) ∧
    (∀ addr info, r.phase = .stopped addr info → (∀ x, x ∈ (s.core c).requests → x.num = r.num → x.isStopped = true → x = r) →
      (∃ u, exec (.walkactResume c r.num) s = .next u ∧ SameBytes s u ∧
        (u.core c).requests = (s.core c).requests.map fun x => if x.id = r.id then { r with phase := .running } else x) ∧
      exec (.walkactEnd c r.num) s = .next (s.endRequest c r (info.toNat / 256 % 16)) ∧
      ∀ z, z ∈ ((s.endRequest c r (info.toNat / 256 % 16)).core c).requests → z.id ≠ r.id)

/-! ## Regions and rings -/

/-- R251: the four indivisible steps on a ring of at most 64 slots. free-acquire and fill-acquire take the slots in turn; publish and release
mark a slot and move their front over the marked run that then starts there, counting it into FILLED or FREE. -/
def ringSteps : Prop :=
  ∀ (r : Ring) (x : Nat) (who : Acquirer), 0 < r.n → r.n ≤ 64 → x < r.n → r.pubf < r.n → r.relf < r.n →
    (let queue := r.waiters.filter (· ≠ who); let held := r.writing ++ [(r.pidx, who)]
     r.freeAcquire who = (r.pidx, { r with pidx := (r.pidx + 1) % r.n, free := r.free - 1, writing := held, waiters := queue })) ∧
    (r.fillAcquire = (r.cidx, { r with cidx := (r.cidx + 1) % r.n, filled := r.filled - 1, reading := r.reading ++ [r.cidx] })) ∧
    (let marked (k : Nat) : Bool := k = x || r.published.getLsbD k
     ∃ m, m ≤ r.n ∧ (∀ j, j < m → marked ((r.pubf + j) % r.n) = true) ∧ (m < r.n → marked ((r.pubf + m) % r.n) = false) ∧
       (r.publish x).filled = r.filled + m ∧ (r.publish x).pubf = (r.pubf + m) % r.n ∧
       (∀ k, k < r.n → (r.publish x).published.getLsbD k = (marked k && decide (∀ j, j < m → k ≠ (r.pubf + j) % r.n))) ∧
       (r.publish x).writing = r.writing.filter (fun p => p.1 ≠ x) ∧ (r.publish x).free = r.free ∧ (r.publish x).released = r.released) ∧
    (let marked (k : Nat) : Bool := k = x || r.released.getLsbD k
     ∃ m, m ≤ r.n ∧ (∀ j, j < m → marked ((r.relf + j) % r.n) = true) ∧ (m < r.n → marked ((r.relf + m) % r.n) = false) ∧
       (r.release x).free = r.free + m ∧ (r.release x).relf = (r.relf + m) % r.n ∧
       (∀ k, k < r.n → (r.release x).released.getLsbD k = (marked k && decide (∀ j, j < m → k ≠ (r.relf + j) % r.n))) ∧
       (r.release x).reading = r.reading.filter (· ≠ x) ∧ (r.release x).filled = r.filled ∧ (r.release x).published = r.published)

/-- R252, R260 to R262: RACQ answers BROKEN, CLOSED, NONE with `.try`, or a slot by the step of R251, and parks when there is none; RPUB
and RREL check that a group holds the slot, wait for the group's outstanding reads, and publish or release it; on a broken ring they do nothing.
A handle that is no ring of the team traps. -/
def ringWordsStepTheirRing : Prop :=
  ∀ (s : State) (i : Issue) (g : Guard) (h : Nat) (try_ : Bool) (d a : Operand) (l : Nat), s.issuing = some i →
    (Instr.racqFill g h try_ d).wf →
    let X := i.lanes g
    let fill := exec (.racqFill g h try_ d) s; let free := exec (.racqFree g h try_ d) s
    let pub := exec (.rpub g h a) s; let rel := exec (.rrel g h a) s
    let k := (i.srcN a l).toNat; let me : Acquirer := .group i.grp.gidx
    let answers (o : Host.Outcome State Fault Refusal) (t : State) (v : Word) : Prop :=
      ∃ g', Ends i o t g' ∧ Wrote i.grp g' d X (fun _ => v) ∧ RegsKept i.grp g' [d] ∧
        { g' with vregs := i.grp.vregs, sregs := i.grp.sregs } = i.grp
    let ring (r : Ring) : State := s.setTeam i.grp.team (i.team.setRing h r)
    let bad (o : Host.Outcome State Fault Refusal) (v : Word) : Prop := Traps s i o { code := 0x03, info := v, exmask := X, tepc := i.part.pc }
    (X = 0 → Ends i fill s i.grp ∧ Ends i free s i.grp ∧ Ends i pub s i.grp ∧ Ends i rel s i.grp) ∧
    (X.getLsbD l = true → (∀ j, j < l → X.getLsbD j = false) →
      (i.team.ring? h = none → bad fill 0 ∧ bad free 0 ∧ bad pub 0 ∧ bad rel 0) ∧
      (∀ r, i.team.ring? h = some r →
        (∀ t, i.budget X [d] = some t → Traps s i fill t ∧ Traps s i free t) ∧
        (i.budget X [d] = none →
          (r.state = .broken → answers fill s 0xFFFFFFFD ∧ answers free s 0xFFFFFFFD) ∧
          (r.state ≠ .broken → 0 < r.filled → answers fill (ring r.fillAcquire.2) (BitVec.ofNat 32 r.cidx)) ∧
          (r.state = .closed → (r.filled = 0 → answers fill s 0xFFFFFFFE) ∧ answers free s 0xFFFFFFFE) ∧
          (r.state = .opened → r.filled = 0 →
            (try_ = true → answers fill s 0xFFFFFFFF) ∧ (try_ = false → Parks i fill s i.grp .reissue)) ∧
          (r.state = .opened → 0 < r.free → (r.waiters = [] ∨ r.waiters.head? = some me) →
            answers free (ring (r.freeAcquire me).2) (BitVec.ofNat 32 r.pidx)) ∧
          (r.state = .opened → (r.free = 0 ∨ (r.waiters ≠ [] ∧ r.waiters.head? ≠ some me)) →
            (try_ = true → answers free s 0xFFFFFFFF) ∧
            (try_ = false → Parks i free (ring { r with waiters := if me ∈ r.waiters then r.waiters else r.waiters ++ [me] }) i.grp .reissue))) ∧
        (r.state = .broken → Ends i pub s i.grp ∧ Ends i rel s i.grp) ∧
        (r.state ≠ .broken →
          ((∀ m, (k, Acquirer.group m) ∉ r.writing) → bad pub (BitVec.ofNat 32 k)) ∧
          (k ∉ r.reading → bad rel (BitVec.ofNat 32 k)) ∧
          (∀ m, (k, Acquirer.group m) ∈ r.writing → ¬ calm i.grp → Parks i pub s i.grp .reissue) ∧
          (k ∈ r.reading → ¬ calm i.grp → Parks i rel s i.grp .reissue) ∧
          (∀ m, (k, Acquirer.group m) ∈ r.writing → calm i.grp → ∃ tm, Ends i pub (s.setTeam i.grp.team tm) i.grp ∧
            (∀ y, tm.ring? h = some y → { y with state := r.state } = r.publish k ∧ (y.state = r.state ∨ (r.state = .opened ∧ y.state = .closed))) ∧
            (i.team.roleExited r.owner = false → tm.ring? h = some (r.publish k))) ∧
          (k ∈ r.reading → calm i.grp → Ends i rel (ring (r.release k)) i.grp))))

/-! ## The matrix engine -/

/-- An engine word that has nothing to wait for under R105: the group's team has a quarter on its core, and its other slot is empty. -/
def Engine (s : State) (i : Issue) (q : Quarter) : Prop :=
  s.issuing = some i ∧ i.team.quarterOn (keyCore i.key) = some q ∧ i.grp.slot (!i.b) = none

/-- The lowest executing lane. -/
def Lowest (X : Word) (l : Nat) : Prop := X.getLsbD l = true ∧ ∀ j, j < l → X.getLsbD j = false

/-- Where physical slot `p` of a core begins in its window, and the first word of a team tile in the accumulators. -/
def slotBase (p : Nat) : Nat := 0x100000 + p * 8192
def tileBase (q : Quarter) (tile : Nat) : Nat := q.tiles.getD tile 0 * 4096

/-- An engine word parks with its turn kept: R105 holds it back no more. -/
def EngineParks (i : Issue) (o : Host.Outcome State Fault Refusal) (t : State) (w : Wait) : Prop :=
  o = .next (t.setGroup i.key (i.grp.setSlot i.b (some { i.part with wait := some w, turn := true })))

/-- R105, R290: a slot whose other slot is live, neither parked at a JOIN nor waiting, parks at an engine word before any of its checks. -/
def engineWordsWaitForTheOtherSlot : Prop :=
  ∀ (s : State) (i : Issue) (q : Quarter) (g : Guard) (d a b e : Operand) (ta tb : NumType) (op : DrainOp) (f f' f'' : Bool) (sc : Scope)
    (p : Part), s.issuing = some i → i.team.quarterOn (keyCore i.key) = some q → i.lanes g ≠ 0 →
    i.grp.slot (!i.b) = some p → p.park = none → p.wait = none → i.part.turn = false →
    ∀ o, o ∈ [exec (.mclaim g d a b) s, exec (.mrel g a b) s, exec (.mstage g a b) s, exec (.mread g d a) s, exec (.mzero g b) s,
      exec (.mloop g ta tb f f' a b e) s, exec (.msca g a b e) s, exec (.mdrain g op f sc f' a b e) s, exec (.msyncWait g d b) s,
      exec (.msyncStat g d) s] → Parks i o s i.grp .matrix

/-- R278, R291 to R295: MCLAIM binds free physical slots, zeroed, to logical slots and answers 0; answers 1 when a slot of the range is claimed and 2
when too few are free. MREL gives them back once nothing reads or fills them. MSTAGE stores a lane per row, MREAD reads one; MZERO clears the
tiles of its mask once no loop or drain uses them. -/
def matrixStorageWords : Prop :=
  ∀ (s : State) (i : Issue) (g : Guard) (d a b : Operand) (q : Quarter) (l : Nat), Engine s i q →
    let c := keyCore i.key; let X := i.lanes g; let A := i.srcN a l; let B := i.srcN b l
    let claim := exec (.mclaim g d a b) s; let rel := exec (.mrel g a b) s; let stage := exec (.mstage g a b) s
    let read := exec (.mread g d a) s; let zero := exec (.mzero g b) s
    let bad (o : Host.Outcome State Fault Refusal) : Prop := Traps s i o { code := 0x03, exmask := X, tepc := i.part.pc }
    let claimed (j : Nat) : Prop := ∃ p, (j, p) ∈ q.claims
    let chip (t : State) (x : Nat) : Byte := cellGet (t.core c).chip x
    let js (n : Nat) : List Nat := (List.range n).map fun k => A.toNat + k
    let answers (o : Host.Outcome State Fault Refusal) (t : State) (v : Word) : Prop :=
      ∃ g', Ends i o t g' ∧ Wrote i.grp g' d X (fun _ => v) ∧ RegsKept i.grp g' [d] ∧ { g' with vregs := i.grp.vregs, sregs := i.grp.sregs } = i.grp
    let desc (x : Word) (f : Nat) : Prop := bits x 31 25 = 0 ∧ bits x 23 22 = 0 ∧ bits x 15 13 = 0 ∧ bits x 7 6 = 0 ∧ 0 < bits x 21 16 ∧
      bits x 12 8 + bits x 21 16 ≤ 32 ∧ f + bits x 21 16 ≤ 192
    (X = 0 → Ends i claim s i.grp ∧ Ends i rel s i.grp ∧ Ends i stage s i.grp ∧ Ends i read s i.grp ∧ Ends i zero s i.grp) ∧
    ((Instr.mclaim g d a b).wf → Lowest X l →
      (B.toNat = 0 ∨ 64 < A.toNat + B.toNat → bad claim) ∧
      (0 < B.toNat → A.toNat + B.toNat ≤ 64 → i.budget X [d] = none →
        ((∃ j ∈ js B.toNat, claimed j) → answers claim s 1) ∧
        ((∀ j ∈ js B.toNat, ¬ claimed j) → q.reserve.length < B.toNat → answers claim s 2) ∧
        ((∀ j ∈ js B.toNat, ¬ claimed j) → B.toNat ≤ q.reserve.length →
          ∃ t, answers claim t 0 ∧ SameBytes s t ∧
            t.team? i.grp.team = some (i.team.modQuarter c fun y =>
              { y with reserve := y.reserve.drop B.toNat, claims := y.claims ++ (js B.toNat).zip (q.reserve.take B.toNat) }) ∧
            ∀ x, ((∃ p ∈ q.reserve.take B.toNat, slotBase p ≤ x ∧ x < slotBase (p + 1)) → chip t x = 0) ∧
              ((∀ p ∈ q.reserve.take B.toNat, x < slotBase p ∨ slotBase (p + 1) ≤ x) → chip t x = chip s x)))) ∧
    (Lowest X l →
      (B.toNat = 0 ∨ 64 < A.toNat + B.toNat ∨ (∃ j ∈ js B.toNat, ¬ claimed j) → bad rel) ∧
      (0 < B.toNat → A.toNat + B.toNat ≤ 64 → (∀ j ∈ js B.toNat, claimed j) →
        let busy := (s.core c).loopReads i.grp.team (js B.toNat) || (s.core c).slotsFilling i.grp.team (js B.toNat)
        (busy = true → EngineParks i rel s .reissue) ∧
        (busy = false → Ends i rel (s.setTeam i.grp.team (i.team.modQuarter c fun q =>
          { q with claims := q.claims.filter (fun y => !(js B.toNat).contains y.1),
                   reserve := q.reserve ++ (js B.toNat).filterMap fun j => q.slot? j })) i.grp))) ∧
    (∀ f, a = .v f → Lowest X l →
      let h := bits B 24 24; let nw := bits B 21 16; let w0 := bits B 12 8; let n := bits B 5 0
      (¬ desc B f ∨ ¬ claimed n → bad stage) ∧
      (∀ p, desc B f → q.slot? n = some p →
        ((s.core c).loopReads i.grp.team [n] = true → EngineParks i stage s .reissue) ∧
        ((s.core c).loopReads i.grp.team [n] = false → ∃ t, Ends i stage t i.grp ∧ SameBytes s t ∧
          (∀ lane w k, lane < 32 → w < nw → k < 4 → chip t (slotBase p + 128 * (32 * h + lane) + 4 * (w0 + w) + k) =
            if X.getLsbD lane then (i.grp.v (f + w) lane).extractLsb' (8 * k) 8 else 0) ∧
          ∀ x, (∀ lane w k, lane < 32 → w < nw → k < 4 → x ≠ slotBase p + 128 * (32 * h + lane) + 4 * (w0 + w) + k) → chip t x = chip s x))) ∧
    (∀ f, d = .v f → Lowest X l →
      let h := bits A 24 24; let nw := bits A 21 16; let w0 := bits A 12 8; let n := bits A 5 0
      let ds := (List.range nw).map fun w => Operand.v (f + w)
      (¬ desc A f ∨ q.tiles.length ≤ n → bad read) ∧
      (desc A f → n < q.tiles.length →
        (∀ t, i.budget X ds = some t → Traps s i read t) ∧
        (i.budget X ds = none →
          ∃ g', Ends i read s g' ∧ RegsKept i.grp g' ds ∧ { g' with vregs := i.grp.vregs } = i.grp ∧
            ∀ w, w < nw → Wrote i.grp g' (.v (f + w)) X fun lane => cellGet (s.core c).acc (tileBase q n + 64 * (32 * h + lane) + w0 + w)))) ∧
    (Lowest X l →
      (2 ^ q.tiles.length ≤ B.toNat → bad zero) ∧
      (B.toNat < 2 ^ q.tiles.length →
        let busy : Prop := (∃ L ∈ (s.core c).loops, L.team = i.grp.team ∧ B.getLsbD L.tile = true) ∨
          ∃ D ∈ s.drains, D.team = i.grp.team ∧ D.core = c ∧ B.getLsbD D.tile = true ∧ D.parked = false
        (busy → EngineParks i zero s .reissue) ∧
        (¬ busy → ∃ t, Ends i zero t i.grp ∧ SameBytes s t ∧ ∀ x,
          ((∃ n, n < 16 ∧ B.getLsbD n = true ∧ tileBase q n ≤ x ∧ x < tileBase q n + 4096) → cellGet (t.core c).acc x = 0) ∧
          ((∀ n, n < 16 → B.getLsbD n = true → x < tileBase q n ∨ tileBase q n + 4096 ≤ x) →
            cellGet (t.core c).acc x = cellGet (s.core c).acc x))))

/-- R279, R281, R283, R296 to R305, R309: MLOOP checks its descriptors and slots and queues the loop with its lock; MSCA scales and adds the oldest
unscaled step of its loop, and ends the loop with its last; MDRAIN tests its elements for verdict words, and sends those of its rows, to be performed
at their homes, `.ord` one contribution to each 128-byte line with its rank and count; a row with an element whose check fails is
not sent and traps with the rows done; MSYNC waits
for loops and drains and answers the steps done, `.stat` answers and clears the count of reserved codes. -/
def matrixLoopWords : Prop :=
  ∀ (s : State) (i : Issue) (g : Guard) (d a b e : Operand) (q : Quarter) (l : Nat), Engine s i q → Lowest (i.lanes g) l →
    let c := keyCore i.key; let k := s.core c; let X := i.lanes g; let A := i.srcN a l; let B := i.srcN b l; let E := i.srcN e l
    let bad (o : Host.Outcome State Fault Refusal) (v : Word) : Prop := Traps s i o { code := 0x03, info := v, exmask := X, tepc := i.part.pc }
    (∀ ta tb sc nt, let o := exec (.mloop g ta tb sc nt a b e) s
      let L := loopOf i ta tb sc nt A B E k.nextLoop
      let fields : Prop := bits A 31 22 = 0 ∧ bits A 15 14 = 0 ∧ bits A 7 4 = 0 ∧ bits B 31 17 = 0 ∧ bits E 31 30 = 0 ∧ bits E 23 22 = 0 ∧
        bits E 15 14 = 0 ∧ bits E 7 6 = 0 ∧ 0 < bits B 16 0 ∧ bits A 3 0 < q.tiles.length
      let good (u : Nat) : Prop := ∀ j ∈ L.slotsAt u, j < 64 ∧ ∃ p, (j, p) ∈ q.claims
      let conf := q.vconf.getD L.tile {}
      (¬ fields → bad o 0) ∧
      (fields → ∀ u, u < L.blocks → ¬ good u → (∀ v, v < u → good v) → bad o (BitVec.ofNat 32 u)) ∧
      (fields → (∀ u, u < L.blocks → good u) → conf.pred ≠ .none → (NumType.intLoop ta = true ∨ sc = true) → bad o 0) ∧
      (fields → (∀ u, u < L.blocks → good u) → (conf.pred = .none ∨ (NumType.intLoop ta = false ∧ sc = false)) →
        (k.slotsFilling i.grp.team L.slots = true ∨ 8 ≤ k.loops.length ∨ 64 ≤ k.locks.length → EngineParks i o s .reissue) ∧
        (k.slotsFilling i.grp.team L.slots = false → k.loops.length < 8 → k.locks.length < 64 →
          ∃ t L', Ends i o t i.grp ∧ SameBytes s t ∧ (t.core c).loops = k.loops ++ [L'] ∧ { L' with pubs := L.pubs } = L ∧
            (t.core c).nextLoop = k.nextLoop + 1 ∧ (t.core c).locks.length = k.locks.length + 1))) ∧
    (∀ fb fe L, b = .v fb → e = .v fe → A.toNat < q.tiles.length → k.scaleLoop i.grp.team i.grp.gidx A.toNat = some L →
      let o := exec (.msca g a b e) s; let tile := A.toNat
      let verdict (lane : Nat) : Bool := isVerdict (i.grp.v fb lane) || isVerdict (i.grp.v (fb + 1) lane) || isVerdict (i.grp.v fe lane) ||
        isVerdict (i.grp.v (fe + 1) lane)
      let scale (f n : Nat) : Word := if X.getLsbD (n % 32) then i.grp.v (f + n / 32) (n % 32) else 0
      (∀ t, i.verdictTrap X verdict = some t → Traps s i o t) ∧
      (i.verdictTrap X verdict = none →
        (L.done ≤ L.scaled → EngineParks i o s .reissue) ∧
        (L.scaled < L.done → ∃ t, Ends i o t i.grp ∧ SameBytes s t ∧
          (∀ n, n < 4096 → let x := cellGet k.acc (tileBase q tile + n)
            cellGet (t.core c).acc (tileBase q tile + n) = if isVerdict x then x
              else scaleStep (cellGet (L.saved.getD k.partials) (4096 * (L.scaled % 2) + n)) (scale fb (n / 64)) (scale fe (n % 64)) x) ∧
          (∀ y, y < tileBase q tile ∨ tileBase q tile + 4096 ≤ y → cellGet (t.core c).acc y = cellGet k.acc y) ∧
          (L.scaled + 1 = L.nstep → ∀ x ∈ (t.core c).loops, x.id ≠ L.id) ∧
          (L.scaled + 1 ≠ L.nstep → (t.core c).loops = k.loops.map fun x => if x.id = L.id then { L with scaled := L.scaled + 1 } else x)))) ∧
    (A.toNat < q.tiles.length → k.scaleLoop i.grp.team i.grp.gidx A.toNat = none → bad (exec (.msca g a b e) s) 0) ∧
    (∀ op sc f32 (key : Nat → Nat → Nat), let o := exec (.mdrain g op false sc f32 a b e) s; let ord := exec (.mdrain g .add true sc f32 a b e) s
      let tile := bits B 3 0; let r0 := bits B 13 8; let nrow := bits B 22 16; let base := (i.src64 false a l).toNat
      let word (r j : Nat) : Word := cellGet k.acc (tileBase q tile + 64 * (r0 + r) + j)
      let fields : Prop := bits B 31 23 = 0 ∧ bits B 15 14 = 0 ∧ bits B 7 4 = 0 ∧ tile < q.tiles.length ∧ r0 + nrow ≤ 64 ∧
        64 ≤ bits E 15 0
      let need : Need := { r := decide (op ≠ .st), w := true, sup := i.grp.mode = .supervisor }
      let access : Access := { size := 4, align := 4, need, acc := 6, plain := false, aperture := false, windows := false }
      let va (r j : Nat) : DWord := BitVec.ofNat 64 (base + r * 4 * bits E 15 0 + 4 * j)
      let need' : Need := { r := true, w := true, sup := i.grp.mode = .supervisor }
      let rank := bits E 23 16; let count := bits E 31 24 + 1; let k0 := i.part.rows
      let plain : Prop := ∀ r j, r < nrow → j < 64 → isVerdict (word r j) = false
      let suspends (t : State) : Prop := (∃ g', t.group? i.key = some g' ∧ Suspends i g' ∧ g'.vregs = i.grp.vregs ∧ g'.sregs = i.grp.sregs) ∧
        SameBytes s t ∧ (t.team? i.grp.team).map Team.revoked = some true
      let rowsSent (t : State) (n : Nat) : Prop := ∃ ds, t.drains = s.drains ++ ds ∧ ds.length = 64 * (n - k0) ∧
        ∀ r j, k0 ≤ r → r < n → j < 64 → ∃ x, ds[64 * (r - k0) + j]? = some x ∧ x.op = op ∧ x.f32 = f32 ∧ x.addr = key r j ∧
          x.words = [(0, word r j)] ∧ x.ord = none ∧ x.tile = tile ∧ x.row = s.nextDrain + 64 * (r - k0)
      X &&& ~~~(i.grp.helper ||| i.grp.vacant) ≠ 0 →
      (¬ fields ∨ bits E 31 16 ≠ 0 → bad o 0) ∧ (¬ fields ∨ count ≤ rank → bad ord 0) ∧
      (fields → ¬ plain →
        (bits E 31 16 = 0 → op ≠ .st → Traps s i o { code := 0x07, info := BitVec.ofNat 32 l, exmask := X, tepc := i.part.pc }) ∧
        (rank < count → Traps s i ord { code := 0x07, info := BitVec.ofNat 32 l, exmask := X, tepc := i.part.pc })) ∧
      (fields → bits E 31 16 = 0 → op = .st ∨ plain →
        ((∀ r j, k0 ≤ r → r < nrow → j < 64 → s.check i access (va r j) = .ok (.dram (key r j))) →
          ∃ t, o = .next t ∧ suspends t ∧ rowsSent t nrow) ∧
        (∀ rf jf f, k0 ≤ rf → rf < nrow → jf < 64 → s.check i access (va rf jf) = .error f →
          (∀ j x, j < 64 → s.check i access (va rf j) = .error x → x.code ≠ 0 ∧ (f.order < x.order ∨ (f.order = x.order ∧ jf ≤ j))) →
          (∀ r j, k0 ≤ r → r < rf → j < 64 → s.check i access (va r j) = .ok (.dram (key r j))) →
          ∃ s', o = .next (s.takeTrap s' i.key i.b
              { code := f.code, addr := va rf jf, info := BitVec.ofNat 32 rf, exmask := X, tepc := i.part.pc }) ∧
            SameBytes s s' ∧ rowsSent s' rf)) ∧
      (fields → rank < count → plain → k0 = 0 →
        (∀ r j, r < nrow → j < 64 → s.check i { access with need := need' } (va r j) = .ok (.dram (key r j))) →
        ∃ t ds, ∃ row : Nat → Nat, ord = .next t ∧ suspends t ∧ t.drains = s.drains ++ ds ∧ (∀ r r', r < r' → r' < nrow → row r < row r') ∧
          (∀ x, x ∈ ds → x.op = .add ∧ x.f32 = f32 ∧ x.ord = some (rank, count) ∧ x.parked = false ∧ x.tile = tile ∧ x.addr % 128 = 0 ∧
            ∃ r, r < nrow ∧ x.row = row r ∧ ∀ w, w ∈ x.words → ∃ j, j < 64 ∧ key r j / 4 = x.addr / 4 + w.1 ∧ w.2 = word r j) ∧
          (∀ r j, r < nrow → j < 64 → ∃ x, x ∈ ds ∧ x.row = row r ∧ x.addr = key r j / 128 * 128 ∧ (key r j % 128 / 4, word r j) ∈ x.words) ∧
          ∀ x y, x ∈ ds → y ∈ ds → x.row = y.row → x.addr = y.addr → x = y)) ∧
    ((Instr.msyncWait g d b).wf → let o := exec (.msyncWait g d b) s
      let missing := k.missingScales i.grp.team i.grp.gidx B
      let busy : Prop := (∃ L ∈ k.loops, L.team = i.grp.team ∧ B.getLsbD L.tile = true ∧ L.id < k.nextLoop) ∨
        ∃ D ∈ s.drains, D.team = i.grp.team ∧ D.core = c ∧ B.getLsbD D.tile = true ∧ D.id < s.nextDrain
      (2 ^ q.tiles.length ≤ B.toNat → bad o 0) ∧
      (B.toNat < 2 ^ q.tiles.length → missing ≠ 0 → bad o (BitVec.ofNat 32 missing)) ∧
      (B.toNat < 2 ^ q.tiles.length → missing = 0 → i.budget X [d] = none →
        (busy → EngineParks i o s (.msync d X B k.nextLoop s.nextDrain)) ∧
        (¬ busy → ∃ g', Ends i o s g' ∧ RegsKept i.grp g' [d] ∧ (B = 0 → Wrote i.grp g' d X fun _ => 0) ∧
          ∀ n, n < 16 → B.getLsbD n = true → (∀ m, m < n → B.getLsbD m = false) →
            Wrote i.grp g' d X fun _ => BitVec.ofNat 32 (q.steps.getD n 0)))) ∧
    ((Instr.msyncStat g d).wf → i.budget X [d] = none → ∃ g', Wrote i.grp g' d X (fun _ =>
        BitVec.ofNat 32 (min 0xFFFFFFFF (i.team.quarters.map Quarter.ternary).sum)) ∧ RegsKept i.grp g' [d] ∧
      Ends i (exec (.msyncStat g d) s) (s.setTeam i.grp.team { i.team with quarters := i.team.quarters.map fun y => { y with ternary := 0 } }) g')

/-- What a drain leaves of the destination word `m` for the tile word `v` (R287). -/
def drained (op : DrainOp) (f32 : Bool) (m v : Word) : Word :=
  match op with
  | .st => v
  | .add => if f32 then BitVec.ofNat 32 (fmt32.add .rne m.toNat v.toNat).1 else m + v
  | .max => if f32 then BitVec.ofNat 32 (fmt32.minMax true m.toNat v.toNat).1 else if v.toInt ≤ m.toInt then m else v

/-- The words of `d` have been performed in `t`, and no other byte has changed (R287). -/
def DrainDone (s t : State) (d : Drain) : Prop :=
  (∀ w ∈ d.words, readNat t.mem (d.addr + 4 * w.1) 4 =
    (drained d.op d.f32 (BitVec.ofNat 32 (readNat s.mem (d.addr + 4 * w.1) 4)) w.2).toNat) ∧
  ∀ x, (∀ w ∈ d.words, x < d.addr + 4 * w.1 ∨ d.addr + 4 * w.1 + 4 ≤ x) → cellGet (w := 8) t.mem x = cellGet (w := 8) s.mem x

/-- R273, R281, R287 to R289, R297: the engine's events. A step adds, in every element of the tile, the sum of the products of its A row and B
column, a verdict word standing, and the loop ends after its last step, or when every element holds a verdict word (R312), with its lock
and its steps recorded; a loop to be stopped ends at its boundary. A drain performs its elements at their home; an ordered contribution waits there for its rank. -/
def matrixEngineEvents : Prop :=
  ∀ (s : State) (c : Nat) (q : Quarter) (L : Loop) (rest : List Loop) (t : Team),
    (s.team? L.team = some t → t.quarterOn c = some q → (s.core c).loops = L :: rest → (∀ x ∈ L :: rest, x.stopReq = false) →
      L.done < L.nstep → L.sc = false → L.nt = false → (q.vconf.getD L.tile {}).pred = .none → L.early = none → (∀ x ∈ rest, x.id ≠ L.id) →
      ∃ u, exec (.matrixStep c) s = .next u ∧ SameBytes s u ∧
        (∀ m n, m < 64 → n < 64 → let x := tileBase q L.tile + 64 * m + n
          let old := cellGet (s.core c).acc x
          let as := s.aCodes q L L.done m; let bs := s.bCodes q L L.done n
          cellGet (u.core c).acc x = if isVerdict old then old
            else if NumType.intLoop L.ta then BitVec.ofInt 32 ((old.toNat : Int) + intStepSum (as.map (elemInt L.ta)) (bs.map (elemInt L.tb)))
            else addStep old (stepSum (List.zipWith stepProduct (as.map (elemValue L.ta)) (bs.map (elemValue L.tb))))) ∧
        (∀ y, y < tileBase q L.tile ∨ tileBase q L.tile + 4096 ≤ y → cellGet (u.core c).acc y = cellGet (s.core c).acc y) ∧
        let decided : Prop := ∀ n, n < 4096 → isVerdict (cellGet (u.core c).acc (tileBase q L.tile + n)) = true
        (L.done + 1 < L.nstep → ¬ decided → ∃ L', (u.core c).loops = L' :: rest ∧ { L' with pubs := L.pubs } = { L with done := L.done + 1 }) ∧
        (L.done + 1 = L.nstep ∨ decided → (u.core c).loops = rest ∧ (∀ k ∈ (u.core c).locks, k.owner ≠ .loop L.id) ∧
          ∃ t' q', u.team? L.team = some t' ∧ t'.quarterOn c = some q' ∧ q'.steps = q.steps.set L.tile (L.done + 1))) ∧
    (∀ x, (s.core c).loops.find? (fun y => y.stopReq) = some x → ∃ u, exec (.matrixStep c) s = .next u ∧ SameBytes s u ∧
      (∀ y, y ∈ (u.core c).loops ↔ y ∈ (s.core c).loops ∧ y.id ≠ x.id) ∧ (u.core c).acc = (s.core c).acc) ∧
    ∀ (n : Nat) (d : Drain), s.drains[n]? = some d → (d.words.map Prod.fst).Nodup →
      (d.ord = none → ∃ u, exec (.drainElement n) s = .next u ∧ u.drains = s.drains.eraseIdx n ∧ DrainDone s u d ∧ u.groups = s.groups) ∧
      (∀ rank count, d.ord = some (rank, count) → d.parked = false → (∀ y ∈ s.drains, y.addr = d.addr → y.parked = false) →
        let next := match s.sequences.find? fun y => y.addr == d.addr with | some y => y.next | none => 0
        let total := match s.sequences.find? fun y => y.addr == d.addr with | some y => y.count | none => count
        next < total →
        (rank ≠ next → ∃ u, exec (.orderedContribution n) s = .next u ∧ SameBytes s u ∧
          u.drains = s.drains.eraseIdx n ++ [{ d with parked := true }]) ∧
        (rank = next → ∃ u, exec (.orderedContribution n) s = .next u ∧ DrainDone s u d ∧ u.drains = s.drains.eraseIdx n ∧
          (next + 1 < total → ∃ y ∈ u.sequences, y.addr = d.addr ∧ y.next = next + 1 ∧ y.count = total) ∧
          (next + 1 = total → ∀ y ∈ u.sequences, y.addr ≠ d.addr)))

/-! ## Verdict configurations and top-k lists -/

/-- A row of a list: best first, no NaN. -/
def SortedRow (row : List (Word × Word)) : Prop :=
  row.Pairwise (fun x y => better y x = false) ∧ ∀ x ∈ row, isNanF32 x.1 = false

/-- R315, R316: an insertion keeps a row sorted and at its capacity, skips NaNs and index 0xFFFFFFFF, never lowers the row threshold, and two
candidates of different index may be inserted in either order. -/
def topkInsertionOrderIsIndifferent : Prop :=
  ∀ (n : Nat) (row : List (Word × Word)) (x y : Word × Word), 0 < n → row.length = n → SortedRow row →
    (SortedRow (insertRow n row x) ∧ (insertRow n row x).length = n) ∧
    (isNanF32 x.1 = true ∨ x.2 = 0xFFFFFFFF → insertRow n row x = row) ∧
    (∀ e f, row[n - 1]? = some e → (insertRow n row x)[n - 1]? = some f → belowF32 f.1 e.1 = false) ∧
    (isNanF32 x.1 = false → x.2 ≠ 0xFFFFFFFF →
      (∀ e, row[n - 1]? = some e → better x e = true → x ∈ insertRow n row x) ∧
      (∀ e, row[n - 1]? = some e → better x e = false → insertRow n row x = row)) ∧
    (x.2 ≠ y.2 → insertRow n (insertRow n row x) y = insertRow n (insertRow n row y) x)

/-- The configuration record at scratch offset `off` (R307). -/
def confWord (s : State) (q : Quarter) (off k : Nat) : DWord := BitVec.ofNat 64 (s.readLocNat (.win q.core (q.base * 1024 + off + 8 * k)) 8)

/-- R306, R307, R317, R320 to R326: VCFG sets a tile's configuration from its record, and with `.topk` its list and published thresholds; TOPK inserts a
tile's elements that are neither verdict words nor NaNs, TOPKM merges or stores a list's image, TOPKR reads indices, VTHR raises the published
thresholds to the row thresholds of its list. -/
def verdictAndTopkWords_ : Prop :=
  ∀ (s : State) (i : Issue) (g : Guard) (d a b e : Operand) (q : Quarter) (l : Nat), Engine s i q → Lowest (i.lanes g) l →
    q.tiles.length ≤ 16 → q.vconf.length = q.tiles.length → q.lists.length = q.tiles.length →
    let c := keyCore i.key; let X := i.lanes g; let A := i.srcN a l; let B := i.srcN b l; let E := i.srcN e l; let tile := A.toNat
    let bad (o : Host.Outcome State Fault Refusal) : Prop := Traps s i o { code := 0x03, exmask := X, tepc := i.part.pc }
    let quiet (n : Nat) : Prop := ∀ L ∈ (s.core c).loops, ¬ (L.team = i.grp.team ∧ L.tile = n)
    let sets (o : Host.Outcome State Fault Refusal) (f : Quarter → Quarter) : Prop :=
      Ends i o (s.setTeam i.grp.team (i.team.modQuarter c f)) i.grp
    let list (n : Nat) (L : TopList) : Prop := q.lists[n]? = some L ∧ L.kcap ≠ 0
    let none_ (n : Nat) : Prop := ∀ L, ¬ list n L
    let room := i.team.allocBytes c; let off := B.toNat; let w := confWord s q off
    let saofs := bits (w 0) 63 32; let sbofs := bits (w 0) 31 0; let nent := bits (w 1) 44 32; let thofs := bits (w 1) 31 0
    let kcap := bits (w 2) 14 8; let ln := bits (w 2) 3 0
    let th (p : VPred) : Bool := p = .rowthr || p = .colthr
    let zeros : Prop := bits (w 1) 63 45 = 0 ∧ bits (w 2) 63 15 = 0 ∧ bits (w 2) 7 4 = 0 ∧ ∀ k, 3 ≤ k → k < 8 → w k = 0
    let fields (p : VPred) : Prop := zeros ∧ 0 < nent ∧ nent ≤ 4096 ∧ saofs % 4 = 0 ∧ sbofs % 4 = 0 ∧
      (if th p then thofs % 4 = 0 else thofs = 0) ∧
      (if p = .topk then 0 < kcap ∧ kcap ≤ 64 ∧ ln < q.tiles.length ∧ (32 < kcap → ln % 2 = 0 ∧ ln + 1 < q.tiles.length) ∧
          (ln % 2 = 1 → (q.lists.getD (ln - 1) {}).kcap ≤ 32) ∧ (32 < kcap → (q.lists.getD (ln + 1) {}).kcap = 0)
        else kcap = 0 ∧ ln = 0)
    let inside (p : VPred) : Prop := off + 64 ≤ room ∧ saofs + 256 * nent ≤ room ∧ sbofs + 256 * nent ≤ room ∧ (th p = true → thofs + 256 ≤ room)
    let thWord (k : Nat) : Word := BitVec.ofNat 32 (s.readLocNat (.win q.core (q.base * 1024 + (thofs + 4 * k))) 4)
    (∀ p audit reset, (Instr.vcfg g p audit reset a b).wf → let o := exec (.vcfg g p audit reset a b) s
      (q.tiles.length ≤ tile → bad o) ∧ (p ≠ .none → off % 64 ≠ 0 → bad o) ∧
      (tile < q.tiles.length → p = .none → quiet tile →
        sets o fun q' => { q' with vconf := q'.vconf.set tile { q.vconf.getD tile {} with pred := .none, audit := false } }) ∧
      (tile < q.tiles.length → p ≠ .none → off % 64 = 0 → room < off + 64 →
        Traps s i o { code := 0x19, addr := BitVec.ofNat 64 (Config.scrBase + off), exmask := X, tepc := i.part.pc }) ∧
      (tile < q.tiles.length → p ≠ .none → off % 64 = 0 → inside p → ¬ fields p → bad o) ∧
      (tile < q.tiles.length → p ≠ .none → off % 64 = 0 → inside p → fields p → (th p = true → ∀ k, k < 64 → isVerdict (thWord k) = false) →
        (¬ quiet tile → EngineParks i o s .reissue) ∧
        (quiet tile → p ≠ .topk →
          let copied := if th p then (List.range 64).map (fun k => thWord k &&& 0xFFFFF000) else []
          let conf : VConf := { pred := p, audit, saofs, sbofs, nent, list := 0, pth := (q.vconf.getD tile {}).pth, th := copied }
          sets o fun q' => { q' with vconf := q'.vconf.set tile conf }) ∧
        (quiet tile → p = .topk →
          let L := q.lists.getD ln {}
          let fresh := reset = true ∨ L.kcap ≠ kcap
          ∃ t tm q', Ends i o t i.grp ∧ SameBytes s t ∧ t.team? i.grp.team = some tm ∧ tm.quarterOn c = some q' ∧
            (let f := q'.vconf.getD tile {}
             f.pred = .topk ∧ f.audit = audit ∧ f.saofs = saofs ∧ f.sbofs = sbofs ∧ f.nent = nent ∧ f.list = ln ∧
             ∀ r, r < 64 → f.pth.getD r 0 = if fresh then 0xFF800000 else L.thk r) ∧
            (fresh → q'.lists = q.lists.set ln { kcap, rows := List.replicate 64 (List.replicate kcap (0xFF800000, 0xFFFFFFFF)) }) ∧
            (¬ fresh → q'.lists = q.lists)))) ∧
    (let o := exec (.topk g a b e) s; let n := bits B 3 0; let el (k : Nat) : Word := cellGet (s.core c).acc (tileBase q tile + k)
     (q.tiles.length ≤ tile ∨ bits B 31 4 ≠ 0 ∨ none_ n ∨ 0xFFFFFFBF < E.toNat → bad o) ∧
     (∀ L, tile < q.tiles.length → bits B 31 4 = 0 → list n L → E.toNat ≤ 0xFFFFFFBF →
       (¬ quiet tile → EngineParks i o s .reissue) ∧
       (quiet tile → (∃ k, k < 4096 ∧ isVerdict (el k) = true ∧ bits (el k) 1 0 = 1) →
         Traps s i o { code := 0x07, info := BitVec.ofNat 32 l, exmask := X, tepc := i.part.pc }) ∧
       (quiet tile → (∀ k, k < 4096 → ¬ (isVerdict (el k) = true ∧ bits (el k) 1 0 = 1)) →
         let cands := (List.range 4096).map fun k => (k / 64, el k, E + BitVec.ofNat 32 (k % 64))
         sets o fun q' => { q' with lists := q'.lists.set n (L.insertAll cands) }))) ∧
    (∀ L (place : Nat → Loc), list tile L →
      let merge := exec (.topkmMerge g a b) s; let store := exec (.topkmStore g a b) s; let base := i.src64 false b l
      let va (k : Nat) : DWord := base + BitVec.ofNat 64 (8 * k)
      let acc (w : Bool) : Access := { size := 8, align := 8, need := { r := !w, w, sup := i.grp.mode = .supervisor }, acc := 11, store := w }
      let ent (k : Nat) : Word × Word := (L.rows.getD (k / L.kcap) []).getD (k % L.kcap) (0xFF800000, 0xFFFFFFFF)
      ((∀ k, k < 64 * L.kcap → s.check i (acc false) (va k) = .ok (place k)) →
        let img (k : Nat) : Nat := s.readLocNat (place k) 8
        let cands := (List.range (64 * L.kcap)).map fun k => (k / L.kcap, BitVec.ofNat 32 (img k), BitVec.ofNat 32 (img k / 2 ^ 32))
        ∃ t g', merge = .next t ∧ t.group? i.key = some g' ∧ Suspends i g' ∧ g'.vregs = i.grp.vregs ∧ SameBytes s t ∧
          t.team? i.grp.team = some (i.team.modQuarter c fun q' => { q' with lists := q'.lists.set tile (L.insertAll cands) })) ∧
      (∀ key : Nat → Nat, (∀ k, k < 64 * L.kcap → s.check i (acc true) (va k) = .ok (.dram (key k))) →
        (∀ k j, k < j → j < 64 * L.kcap → key k + 8 ≤ key j ∨ key j + 8 ≤ key k) →
        ∃ t g', store = .next t ∧ t.group? i.key = some g' ∧ Suspends i g' ∧ g'.vregs = i.grp.vregs ∧
          (∀ k, k < 64 * L.kcap → readNat t.mem (key k) 8 = (ent k).1.toNat + (ent k).2.toNat * 2 ^ 32) ∧
          ∀ x, (∀ k, k < 64 * L.kcap → x < key k ∨ key k + 8 ≤ x) → cellGet (w := 8) t.mem x = cellGet (w := 8) s.mem x)) ∧
    (q.tiles.length ≤ tile ∨ none_ tile → bad (exec (.topkmMerge g a b) s) ∧ bad (exec (.topkmStore g a b) s) ∧ bad (exec (.topkr g d a b) s) ∧
      bad (exec (.vthr g a b) s)) ∧
    (∀ f L, d = .v f → list tile L → let o := exec (.topkr g d a b) s
      let h := bits B 24 24; let nw := bits B 21 16; let w0 := bits B 13 8
      let desc : Prop := bits B 31 25 = 0 ∧ bits B 23 22 = 0 ∧ bits B 15 14 = 0 ∧ bits B 7 0 = 0 ∧ 0 < nw ∧ nw ≤ 32 ∧ w0 + nw ≤ L.kcap ∧ f + nw ≤ 192
      let ds := (List.range nw).map fun k => Operand.v (f + k)
      (¬ desc → bad o) ∧
      (desc → (∀ t, i.budget X ds = some t → Traps s i o t) ∧
        (i.budget X ds = none → ∃ g', Ends i o s g' ∧ RegsKept i.grp g' ds ∧ { g' with vregs := i.grp.vregs } = i.grp ∧
          ∀ k, k < nw → Wrote i.grp g' (.v (f + k)) X fun lane => ((L.rows.getD (32 * h + lane) []).getD (w0 + k) (0xFF800000, 0xFFFFFFFF)).2))) ∧
    (∀ L, list tile L → let o := exec (.vthr g a b) s
      let fed : Prop := B.toNat < 2 ^ q.tiles.length ∧ ∀ n, n < 16 → B.getLsbD n = true →
        (q.vconf.getD n {}).pred = .topk ∧ (q.vconf.getD n {}).list = tile
      (¬ fed → bad o) ∧
      (fed → ∃ t tm q', Ends i o t i.grp ∧ SameBytes s t ∧ t.team? i.grp.team = some tm ∧ tm.quarterOn c = some q' ∧
        q'.lists = q.lists ∧ ∀ n, n < 16 →
          (B.getLsbD n = false → q'.vconf.getD n {} = q.vconf.getD n {}) ∧
          (B.getLsbD n = true → { q'.vconf.getD n {} with pth := [] } = { q.vconf.getD n {} with pth := [] } ∧
            ∀ r, r < 64 → let p := (q.vconf.getD n {}).pth.getD r 0xFF800000
              (q'.vconf.getD n {}).pth.getD r 0 = if belowF32 p (L.thk r) then L.thk r else p)))

/-! ## Shading: textures, attributes, pools, rays -/

/-- A word that reads for each lane of `X` the `words` values that `ws` gives, into consecutive registers, leaving every byte of memory (R233). -/
def ReadsPerLane (s : State) (i : Issue) (X : Word) (d : Operand) (words : Nat) (o : Host.Outcome State Fault Refusal) (ws : Nat → List Word) :
    Prop :=
  let ds := (List.range words).map fun k => Operand.next d k
  (∀ t, i.budget X ds = some t → Traps s i o t) ∧
  (i.budget X ds = none → ∃ t g', o = .next t ∧ t.group? i.key = some g' ∧ SameBytes s t ∧
    (∀ k, k < words → Wrote i.grp g' (Operand.next d k) X fun l => (ws l).getD k 0) ∧ RegsKept i.grp g' ds ∧ RestOfLoad i g' ∧ Suspends i g')

/-- Texel `x` of an axis of `n` is what index `i` addresses: wrapped, clamped, mirrored with period 2n, or itself (R338). -/
def Addresses (mode n : Nat) (i : Int) (x : Nat) : Prop :=
  match mode with
  | 0 => x < n ∧ (i - x) % n = 0
  | 1 => (x : Int) = max 0 (min i (n - 1))
  | 2 => x < n ∧ ((i - x) % (2 * n) = 0 ∨ (i + x + 1) % (2 * n) = 0)
  | _ => (x : Int) = i ∧ x < n

/-- FP32 truncation to 8 fraction bits (R338). -/
def trunc8 (x : Word) : Word := BitVec.ofNat 32 (fmt32.round .rne (fFloor x 8 < 0) (fFloor x 8).natAbs (-8)).1

/-- R336, R338, R339: the integer below a number; where levels and texels lie, how indices are addressed, what a texel's bytes hold, and the
comparison that replaces it. -/
def texelRules : Prop :=
  (∀ (x : Word) (k e : Int) (n : Bool) (m : Nat), fVal x = .fin n m e →
    let v : Int := if n then -m else m
    (0 ≤ e + k → fFloor x k = v * 2 ^ (e + k).toNat) ∧
    (e + k < 0 → fFloor x k * 2 ^ (-(e + k)).toNat ≤ v ∧ v < (fFloor x k + 1) * 2 ^ (-(e + k)).toNat)) ∧
  ∀ (b : Binding) (mem : Nat → Nat → Nat) (m : Nat) (i j : Int),
    let rd : Reader Unit := fun a n => .ok (mem a n)
    let bytes : Nat := match b.fmt with | 1 => 8 | 4 => 16 | _ => 4
    let W := max 1 (b.width / 2 ^ m); let H := max 1 (b.height / 2 ^ m)
    b.start 0 = b.base ∧ (b.fmt ≤ 4 → b.start (m + 1) = b.start m + (W * H * bytes + 127) / 128 * 128) ∧
    (b.fmt ≤ 4 → ∀ x y, Addresses b.addrU W i x → Addresses b.addrV H j y →
      ∃ t, readTexel rd b none m i j = .ok t ∧
        let raw := mem (b.start m + (y * W + x) * bytes) bytes
        let half (k : Nat) : Word := fOfHalf (raw / 65536 ^ k % 65536); let word (k : Nat) : Word := BitVec.ofNat 32 (raw / 2 ^ (32 * k))
        t = match b.fmt with
          | 0 => [0, 1, 2, 3].map fun k => fDiv (fOfInt (raw / 256 ^ k % 256 : Nat)) (fOfInt 255)
          | 1 => [half 0, half 1, half 2, half 3]
          | 2 => [word 0, 0, 0, 0x3F800000]
          | 3 => [half 0, half 1, 0, 0x3F800000]
          | _ => [word 0, word 1, word 2, word 3]) ∧
    ((2 < b.addrU ∧ (i < 0 ∨ W ≤ i)) ∨ (2 < b.addrV ∧ (j < 0 ∨ H ≤ j)) →
      readTexel rd b none m i j = .ok (match b.border with
        | 0 => [0, 0, 0, 0]
        | 1 => [0, 0, 0, 0x3F800000]
        | _ => [0x3F800000, 0x3F800000, 0x3F800000, 0x3F800000])) ∧
    ∀ (ref : Word) (t : List Word), readTexel rd b none m i j = .ok t → 1 ≤ b.cmp → b.cmp ≤ 4 →
      let red := t.getD 0 0
      let le (x y : Word) : Prop := nan32 x.toNat = false ∧ nan32 y.toNat = false ∧ rank32 x ≤ rank32 y
      let holds : Prop := match b.cmp with | 1 => less32 ref red | 2 => le ref red | 3 => less32 red ref | _ => le red ref
      (holds → readTexel rd b (some ref) m i j = .ok (List.replicate 4 0x3F800000)) ∧
      (¬ holds → readTexel rd b (some ref) m i j = .ok (List.replicate 4 0))

/-- R338 to R340: what a sample and a gather are in terms of the texels `T`: point, bilinear, trilinear and anisotropic filtering, taps, and
the NaN of coordinates that are not finite. -/
def filterRules : Prop :=
  ∀ (b : Binding) (mem : Nat → Nat → Nat) (T : Option Word → Nat → Int → Int → List Word) (lod : Lod) (ref u v : Word) (taps : List Tap) (ch : Nat),
    let rd : Reader Unit := fun a n => .ok (mem a n)
    (∀ r m i j, readTexel rd b r m i j = .ok (T r m i j)) →
    let r : Option Word := if b.cmp = 0 then none else some ref
    let lerp (f x y : Word) : Word := fAdd x (fMul f (fSub y x))
    let x (m : Nat) (u : Word) : Word := fSub (fMul u (fOfInt (max 1 (b.width / 2 ^ m) : Nat))) 0x3F000000
    let y (m : Nat) (v : Word) : Word := fSub (fMul v (fOfInt (max 1 (b.height / 2 ^ m) : Nat))) 0x3F000000
    let round (x : Word) : Int := fFloor (fAdd x 0x3F000000) 0
    let point (r : Option Word) (m : Nat) (x y : Word) (k : Nat) : Word := (T r m (round x) (round y)).getD k 0
    let bil (r : Option Word) (m : Nat) (x y : Word) (k : Nat) : Word :=
      let i := fFloor x 0; let j := fFloor y 0; let al := trunc8 (fSub x (fOfInt i)); let be := trunc8 (fSub y (fOfInt j))
      let row (j : Int) : Word := lerp al ((T r m i j).getD k 0) ((T r m (i + 1) j).getD k 0)
      lerp be (row j) (row (j + 1))
    let finite : Prop := fFinite u = true ∧ fFinite v = true
    let m := (round lod.lam).toNat; let m0 := (fFloor lod.lam 0).toNat; let m1 := min (m0 + 1) (b.levels - 1)
    let tri (u v : Word) (k : Nat) : Word :=
      if fFinite u && fFinite v then
        lerp (trunc8 (fSub lod.lam (fOfInt (m0 : Nat)))) (bil r m0 (x m0 u) (y m0 v) k) (bil r m1 (x m1 u) (y m1 v) k)
      else 0x7FC00000
    let probe (n : Nat) : Nat → Word :=
      let o := fSub (fDiv (fAdd (fOfInt (n : Nat)) 0x3F000000) (fOfInt (lod.n : Nat))) 0x3F000000
      tri (fAdd u (fMul o lod.du)) (fAdd v (fMul o lod.dv))
    let tap (t : Tap) (k : Nat) : Word :=
      if fFinite u && fFinite v then
        let r := if t.cmpt then some ref else none; let px := fAdd (x m u) t.dx; let py := fAdd (y m v) t.dy
        if t.bil then bil r m px py k else point r m px py k
      else 0x7FC00000
    let gives (o : Except Unit (List Word)) (f : Nat → Word) : Prop := ∃ ws, o = .ok ws ∧ ∀ k, k < 4 → ws.getD k 0 = f k
    let sample := sampleAt rd b taps ref lod u v
    (b.ntap ≠ 0 → gives sample fun k => taps.foldl (fun acc t => fAdd acc (fMul t.w (tap t k))) 0) ∧
    (b.ntap = 0 → ¬ finite → sample = .ok (List.replicate 4 0x7FC00000)) ∧
    (b.ntap = 0 → finite →
      (b.filter = 0 → gives sample (point r m (x m u) (y m v))) ∧ (b.filter = 1 → gives sample (bil r m (x m u) (y m v))) ∧
      (b.filter = 2 → gives sample (tri u v)) ∧
      (b.filter = 3 → gives sample fun k => fDiv (((List.range (lod.n - 1)).map fun n => probe (n + 1) k).foldl fAdd (probe 0 k)) (fOfInt (lod.n : Nat)))) ∧
    (¬ finite → gatherAt rd b ch ref lod u v = .ok (List.replicate 4 0x7FC00000)) ∧
    (finite →
      let i := fFloor (x m u) 0; let j := fFloor (y m v) 0; let c (i j : Int) : Word := (T r m i j).getD ch 0
      gatherAt rd b ch ref lod u v = .ok [c i j, c (i + 1) j, c i (j + 1), c (i + 1) (j + 1)])

/-- R337: the level of detail of a lane under each DMODE; the number of anisotropic probes and the axis they follow. -/
def lodRules : Prop :=
  (∀ x lo hi nan : Word, (nan32 x.toNat = true → fClamp x lo hi nan = nan) ∧
    (nan32 x.toNat = false → fClamp x lo hi nan = fMin (fMax x lo) hi)) ∧ fLog2 0 = 0xFF800000 ∧
  ∀ (b : Binding) (i : Issue) (v l : Nat),
    let r (k lane : Nat) : Word := i.grp.v (v + k) lane; let q := l - l % 4
    let clamped (raw : Word) : Word := fClamp (fClamp raw b.minLod b.maxLod b.minLod) 0 (fOfInt (b.levels - 1)) b.minLod
    let sq (x : Word) : Word := fMul x x; let W := fOfInt (b.width : Nat); let H := fOfInt (b.height : Nat)
    let len (du dv : Word) : Word := fSqrt (fAdd (sq (fMul du W)) (sq (fMul dv H)))
    let follows (z : Lod) (dudx dudy dvdx dvdy : Word) : Prop :=
      let px := len dudx dvdx; let py := len dudy dvdy; let pmax := fMax px py; let pmin := fMin px py
      z.lam = clamped z.raw ∧
      (b.filter ≠ 3 ∨ b.ntap ≠ 0 → z.n = 1 ∧ z.raw = fAdd (fLog2 pmax) b.bias) ∧
      (b.filter = 3 → b.ntap = 0 → z.raw = fAdd (fLog2 (fDiv pmax (fOfInt (z.n : Nat)))) b.bias ∧
        (fIsZero pmin = true → z.n = b.maxAniso) ∧
        (fIsZero pmin = false → ∀ m e, fVal (fDiv pmax pmin) = .fin false m e → fLe 0x3F800000 (fDiv pmax pmin) = true → 1 ≤ b.maxAniso →
          (z.n : Int) = min (-(fFloor (fDiv pmax pmin ^^^ 0x80000000) 0)) b.maxAniso)) ∧
      (fLt py px = true → z.du = dudx ∧ z.dv = dvdx) ∧ (fLt px py = true → z.du = dudy ∧ z.dv = dvdy)
    follows (i.lod b .grad v l) (r 2 l) (r 3 l) (r 4 l) (r 5 l) ∧
    follows (i.lod b .quad v l) (fSub (r 0 (q + 1)) (r 0 q)) (fSub (r 0 (q + 2)) (r 0 q)) (fSub (r 1 (q + 1)) (r 1 q)) (fSub (r 1 (q + 2)) (r 1 q)) ∧
    (i.lod b .lod v l).raw = fAdd (r 2 l) b.bias ∧ (i.lod b .lod v l).lam = clamped (fAdd (r 2 l) b.bias)

/-- R97, R342: the attributes of ATTR's lane: FFMA(λ2, A2, FFMA(λ1, A1, λ0 x A0)) with λ0 = (1.0 − λ1) − λ2 over the page's vertices, +0.0
where the ID or the attribute names nothing. -/
def attributeRules : Prop :=
  ∀ (mem : Nat → Nat → Nat) (cp : Nat) (id : DWord) (l1 l2 : Word) (a0 n : Nat),
    let rd : Reader Unit := fun a n => .ok (mem a n)
    let page := cp + bits id 38 7 * 16384; let tri := bits id 6 0
    let counts : Word := BitVec.ofNat 32 (mem (page + 0x18) 4); let tv : Word := BitVec.ofNat 32 (mem (page + 0x40 + 4 * tri) 4)
    let A (a k : Nat) : Word := BitVec.ofNat 32 (mem (page + 0x840 + 64 * bits tv (8 * k + 7) (8 * k) + 4 * a) 4)
    let o := attrLane rd cp id l1 l2 a0 n
    (bit id 63 = true ∨ bits counts 7 0 ≤ tri → o = .ok (List.replicate n 0)) ∧
    (bit id 63 = false → tri < bits counts 7 0 →
      o = .ok ((List.range n).map fun k =>
        if bits counts 23 16 ≤ a0 + k then 0
        else fFma l2 (A (a0 + k) 2) (fFma l1 (A (a0 + k) 1) (fMul (fSub (fSub 0x3F800000 l1) l2) (A (a0 + k) 0)))))

/-- R336 to R342: TEX, TEXG, TEXQ and ATTR read their binding or source under the checks of R232, refuse a malformed one in the order of R341,
and write each lane's results; TEXQ.dims gives the dimensions of the lowest level named, or zeros beyond the levels. -/
def textureAndAttributeWords : Prop :=
  ∀ (s : State) (i : Issue) (g : Guard) (m : DMode) (ch n a0 : Nat) (d a b c : Operand) (l f v : Nat) (ws : Nat → List Word),
    s.issuing = some i → Lowest (i.lanes g) l → d = .v f → a = .v v →
    let X := i.lanes g; let at_ := i.src64 false b l; let s1 := s.fillLanes i (BitVec.twoPow 32 l) fun _ => at_
    let rd := s1.texRead i; let x (k l : Nat) : Word := i.grp.v (v + k) l
    let tex := exec (.tex g m d a b c) s; let texg := exec (.texg g m ch d a b c) s; let lod := exec (.texqLod g m d a b) s
    let dims := exec (.texqDims g d a b) s; let attr := exec (.attr g n a0 d a b) s
    let coords : Nat := match m with | .grad => 6 | .quad => 2 | .lod => 3
    let bad (o : Host.Outcome State Fault Refusal) : Prop := Traps s i o { code := 0x03, exmask := X, tepc := i.part.pc }
    let fails (o : Host.Outcome State Fault Refusal) (e : CheckFail) (va : DWord) : Prop :=
      Traps s i o { code := e.code, addr := va, info := e.info 8, exmask := X, tepc := i.part.pc }
    let inRange (words past : Nat) : Prop := f + words ≤ 192 ∧ v + past ≤ 192
    (¬ inRange 4 coords → bad tex ∧ bad texg) ∧ (¬ inRange 2 coords → bad lod) ∧ (192 < f + 2 → bad dims) ∧
    (∀ e va, s.readBinding i at_.toNat = .error (e, va) →
      (e.code ≠ 0 → (inRange 4 coords → fails tex e va ∧ fails texg e va) ∧ (inRange 2 coords → fails lod e va) ∧ (f + 2 ≤ 192 → fails dims e va)) ∧
      (e.code = 0 → inRange 4 coords → Parks i tex (s.startCopies i 1 e.size fun _ => va) i.grp .window)) ∧
    (∀ bd taps, s.readBinding i at_.toNat = .ok (bd, taps) →
      let tap (P : Tap → Prop) : Prop := ∃ t, Except.ok t ∈ taps ∧ P t
      let malformed : Prop := bd.bad = true ∨ tap fun t => t.dirty = true ∨ (t.cmpt = true ∧ bd.cmp = 0)
      let unref : Prop := c = Operand.zeroSpecial ∧ (bd.cmp ≠ 0 ∨ tap fun t => t.cmpt = true)
      (malformed → (inRange 4 coords → bad tex ∧ bad texg) ∧ (inRange 2 coords → bad lod) ∧ (f + 2 ≤ 192 → bad dims)) ∧
      (unref → inRange 4 coords → bad tex ∧ bad texg) ∧
      (¬ malformed → ∀ before after e va, taps = before ++ .error (e, va) :: after → e.code ≠ 0 →
        (∀ f va, Except.error (f, va) ∈ before → f.code ≠ 0 → e.order < f.order) →
        (∀ f va, Except.error (f, va) ∈ after → f.code ≠ 0 → e.order ≤ f.order) →
        (¬ unref → inRange 4 coords → fails tex e va ∧ fails texg e va) ∧ (inRange 2 coords → fails lod e va) ∧
        (f + 2 ≤ 192 → fails dims e va)) ∧
      ∀ ts : List Tap, taps = ts.map Except.ok → ¬ malformed →
        (inRange 4 coords → ¬ unref →
          ((∀ k, X.getLsbD k = true → sampleAt rd bd ts (i.srcN c k) (i.lod bd m v k) (x 0 k) (x 1 k) = .ok (ws k)) →
            ReadsPerLane s i X d 4 tex ws) ∧
          ((∀ k, X.getLsbD k = true → gatherAt rd bd ch (i.srcN c k) (i.lod bd m v k) (x 0 k) (x 1 k) = .ok (ws k)) →
            ReadsPerLane s i X d 4 texg ws)) ∧
        (inRange 2 coords → ReadsPerLane s i X d 2 lod fun k => let y := i.lod bd m v k; [y.lam, y.raw]) ∧
        (f + 2 ≤ 192 → ∀ lv, (∃ k, X.getLsbD k = true ∧ (x 0 k).toNat = lv) → (∀ k, X.getLsbD k = true → lv ≤ (x 0 k).toNat) →
          ReadsPerLane s i X d 2 dims fun _ =>
            if bd.levels ≤ lv then [0, 0] else [BitVec.ofNat 32 (max 1 (bd.width / 2 ^ lv)), BitVec.ofNat 32 (max 1 (bd.height / 2 ^ lv))])) ∧
    (16 < a0 + n ∨ 191 < v + 3 ∨ 192 < f + n → bad attr) ∧
    (∀ cp, a0 + n ≤ 16 → v + 3 ≤ 191 → f + n ≤ 192 → s.laneRead i 8 at_.toNat 8 = .ok cp →
      (∀ k, X.getLsbD k = true → attrLane (s1.laneRead i 8) cp (x 1 k ++ x 0 k) (x 2 k) (x 3 k) a0 n = .ok (ws k)) →
      ReadsPerLane s i X d n attr ws)

/-- R100, R330: a removal takes the entry at RD of a queue that is not empty and advances RD; an append writes the entry at WR of a queue that is not
full and advances WR; an empty or full queue changes nothing. Here over memory read and written in place. -/
def stageQueueSteps : Prop :=
  ∀ (s : State) (p : Pool) (q slot : Nat), slot < 2 ^ 32 → p.nslots < 2 ^ 16 → q + 0x40 + 4 * (p.nslots + 1) < 2 ^ 64 →
    let rd (s : State) : Reader Unit := fun a n => .ok (readNat s.mem a n)
    let wr : Writer Unit := fun s a n x => .ok (s.writePhys a n x)
    let W := readNat s.mem q 8; let R := readNat s.mem (q + 8) 8; let N := p.nslots + 1
    let kept (t : State) (ls : List (Nat × Nat)) : Prop :=
      ∀ a, (∀ x ∈ ls, a < x.1 ∨ x.1 + x.2 ≤ a) → cellGet (w := 8) t.mem a = cellGet (w := 8) s.mem a
    (W = R → s.popSlot rd wr p q = .ok (none, s)) ∧
    (W ≠ R → let e := q + 0x40 + 4 * (R % N)
      ∃ t, s.popSlot rd wr p q = .ok (some (readNat s.mem e 4), t) ∧ readNat t.mem (q + 8) 8 = (R + 1) % 2 ^ 64 ∧ kept t [(q + 8, 8)]) ∧
    ((W + 2 ^ 64 - R) % 2 ^ 64 = N → s.pushSlot rd wr p q slot = .ok (false, s)) ∧
    ((W + 2 ^ 64 - R) % 2 ^ 64 ≠ N → let e := q + 0x40 + 4 * (W % N)
      ∃ t, s.pushSlot rd wr p q slot = .ok (true, t) ∧ readNat t.mem e 4 = slot ∧ readNat t.mem q 8 = (W + 1) % 2 ^ 64 ∧
        kept t [(e, 4), (q, 8)])

/-- R330: what a lane of PSALLOC or SQPOP does with queue `q`, and a lane of PSFREE or SQPUSH. -/
def popLane (i : Issue) (p : Pool) (q : Nat) (clear : Bool) (s : State) (k : Nat) : Except LaneErr (List Word × State) :=
  if (i.grp.helper ||| i.grp.vacant).getLsbD k then .ok ([0xFFFFFFFF], s)
  else
    match s.popSlot (fun s => s.stageRead i) (stageWrite i) p q with
    | .error e => .error e
    | .ok (none, t) => .ok ([0xFFFFFFFF], t)
    | .ok (some n, t) =>
      if clear then
        match stageWrite i t (p.base + n * (64 + 16 * p.size) + 0x28) 4 0 with
        | .error e => .error e
        | .ok u => .ok ([BitVec.ofNat 32 n], u)
      else .ok ([BitVec.ofNat 32 n], t)
def pushLane (i : Issue) (p : Pool) (q : Nat) (slot : Operand) (s : State) (k : Nat) : Except LaneErr (List Word × State) :=
  if (i.grp.helper ||| i.grp.vacant).getLsbD k then .ok ([2], s)
  else
    match s.pushSlot (fun s => s.stageRead i) (stageWrite i) p q (i.srcN slot k).toNat with
    | .error e => .error e
    | .ok (ok, t) => .ok ([if ok then 0 else 1], t)

/-- R335: what a lane of TRACE does: its payload stored behind the slot's header, and its ray handed to the traversal unit. -/
def traceLane (i : Issue) (p : Pool) (pool : Nat) (slot : Operand) (first len : Nat) (scene : DWord) (s : State) (k : Nat) :
    Except LaneErr (List Word × State) :=
  if (i.grp.helper ||| i.grp.vacant).getLsbD k then .ok ([], s)
  else
    let n := (i.srcN slot k).toNat; let at_ := p.base + n * (64 + 16 * p.size)
    match readWords (s.stageRead i) at_ 16 with
    | .error e => .error e
    | .ok _ =>
      match (List.range (len / 4)).foldlM (fun s j => stageWrite i s (at_ + 0x40 + 4 * j) 4 (i.grp.v (first + j) k).toNat) s with
      | .error e => .error e
      | .ok t => .ok ([], { t with rays := t.rays ++ [{ pool, slot := n, scene, desc := p }] })

/-- A word whose lanes act in ascending order, each by `step`, and all succeed: it leaves their state, with their values in `d`. -/
def LanesAct (s : State) (i : Issue) (X : Word) (d : List Operand) (o : Host.Outcome State Fault Refusal)
    (step : State → Nat → Except LaneErr (List Word × State)) : Prop :=
  let r := s.runLanes X step
  r.fails = [] → r.s.group? i.key = some i.grp → ∃ t g', o = .next t ∧ t.group? i.key = some g' ∧
    (∀ a, cellGet (w := 8) t.mem a = cellGet (w := 8) r.s.mem a) ∧ t.rays = r.s.rays ∧ Suspends i g' ∧ RegsKept i.grp g' d ∧
    ∀ x ∈ d, Wrote i.grp g' x X fun l => match r.oks.find? fun p => p.1 == l with | some p => p.2.getD 0 0 | none => 0

/-- R98, R328, R330, R331, R335, R343: the pool words check the pool, then the slots, then act lane by lane; TRACE also refuses a slot named twice, and a bad
length or scene, which is the model's choice (log 69); FBACK reports pages to its ring, whose fields it takes as aligned by 4 (log 20). A ray whose
traversal completes has left the unit; at the depth limit its slot goes to DEPTHQ and DEPTHX counts it, or the fault that stops
this gives the slot its outcome (R333; log 69). -/
def poolAndRayWords : Prop :=
  ∀ (s : State) (i : Issue) (g : Guard) (Q : StageQ) (sn f : Nat) (d a b c : Operand) (l : Nat), s.issuing = some i → Lowest (i.lanes g) l →
    let X := i.lanes g; let pool := (i.srcN a l).toNat
    let slot (k : Nat) : Nat := (i.srcN b k).toNat
    let alloc := exec (.psalloc g d a) s; let free := exec (.psfree g d a b) s; let push := exec (.sqpush g Q d a b) s
    let pop := exec (.sqpop g Q d a) s; let trace := exec (.trace g sn (.v f) a b c) s; let fback := exec (.fback g d a b) s
    let bad (o : Host.Outcome State Fault Refusal) (n : Nat) : Prop :=
      Traps s i o { code := 0x03, info := BitVec.ofNat 32 n, exmask := X, tepc := i.part.pc }
    (s.readPool (s.stageRead i) pool = .ok none → bad alloc 0 ∧ bad free 0 ∧ bad push 0 ∧ bad pop 0 ∧ bad trace 0) ∧
    (63 < pool → s.readPool (s.stageRead i) pool = .ok none) ∧
    (∀ p, s.readPool (s.stageRead i) pool = .ok (some p) →
      let q := match Q with | .miss => p.missQ | .depth => p.depthQ
      (∀ k, X.getLsbD k = true → p.nslots < slot k → (∀ j, j < k → X.getLsbD j = true → slot j ≤ p.nslots) → bad free k ∧ bad push k ∧ bad trace k) ∧
      (d.isReg = true → i.budget X [d] = none →
        LanesAct s i X [d] alloc (popLane i p p.freeQ true) ∧ LanesAct s i X [d] pop (popLane i p q false)) ∧
      (d.isReg = true → i.budget X [d] = none → (∀ k, X.getLsbD k = true → slot k ≤ p.nslots) →
        (¬ calm i.grp → Parks i free s i.grp .reissue ∧ Parks i push s i.grp .reissue) ∧
        (calm i.grp → LanesAct s i X [d] free (pushLane i p p.freeQ b) ∧ LanesAct s i X [d] push (pushLane i p q b))) ∧
      ((∀ k, X.getLsbD k = true → slot k ≤ p.nslots) →
        let twice (k : Nat) : Prop := X.getLsbD k = true ∧ ∃ j, j < k ∧ X.getLsbD j = true ∧ slot j = slot k
        let len := (i.srcN c l).toNat; let scene := i.grp.sreg (sn + 1) ++ i.grp.sreg sn
        let okay : Prop := len ≤ 16 * p.size ∧ len % 4 = 0 ∧ f + len / 4 ≤ 192 ∧ sn % 2 = 0 ∧
          ∀ w, readDwords (s.stageRead i) (scene.toNat + 0x20) 4 = .ok w → ∀ x ∈ w, x = 0
        (∀ k, twice k → (∀ j, j < k → ¬ twice j) → bad trace k) ∧
        ((∀ k, ¬ twice k) → ¬ okay → bad trace 0) ∧
        ((∀ k, ¬ twice k) → okay → ¬ calm i.grp → Parks i trace s i.grp .reissue) ∧
        ((∀ k, ¬ twice k) → okay → calm i.grp → LanesAct s i X [] trace (traceLane i p pool b f len scene)))) ∧
    (∀ h, readDailies (s.laneRead i 9) (i.src64 false a l).toNat = .ok h →
      let good : Prop := h.log2n ≤ 20 ∧ 8 ≤ h.hbits ∧ h.hbits ≤ 32 ∧ h.bm % 4 = 0 ∧ h.ent % 4 = 0
      let s1 := s.fillLanes i (BitVec.twoPow 32 l) fun _ => i.src64 false a l
      (¬ good → bad fback 0) ∧
      (good → d.isReg = true → i.budget X [d] = none → ∀ step : State → Nat → Except LaneErr (List Word × State),
        (∀ t k, step t k = if (i.grp.helper ||| i.grp.vacant).getLsbD k then .ok ([1], t)
          else match t.report (fun t => t.laneRead i 9) (laneWrite i 9) (i.src64 false a l).toNat (slot k) with
            | .error e => .error e
            | .ok (x, u) => .ok ([BitVec.ofNat 32 x], u)) →
        LanesAct s1 i X [d] fback step)) ∧
    ∀ n y, s.rays[n]? = some y →
      (∃ t, exec (.traversalComplete n) s = .next t ∧ t.rays = s.rays.eraseIdx n) ∧
      (let s1 : State := { s with rays := s.rays.eraseIdx n }
       ∀ w, readWords s1.picture (y.desc.slotAddr y.slot) 16 = .ok w → y.desc.depth ≤ bits (w.getD 10 0) 3 0 →
         exec (.traversalComplete n) s = .next (match s1.deviceAppend y.pool y.desc y.desc.depthQ y.slot with
           | .ok s2 => (match s2.poolAdd y.pool 3 1 with
             | .ok u => u
             | .error a => s1.loseRay y a)
           | .error a => s1.loseRay y a))

/-! ## Queues, the dispatcher and the call sheet -/

/-- `t` is `s` but for memory, monitors and the lines of first-level caches. -/
def OnlyMemory (s t : State) : Prop :=
  let plain (u : State) : List (Nat × Core) := u.cores.map fun p => (p.1, { p.2 with l1 := [] })
  plain t = plain s ∧ { t with mem := s.mem, monitors := s.monitors, cores := s.cores } = s

/-- `t` is `s` with the record of queue `q` holding `f`, and nothing else changed. -/
def OnlyRecord (s t : State) (q : Nat) (f : Nat → DWord) : Prop :=
  (∀ k, k < 8 → t.queueWord q k = f k) ∧
    (∀ a, a < s.queueRec q ∨ s.queueRec q + 64 ≤ a → cellGet (w := 8) t.mem a = cellGet (w := 8) s.mem a) ∧ OnlyMemory s t

/-- Doorbell-aperture writes for queue `q` are served: the device is not in RECOVERY and its tables have been set (R216, R441). -/
def Served (s : State) (q : Nat) : Prop :=
  s.boot ≠ .recovery ∧ s.csr.qtbaseSet = true ∧ s.csr.spillbaseSet = true ∧ s.csr.ctxtabSet = true ∧ q < 4096

/-- R52, R65, R66, R209: LAUNCH. Its card's address must be a multiple of 128 and canonical, and pass the checks of R232; it waits until the
group's earlier accesses have performed; then it answers the status of the first row of R65 that holds, and on 0 the card stands at ring
position TAIL and TAIL is one more. The team is no longer eligible for retake. -/
def launchAnswers : Prop :=
  ∀ (s : State) (i : Issue) (g : Guard) (d a b : Operand) (l : Nat), s.issuing = some i → (Instr.launch g d a b).wf →
    let X := i.lanes g; let o := exec (.launch g d a b) s; let va := i.src64 false b l; let q := (i.srcN a l).toNat
    let acc : Access := ({ size := 128, align := 128, need := { r := true }, acc := 10, plain := false } : Access).by i
    let s0 := s.revoke i.grp.team
    (X = 0 → Ends i o s0 i.grp) ∧
    (X.getLsbD l = true → (∀ k, k < l → X.getLsbD k = false) →
      (va.toNat % 128 ≠ 0 ∨ 2 ^ 49 ≤ va.toNat → Traps s i o { code := 0x03, exmask := X, tepc := i.part.pc }) ∧
      (va.toNat % 128 = 0 → va.toNat < 2 ^ 49 → ∀ t, i.budget X [d] = some t → Traps s i o t) ∧
      (va.toNat % 128 = 0 → va.toNat < 2 ^ 49 → i.budget X [d] = none →
        (∀ f, s.check i acc va = .error f →
          Traps s i o { code := f.code, info := f.info 10, addr := va, exmask := X, tepc := i.part.pc }) ∧
        (∀ loc, s.check i acc va = .ok loc → i.grp.quiet = false → Parks i o s0 i.grp .reissue) ∧
        (∀ loc, s.check i acc va = .ok loc → i.grp.quiet = true →
          let s1 := s0.fillLanes i (BitVec.twoPow 32 l) fun _ => va
          let size := 2 ^ bits (s.queueWord q 1) 4 0; let tail := (s.queueWord q 3).toNat
          let at_ := (s.queueWord q 0).toNat + tail % size * 128
          let write := s1.engineWrites none q at_ ((List.range 16).map fun k => s.readLocNat (loc.plus (8 * k)) 8)
          let answers (v : Word) (m : Memory) : Prop := ∃ t g' tm, o = .next t ∧ t.mem = m ∧ t.group? i.key = some g' ∧
            Wrote i.grp g' d X (fun _ => v) ∧ RegsKept i.grp g' [d] ∧ RestOfLoad i g' ∧ Suspends i g' ∧
            t.team? i.grp.team = some tm ∧ tm.revoked = true
          let off : Prop := 4095 < q ∨ s.csr.qtbaseSet = false ∨ s.csr.spillbaseSet = false ∨ s.csr.ctxtabSet = false ∨
            bit (s.queueWord q 1) 16 = false ∨ bit (s.queueWord q 1) 18 = false
          let stopped : Prop := bit (s.queueWord q 1) 23 = true
          let full : Prop := size ≤ tail - (s.queueWord q 4).toNat
          (off → answers 2 s.mem) ∧ (¬ off → stopped → answers 3 s.mem) ∧ (¬ off → ¬ stopped → full → answers 1 s.mem) ∧
          (¬ off → ¬ stopped → ¬ full →
            (∀ e, write = .error e → answers 4 s.mem) ∧
            ∀ u, write = .ok u → u.group? i.key = some i.grp → answers 0 (u.setQueueWord q 3 (u.queueWord q 3 + 1)).mem))))

/-- R14: the first failing check, in order, decides the card-check code. -/
def cardChecks : Prop :=
  ∀ (c : List DWord),
    let w (k : Nat) : DWord := dwordAt c k; let n := cardRoles c; let size := cardArgSize c
    let c1 : Prop := bits (w 2) 31 21 ≠ 0 ∨ bits (w 2) 15 0 ≠ 0 ∨ bits (w 4) 59 52 ≠ 0 ∨ bits (w 4) 47 45 ≠ 0 ∨ bit (w 4) 39 = true ∨
      bit (w 4) 26 = true ∨ bits (w 4) 15 0 ≠ 0 ∨ bits (w 5) 31 0 ≠ 0 ∨ (∃ k, k < n ∧ bits (w (6 + k)) 23 0 ≠ 0) ∨
      (∃ k, n ≤ k ∧ k < 4 ∧ w (6 + k) ≠ 0) ∨ ∃ k, k < 6 ∧ w (10 + k) ≠ 0
    let c2 : Prop := bits (w 0) 63 49 ≠ 0 ∨ bits (w 0) 5 0 ≠ 0 ∨ ∃ k, k < n ∧ 2 ^ 49 ≤ cardEntry c + cardEofs c k * 64
    let c3 : Prop := 16 < size ∨ (size ≠ 0 ∧ (bits (w 1) 63 49 ≠ 0 ∨ bits (w 1) 3 0 ≠ 0 ∨ 2 ^ 49 < cardArgBase c + cardArgCount c * size * 16))
    let c4 : Prop := 16777216 < cardArgCount c
    let c5 : Prop := bits (w 3) 63 49 ≠ 0 ∨ bits (w 3) 2 0 ≠ 0
    let c6 : Prop := ∃ k, k < n ∧ (cardGroups c k = 0 ∨ cardVregs c k = 0 ∨ 192 < cardVregs c k)
    let c7 : Prop := if cardStrTeam c then 64 < cardGroupSum c ∨ ∃ k, k < n ∧ cardGroups c k % 4 ≠ 0 else 16 < cardGroupSum c
    let c8 : Prop := 640 < cardScratch c ∨ 16 < cardEvents c ∨ 8 < cardTags c ∨ 64 < cardOpSlots c ∨ 16 < cardAcct c
    (c1 → cardCode c = 1) ∧ (¬ c1 → c2 → cardCode c = 2) ∧ (¬ c1 → ¬ c2 → c3 → cardCode c = 3) ∧
    (¬ c1 → ¬ c2 → ¬ c3 → c4 → cardCode c = 4) ∧ (¬ c1 → ¬ c2 → ¬ c3 → ¬ c4 → c5 → cardCode c = 5) ∧
    (¬ c1 → ¬ c2 → ¬ c3 → ¬ c4 → ¬ c5 → c6 → cardCode c = 6) ∧ (¬ c1 → ¬ c2 → ¬ c3 → ¬ c4 → ¬ c5 → ¬ c6 → c7 → cardCode c = 7) ∧
    (¬ c1 → ¬ c2 → ¬ c3 → ¬ c4 → ¬ c5 → ¬ c6 → ¬ c7 → c8 → cardCode c = 8) ∧
    (¬ c1 → ¬ c2 → ¬ c3 → ¬ c4 → ¬ c5 → ¬ c6 → ¬ c7 → ¬ c8 → cardCode c = 0)

/-- R53: the read condition of a queue, but for residency. -/
def mayRead (s : State) (q : Nat) : Prop :=
  let w (k : Nat) : DWord := s.queueWord q k
  bit (w 1) 16 = true ∧ bit (w 1) 23 = false ∧ (w 2).toNat < (w 3).toNat ∧ (bit (w 1) 17 = true → 0 < bits (w 5) 63 32) ∧
    (bit (w 1) 19 = true → w 4 = w 2) ∧ ∀ g ∈ s.grids, g.ctx = q → cardArgCount g.card ≤ g.dealt

/-- R22, R61: of a card and of its records each 4-byte word holds what memory holds or, where the device took the word before it was
changed, what it took. -/
def cardWordsAreOldOrNew : Prop :=
  ∀ (s : State) (core : Option Nat) (q j va k n h : Nat) (ws : List DWord), s.engineReads core q va k = .ok ws → n < k → h < 2 →
    let taken := s.ahead.find? fun a => a.queue = q && a.card = j && a.va = va + 8 * n + 4 * h
    let word (v : List DWord) : Word := (dwordAt v n).extractLsb' (32 * h) 32
    ∃ vs, s.readCardWords core q j va k = .ok vs ∧ vs.length = k ∧
      (taken = none → word vs = word ws) ∧ ∀ a, taken = some a → word vs = a.word

/-- R54: the resident queues after a switch are runnable; while a runnable queue is out, all 64 slots are taken by queues of no lower
priority. -/
def queueSwitches : Prop :=
  ∀ (s : State), s.dispatches = true → s.resident.Nodup → s.resident.length ≤ 64 →
    (∀ q, s.runnable q = true ↔ bit (s.queueWord q 1) 16 = true ∧ bit (s.queueWord q 1) 23 = false ∧
      ((∃ g ∈ s.grids, g.ctx = q ∧ g.dealt < cardArgCount g.card) ∨ mayRead s q)) ∧
    ((∃ q ∈ s.resident, s.runnable q = false) ∨ (∃ q, q < 4096 ∧ q ∉ s.resident ∧ s.runnable q = true ∧ s.resident.length < 64) →
      ∃ res last, exec .queueSwitch s = .next { s with resident := res, rrSwitch := last } ∧ res.Nodup ∧ res.length ≤ 64 ∧
        (∀ q ∈ res, s.runnable q = true) ∧
        ∀ q, q < 4096 → s.runnable q = true → q ∉ res → res.length = 64 ∧
          ∀ r ∈ res, bits (s.queueWord q 1) 10 8 ≤ bits (s.queueWord r 1) 10 8)

/-- R112: the free range taken is the lowest that overlaps no allocation. -/
def rangesAreLowest : Prop :=
  ∀ (allocs : List (Nat × Nat)) (limit kib : Nat),
    let free (b : Nat) : Prop := b + kib ≤ limit ∧ ∀ a ∈ allocs, a.1 + a.2 ≤ b ∨ b + kib ≤ a.1
    (∀ b, firstFit allocs limit kib = some b → free b ∧ ∀ c, c < b → ¬ free c) ∧
    (firstFit allocs limit kib = none → ∀ b, ¬ free b)

/-- R19, R107, R108: room, and the choice of place. Of the places with room the one with the fewest resident groups is taken, ties going to the
string with the smallest sum and then to the lowest number; a team of a chunk has no place but its chunk's, once the teams of the chunk
before it are placed; a group takes a position of the quadrant with the most free ones. What drained teams have released for an urgent team
counts as taken for every other (R418; log 84). Which positions a quadrant has, and the lowest free one of them, are the model's choice
(log 88), as is that a place holds the walk requests that come with a team (log 90). -/
def placesAreChosen : Prop :=
  ∀ (s : State) (x : Shape), s.groups.length < 1024 →
    let strTeam := cardStrTeam x.card; let count (c : Nat) : Nat := s.groups.countP fun p => keyCore p.1 = c
    let strCores (n : Nat) : List Nat := [4 * n, 4 * n + 1, 4 * n + 2, 4 * n + 3]
    let cores (w : Nat) : List Nat := if strTeam then strCores w else [w]
    let sum (n : Nat) : Nat := ((strCores n).map count).sum
    let kept (f : Keep → Nat) (c : Nat) : Nat := ((s.kept.filter fun y => y.core = c).map f).sum
    let better (w v : Nat) : Prop :=
      if strTeam then sum w < sum v ∨ (sum w = sum v ∧ w ≤ v)
      else count w < count v ∨ (count w = count v ∧ (sum (w / 4) < sum (v / 4) ∨ (sum (w / 4) = sum (v / 4) ∧ w ≤ v)))
    (∀ w, w ∈ s.rooms x ↔ w < (if strTeam then Config.numStrings else Config.numCores) ∧
      (let n := if strTeam then w else w / 4
       s.tagsUsed n + ((s.kept.filter fun y => y.core / 4 = n).map Keep.tags).sum + cardTags x.card ≤ 8) ∧
      ∀ k c, (cores w)[k]? = some c →
        count c + kept Keep.groups c + (if strTeam then cardGroupSum x.card / 4 else cardGroupSum x.card) ≤ 64 ∧
        (s.slotsUsed c).length + kept Keep.slots c + cardOpSlots x.card ≤ 64 ∧
        (s.tilesUsed c).length + kept Keep.tiles c + cardAcct x.card ≤ 16 ∧ (s.core c).locks.length + x.locks.getD k 0 ≤ 64 ∧
        (x.requests.getD k 0 = 0 ∨ (s.core c).requests.length + x.requests.getD k 0 ≤ 256) ∧
        Core.hasRange (s.ranges c) x.kib 25 (s.core c) = true) ∧
    (∀ w, s.fitsNow x w = true ↔ ∀ c ∈ cores w, firstFit (s.ranges c) ((s.core c).scratchWays * 32) x.kib ≠ none) ∧
    (∀ c a, a ∈ s.ranges c ↔ a ∈ s.allocs c ∨ ∃ y, y ∈ s.kept ∧ y.core = c ∧ y.kib ≠ 0 ∧ a = (y.base, y.kib)) ∧
    (∀ ws w, ws.Pairwise (· < ·) → s.bestOf x.card ws = some w → w ∈ ws ∧ ∀ v ∈ ws, better w v) ∧
    (∀ (k : Nat) (t : Team),
      let v : State := { s with kept := s.kept.filter fun y => y.cause ≠ ⟨t.ctx, t.cardIdx, t.recidx⟩ }
      (t.home = none → s.targetOf k t = v.bestOf t.card (v.rooms (v.shapeOf k t))) ∧
      ∀ w, t.home = some w → s.targetOf k t = if v.roomAt (v.shapeOf k t) w = true ∧
        s.pending.find? (fun j => (s.team? j).any fun u => u.home.isSome && u.chunk == t.chunk) = some k then some w else none) ∧
    ∀ c q p, s.freePosition c = some (q, p) →
      let used (q : Nat) : Nat := (s.positions c).countP fun p => p / 16 = q
      q < 4 ∧ p / 16 = q ∧ p ∉ s.positions c ∧ (∀ p', p' / 16 = q → p' < p → p' ∈ s.positions c) ∧
      ∀ r, r < 4 → used q < used r ∨ (used q = used r ∧ q ≤ r)

/-- R18, R19, R24, R55, R56: a chunk. Of the resident queues with undealt records and room the one of highest priority, round-robin among equals,
deals clamp(ceil(remaining / 2C), 1, 64) records, in ascending order, to the place R108 chooses, where no waiting team goes before it; each
team keeps the priority the queue has now and has an id of its own. The order between chunks and waiting teams is log 57's. -/
def chunksAreDealt : Prop :=
  ∀ (s : State) (q w : Nat) (g : Grid), s.dispatches = true → s.teams.length + 64 < 2 ^ 32 →
    let prio (x : Nat) : Nat := bits (s.queueWord x 1) 10 8
    let rooms (x : Grid) : List Nat := ({ s with kept := s.kept.filter fun y => y.cause ≠ ⟨x.ctx, x.cardIdx, x.dealt⟩ } : State).rooms
      { card := x.card, kib := allocKib x.card (cardArgSize x.card * 16) }
    let deals (x : Nat) (g : Grid) : Prop := x ∈ s.resident ∧ bit (s.queueWord x 1) 16 = true ∧ bit (s.queueWord x 1) 23 = false ∧
      s.undealt x = some g ∧ rooms g ≠ [] ∧ s.retakenWaits x = false
    let turn (x : Nat) : Nat := (x + 4104 - s.rrDeal) % 4105
    deals q g → (∀ x y, x ≠ q → deals x y → prio x < prio q ∨ (prio x = prio q ∧ turn q < turn x)) →
    (∀ p ∈ s.teams, s.waits p.1 p.2 = true → s.targetOf p.1 p.2 ≠ none → p.2.home = none ∧ p.2.prio < prio q ∧
      (s.waitPrio p.2 < prio q ∨ (s.waitPrio p.2 = prio q ∧ turn q < turn (s.sourceOf p.2)) ∨ ∃ n, p.2.phase = .saved n)) →
    s.bestOf g.card (rooms g) = some w →
      let C := (rooms g).length; let left := cardArgCount g.card - g.dealt
      let n := max 1 (min 64 ((left + 2 * C - 1) / (2 * C)))
      ∃ t ks, exec .dealChunk s = .next t ∧ t.mem = s.mem ∧ t.groups = s.groups ∧ t.cores = s.cores ∧ t.rrDeal = q ∧
        ks.length = n ∧ ks.Pairwise (· < ·) ∧ t.pending = s.pending ++ ks ∧
        t.grids = s.grids.map (fun x => if x.ctx = g.ctx ∧ x.cardIdx = g.cardIdx then { x with dealt := x.dealt + n, live := x.live + n }
          else x) ∧
        (∀ j k, ks[j]? = some k → ∃ tm, t.team? k = some tm ∧ tm.ctx = g.ctx ∧ tm.cardIdx = g.cardIdx ∧ tm.recidx = g.dealt + j ∧
          tm.card = g.card ∧ tm.prio = prio q ∧ tm.urgent = g.urgent ∧ tm.home = some w ∧ tm.phase = .dealt ∧
          ∀ p ∈ t.teams, p.1 ≠ k → p.2.id ≠ tm.id) ∧
        ∀ k, k ∉ ks → t.team? k = s.team? k

/-- R20, R23, R24, R108: a waiting team whose place has room is placed whole: a group of the start state at a free position of its core, for
each index; every byte of its scratch zero; no other group moves. -/
def teamsArePlaced : Prop :=
  ∀ (s : State) (k w : Nat) (t : Team), s.team? k = some t → t.phase = .dealt → k ∈ s.pending → cardCode t.card = 0 → s.yields k t = false →
    s.targetOf k t = some w → (s.serving t.cause).fitsNow (s.shapeOf k t) w = true →
    ∃ u t', exec (.teamPlace k) s = .next u ∧ SameBytes s u ∧ u.pending = s.pending.filter (· ≠ k) ∧ u.team? k = some t' ∧
      t'.phase = .placed ∧ t'.fates = List.replicate (cardGroupSum t.card) .live ∧ t'.regions = [] ∧
      t'.quarters.map Quarter.core = coresAt t.card w ∧
      (∀ q ∈ t'.quarters, q.kib = t.kib ∧ ∀ x, x < q.kib * 1024 → cellGet (u.core q.core).chip (q.base * 1024 + x) = 0) ∧
      (∀ key x, s.group? key = some x → u.group? key = some x) ∧
      ∀ j, j < cardGroupSum t.card → ∃ key g, s.group? key = none ∧ u.group? key = some g ∧
        let role := roleOf t.card j; let r := j - roleBase t.card role
        keyCore key = groupCore t.card w role r ∧ g = { startGroup k t.card j with quad := key % 64 / 16 } ∧
        g.slotA = some { pc := BitVec.ofNat 64 (cardEntry t.card + cardEofs t.card role * 64), mask := 0xFFFFFFFF }

/-- R20, R21: a placed team whose record can be read starts: scratch holds the record from offset 0 on. It does not start until then. -/
def teamsStart : Prop :=
  ∀ (s : State) (k : Nat) (t : Team) (ws : List DWord), s.team? k = some t → t.phase = .placed → t.recPermit = none → t.launch = none →
    let read := s.readCardWords (t.quarters.head?.map Quarter.core) t.ctx t.cardIdx (cardArgBase t.card + t.recidx * cardArgSize t.card * 16)
      (cardArgSize t.card * 2)
    (∀ e u, read = .error e → exec (.teamStart k) s = .next u → u.groups = s.groups ∧ ∃ t', u.team? k = some t' ∧ t'.phase = .placed) ∧
    (read = .ok ws →
    (t.quarters.map Quarter.core).Nodup →
    (∀ q ∈ t.quarters, q.base * 1024 + cardArgSize t.card * 16 ≤ (s.core q.core).scratchWays * 32768) →
    ∃ u, exec (.teamStart k) s = .next u ∧ SameBytes s u ∧
      u.team? k = some { t with phase := .running, startTime := s.uptime, recPermit := .none } ∧
      ∀ q ∈ t.quarters, ∀ j, j < cardArgSize t.card * 2 →
        BitVec.ofNat 64 (u.readLocNat (q.scratch (8 * j)) 8) = dwordAt ws j)

/-- R113: while a waiting team's place lacks a free range, a way of the core is converted: from the cache while it has more than three ways
and the reserve no more than RSV, else from the reserve while it has more than one (here with no register spilled to that way). -/
def waysConvert : Prop :=
  ∀ (s : State) (k w core : Nat) (t : Team), (k, t) ∈ s.teams → s.waits k t = true → s.targetOf k t = some w → core ∈ coresAt t.card w →
    firstFit ((s.serving t.cause).ranges core) ((s.core core).scratchWays * 32) t.kib = none →
    let c := s.core core; let o := exec (.carveConversion core) s
    (∀ p ∈ s.groups, keyCore p.1 = core → ∀ r ∈ p.2.vregs, r.2.spill ≠ .reserve c.scratchWays) →
    (20 ≤ c.scratchWays → o = .next s) ∧
    (c.scratchWays < 20 → 3 < c.cacheWays → c.spillWays ≤ c.rsv →
      ∃ u, o = .next u ∧ SameBytes s u ∧ (u.core core).scratchWays = c.scratchWays + 1 ∧ (u.core core).spillWays = c.spillWays) ∧
    (c.scratchWays < 20 → ¬ (3 < c.cacheWays ∧ c.spillWays ≤ c.rsv) → 1 < c.spillWays →
      ∃ u, o = .next u ∧ SameBytes s u ∧ (u.core core).scratchWays = c.scratchWays + 1 ∧ (u.core core).spillWays = c.spillWays - 1)

/-- No register stands in a way of a spill reserve, so a way that leaves a reserve writes nothing to memory (R113, R114). -/
def noneInReserve (s : State) : Prop := ∀ p ∈ s.groups, ∀ r ∈ p.2.vregs, r.2.spill = .none ∨ r.2.spill = .memory

/-- R25, R26, R427: a team all of whose groups have exited, with no drain of it on its way, completes: its groups, its positions and its
record of the team are gone, and when none ended abnormally and COMPLETE is non-zero the counter there is one more. -/
def teamsComplete : Prop :=
  ∀ (s : State) (k : Nat) (t : Team), s.team? k = some t → t.phase = .running → (∀ f ∈ t.fates, f ≠ .live) →
    (∀ d ∈ s.drains, d.team ≠ k) →
    ∃ u, exec (.teamComplete k) s = .next u ∧ u.team? k = none ∧ (∀ p ∈ u.groups, p.2.team ≠ k) ∧
      (noneInReserve s → t.ctx < 4096 → t.discarded = false → t.abend = 0 → cardComplete t.card ≠ 0 →
        ∀ a, s.engineLoc none t.ctx { r := true, w := true } (cardComplete t.card) 8 = .ok (.dram a) →
          a + 8 ≤ s.csr.qtbase.toNat ∨ s.csr.qtbase.toNat + 262144 ≤ a →
          readNat u.mem a 8 = (readNat s.mem a 8 + 1) % 2 ^ 64) ∧
      (noneInReserve s → t.ctx < 4096 → t.abend ≠ 0 ∨ cardComplete t.card = 0 →
        ∀ a, a < s.csr.qtbase.toNat ∨ s.csr.qtbase.toNat + 262144 ≤ a →
        cellGet (w := 8) u.mem a = cellGet (w := 8) s.mem a)

/-- Entry `y` of a sheet has reached a period at TIME `now` for which it has not fired (R63). -/
def DueAt (x : Sheet) (y : SheetEntry) (now : Nat) : Prop :=
  y.valid = true ∧ x.epoch + y.offset ≤ now ∧ y.fired ≤ (now - x.epoch - y.offset) / x.period

/-- The TIME up to which the table in use fires: that of now, or the end of its last period when a change has come (R62). -/
def firesUntil (s : State) : Nat :=
  match s.sheetChange with
  | .keep => s.time.toNat
  | .install _ t | .disarm t => if t ≤ s.time.toNat then t - 1 else s.time.toNat

/-! ## The host, the links and the module -/

/-- R48, R49, R58, R70, R216, R219, R226, R405, R438, R441, R442: the bridge keeps what it forwards, unchanged, in the order received (log 81) and
the time-sync timestamps in TIME; each device register has the effect its rule gives, and an unusable value none. That FWLOAD acts in
RECOVERY alone is log 62. -/
def deviceRegisters : Prop :=
  (∀ (s : State) (dev : Nat) (write transmit : Bool) (a : DWord) (x : Payload),
    exec (.hostForward dev write a x) s = .next { s with forwarded := { dev, write, addr := a, data := x } :: s.forwarded } ∧
    exec (.timesyncTimestamp transmit) s = .next { s with timestamps := (transmit, s.time) :: s.timestamps }) ∧
  (∀ (s : State) (len : DWord), (s.boot = .recovery → exec (.fwload len) s = .next { s with boot := .verify, fwload := some len.toNat }) ∧
    (s.boot ≠ .recovery → exec (.fwload len) s = .next s)) ∧
  ∀ (s : State) (x : DWord), s.boot ≠ .recovery →
    let v := x.toNat
    (let waiting := s.views.countP fun v => v.phase = .submitted
     (s.dispatches = false ∨ 64 ≤ waiting → exec (.viewDoorbell x) s = .next { s with csr := { s.csr with viewdrop := s.csr.viewdrop + 1 } }) ∧
     (s.dispatches = true → waiting < 64 →
       exec (.viewDoorbell x) s = .next { s with views := s.views ++ [{ id := s.nextView, va := x }], nextView := s.nextView + 1 })) ∧
    (v % 64 = 0 → v + 4097 * 32 ≤ Config.dramBytes → Memory.wf s.mem = true → ∃ p,
      exec (.ctxtabWrite x) s = .next { s with csr := { s.csr with ctxtab := x, ctxtabSet := true }, perfceil := p } ∧
      ∀ c, c ≤ 4096 → tabGet p c 15 =
        if bit (read64 s.mem (v + 32 * c + 16)) 4 then bits (read64 s.mem (v + 32 * c + 16)) 3 0 else 15) ∧
    (v % 64 ≠ 0 ∨ Config.dramBytes < v + 4097 * 32 → exec (.ctxtabWrite x) s = .next s) ∧
    (let c := s.core (v / 8); let held : Prop := v / 8 < 216 ∧ v % 8 < 5 ∧ c.permits.getD (v % 8) false = true
     (held → ∃ t, exec (.permitack x) s = .next t ∧ SameBytes s t ∧ (t.core (v / 8)).permits = c.permits.set (v % 8) false ∧
       ∀ k, k ≠ v / 8 → t.core k = s.core k) ∧
     (¬ held → exec (.permitack x) s = .next s)) ∧
    (s.attreq = none → v % 64 = 0 → v + 512 ≤ Config.dramBytes → exec (.attreq x) s = .next { s with attreq := some x }) ∧
    (s.attreq ≠ none → exec (.attreq x) s = .next s) ∧
    (let free : Prop := (s.csr.qtbaseSet = true → ∀ q, q < 4096 → bit (s.queueWord q 1) 16 = false) ∧ ∀ w ∈ s.views, w.active = false
     (bits x 7 0 ≤ 143 → bits x 63 9 = 0 → free → exec (.devnumWrite x) s = .next { s with csr := { s.csr with devnum := x } }) ∧
     (143 < bits x 7 0 ∨ bits x 63 9 ≠ 0 ∨ ¬ free → exec (.devnumWrite x) s = .next s))

/-- R57, R58, R226, R230, R439: what arrives over the links: 1 to 8 bytes of device DRAM, or an aligned doubleword of the aperture, whose
registers stand at the addresses of R57 and R58; another access to the aperture is ignored and reads zero (an access of 0 or of more than 8
bytes is log 6). A device without a number takes no access of a peer. -/
def linkAccesses : Prop :=
  (∀ (s : State) (write : Bool) (n : Nat) (a x : DWord), bit s.csr.devnum 8 = false → exec (.linkAccess { peer := true, write := write } n a x) s = .next s) ∧
  (∀ (s : State) (n o : Nat) (x : DWord), o < 0x50000 → n = 0 ∨ 8 < n →
    exec (.linkAccess { write := true } n (BitVec.ofNat 64 (Config.apertureBase + o)) x) s = .next s ∧
    exec (.linkAccess { write := false } n (BitVec.ofNat 64 (Config.apertureBase + o)) x) s = .next { s with hostReply := 0 }) ∧
  ∀ (s : State) (peer : Bool) (n pa : Nat) (x : DWord), s.boot ≠ .recovery → (peer = true → bit s.csr.devnum 8 = true) → 1 ≤ n → n ≤ 8 →
    let wr (n a : Nat) (x : DWord) := exec (.linkAccess { peer := peer, write := true } n (BitVec.ofNat 64 a) x) s
    let rd (n a : Nat) := exec (.linkAccess { peer := peer, write := false } n (BitVec.ofNat 64 a) x) s
    let got (v : Nat) : Host.Outcome State Fault Refusal := .next { s with hostReply := BitVec.ofNat 64 v }
    let ap := Config.apertureBase
    (pa + n ≤ Config.dramBytes → rd n pa = got (readNat s.mem pa n) ∧
      ∃ t, wr n pa x = .next t ∧ readNat t.mem pa n = x.toNat % 2 ^ (8 * n) ∧
        (∀ a, a < pa ∨ pa + n ≤ a → cellGet (w := 8) t.mem a = cellGet (w := 8) s.mem a) ∧ OnlyMemory s t) ∧
    (∀ q, q < 4096 → let a := ap + 64 * q
      wr 8 a x = exec (.doorbell q x) s ∧ wr 8 (a + 0x10) x = exec (.prioWrite q x) s ∧ wr 8 (a + 0x18) 1 = exec (.ctrlEnable q) s ∧
      wr 8 (a + 0x18) 2 = exec (.ctrlDisable q) s ∧ wr 8 (a + 0x18) 3 = exec (.ctrlResume q) s ∧
      wr 8 (a + 0x18) 4 = exec (.ctrlSkip q) s ∧ wr 8 (a + 0x18) 5 = exec (.ctrlClear q) s ∧
      (5 < x.toNat → wr 8 (a + 0x18) x = .next s) ∧ rd 8 (a + 0x08) = exec (.progressRead q) s ∧
      (s.csr.qtbaseSet = true → rd 8 (a + 0x20) = got (s.queueWord q 1).toNat)) ∧
    (wr 8 (ap + 0x40000) x = exec (.viewDoorbell x) s ∧ wr 8 (ap + 0x40040) x = exec (.ctxtabWrite x) s ∧
      wr 8 (ap + 0x40048) x = exec (.permitack x) s ∧ wr 8 (ap + 0x40050) x = exec (.preemptctx x) s ∧
      wr 8 (ap + 0x40058) x = exec (.attreq x) s ∧ wr 8 (ap + 0x40060) x = exec (.fwload x) s ∧
      wr 8 (ap + 0x40068) x = exec (.devnumWrite x) s ∧ rd 8 (ap + 0x40068) = got s.csr.devnum.toNat ∧
      rd 8 (ap + 0x40110) = got s.linkLost.toNat ∧
      ∀ p, p < 18 → let y := s.ports.getD p {}
        rd 8 (ap + 0x40080 + 8 * p) = got (y.replays % 2 ^ 32 * 2 ^ 32 + y.retrains % 2 ^ 16 * 2 ^ 16 + y.margin % 256 * 256 + y.state % 4)) ∧
    (∀ o, o < 0x50000 → n ≠ 8 ∨ o % 8 ≠ 0 → wr n (ap + o) x = .next s ∧ rd n (ap + o) = got 0)

/-- R437, R438: a flit replay counts one and, when it fails again, one more failure in a row; after 8 the port trains, and comes up with a
margin; a port that fails to train is down, and routes are lost: all when no port is left. That nothing is replayed after 8 is log 61. -/
def portEvents : Prop :=
  ∀ (s : State) (p : Nat), p < s.ports.length → p < 18 →
    let x := s.ports.getD p {}
    let put (y : Port) (n : Nat) : State := { s with ports := s.ports.set p y, fresh := s.fresh + n }
    (x.state = 2 → x.failures < 8 → let y : Port := { x with replays := (x.replays + 1) % 2 ^ 32 }
      exec (.flitReplay p) s = .next (put { y with failures := 0 } 1) ∨ exec (.flitReplay p) s = .next (put { y with failures := x.failures + 1 } 1)) ∧
    (x.state = 2 → 8 ≤ x.failures → exec (.flitReplay p) s = .next s ∧
      exec (.portRetrain p) s = .next (put { x with state := 1, failures := 0, retrains := (x.retrains + 1) % 2 ^ 16 } 0)) ∧
    (x.state = 1 → ∃ m, m < 256 ∧ exec (.portRetrain p) s = .next (put { x with state := 2, margin := m } 1)) ∧
    (x.state = 1 → ∃ t, exec (.portDown p) s = .next t ∧ SameBytes s t ∧ t.ports = s.ports.set p { x with state := 0 } ∧
      (∀ d ∈ t.routes, d ∈ s.routes) ∧
      ((∀ k, k < s.ports.length → k ≠ p → (s.ports.getD k {}).state ≠ 1 ∧ (s.ports.getD k {}).state ≠ 2) → t.routes = []))

/-- R364, R383, R438: when the last route to a peer is lost, a load's lanes not reached by its data and an `ATOM` read all ones,
a monitor is satisfied with all ones, a drain row and a store or RED still to perform are dropped, and each such access adds 1 to LINKLOST (a lane
of a word is one, the elements of a row are one: log 85); no trap is raised. -/
def lostRoutes : Prop :=
  ∀ (s : State) (p : Nat), p < s.ports.length → p < 18 → (s.ports.getD p {}).state = 1 →
    (∀ k, k < s.ports.length → k ≠ p → (s.ports.getD k {}).state ≠ 1 ∧ (s.ports.getD k {}).state ≠ 2) →
    (∀ c ∈ s.cores, c.2.requests = []) →
    let lost (key : Nat) : Bool := match keyDevice key with | some d => s.routes.contains d | none => false
    ∃ t, exec (.portDown p) s = .next t ∧ t.teams = s.teams ∧
      t.drains = s.drains.filter (fun d => !lost d.addr) ∧
      t.monitors = s.monitors.map (fun m =>
        if lost m.addr = true ∧ m.hit = none then { m with hit := some (if m.wide then 0xFFFFFFFFFFFFFFFF else 0xFFFFFFFF) } else m) ∧
      (let away (u : LateOp) : Bool := match u.loc with | .dram a => lost a | .win _ _ => false
       let stores (g : Group) : Nat := ((g.late.filter fun u => away u && u.reply.isNone).map fun u => (u.word, u.lane)).eraseDups.length
       ((∀ g ∈ s.groups, g.2.outstanding = []) → s.images = [] →
         ((∀ g ∈ s.groups, g.2.late = []) → t.groups = s.groups) ∧
         t.linkLost = s.linkLost + BitVec.ofNat 64 ((s.monitors.countP fun m => lost m.addr && m.hit.isNone) +
           ((s.drains.filter fun d => lost d.addr).map Drain.row).eraseDups.length + (s.groups.map fun g => stores g.2).sum)) ∧
       ∀ key g, s.group? key = some g → ∃ g', t.group? key = some g' ∧ ∀ u, u ∈ g'.late ↔ u ∈ g.late ∧ away u = false) ∧
      ∀ key g x l d, s.group? key = some g → g.outstanding = [x] → (l, d) ∈ x.peers → d ∈ s.routes → l < 32 → x.mask.getLsbD l = true →
        ∃ g' y, t.group? key = some g' ∧ g'.outstanding = [y] ∧ y.dst = x.dst ∧ y.mask = x.mask ∧ y.words = x.words ∧
          (∀ k, k < x.values.length → (y.values.getD k []).getD l 0 = 0xFFFFFFFF) ∧
          ∀ n k, x.atomic = false → x.dst = .v n → k < x.words → k < x.values.length → g'.v (n + k) l = 0xFFFFFFFF

/-- R435, R436: one second (log 79) of the SRAM rail: by the corrected errors counted, SRAMSET's step rises by one below SETPT, falls by two above
2 x SETPT, else stays, within 0 to 30; it is 0 while the trim is off or held. The end-of-life estimate, made once per hour of TIME, has its
fields in range. -/
def railEvents : Prop :=
  ∀ (s : State),
    let v := s.csr.sramset; let e := bits v 23 16; let step (w : Word) := bits w 23 16; let setpt := bits v 15 0
    (s.uptime < s.trimAt + 1000000000 → exec .sramTrim s = .next s) ∧
    (s.trimAt + 1000000000 ≤ s.uptime →
      ∃ w c, exec .sramTrim s =
          .next { s with csr := { s.csr with sramset := w }, fresh := s.fresh + 1, trimAt := s.trimAt + 1000000000 } ∧
        bit w 31 = bit v 31 ∧ bits w 15 0 = setpt ∧
        (bit v 31 = false ∨ setpt = 0 ∨ s.sramHold ≠ none → step w = 0) ∧
        (bit v 31 = true → setpt ≠ 0 → s.sramHold = none →
          step w = min 30 (if c < setpt then e + 1 else if 2 * setpt < c then e - 2 else e))) ∧
    (∀ t, s.sramHold = some t → (t ≤ s.uptime → exec .sramHoldEnd s = .next { s with sramHold := none }) ∧
      (s.uptime < t → exec .sramHoldEnd s = .next s)) ∧
    (s.eolAt ≤ s.time.toNat → s.time.toNat < s.eolAt + 3600000000000 → exec .eolRecompute s = .next s) ∧
    (s.eolAt + 3600000000000 ≤ s.time.toNat →
      ∃ w, exec .eolRecompute s = .next { s with csr := { s.csr with eoldays := w }, fresh := s.fresh + 2, eolAt := s.time.toNat } ∧
        bits w 27 24 = 0 ∧ bits w 31 30 = 0)

/-- R216, R233, R393, R435 (log 43): an uncorrectable error returns the rail to step 0 for 60 s; when no word of the group reads the data the device reports
cause 0x25; an error in a queue's record stops that queue with code 9; one on the fault-ring header has its report discarded and counted. -/
def eccReports : Prop :=
  ∀ (s : State) (key : Nat) (pa : DWord), s.group? key = none →
    (s.csr.frbase = 0 → s.csr.spillbaseSet = false ∨ pa.toNat < s.csr.spillbase.toNat → ∃ t, exec (.eccUncorrectable key pa) s = .next t ∧ t.sramHold = some (s.uptime + 60000000000) ∧
      bits t.csr.sramset 23 16 = 0 ∧ t.csr.fltdrop = s.csr.fltdrop + 1 ∧
      (∀ q, q < 4096 → s.csr.qtbaseSet = true →
        s.queueRec q ≤ pa.toNat → pa.toNat < s.queueRec q + 64 →
        t.queueWord q 1 = setField (setField (s.queueWord q 1) 23 23 1) 31 28 9)) ∧
    (s.csr.frbase ≠ 0 → s.csr.frbase.toNat ≤ pa.toNat → pa.toNat < s.csr.frbase.toNat + 0x40 →
      ∃ w, bits w 23 16 = 0 ∧ exec (.eccUncorrectable key pa) s =
        .next { s with csr := { s.csr with sramset := w, fltdrop := s.csr.fltdrop + 1 }, sramHold := some (s.uptime + 60000000000) })

/-- R233, R393, R395, R435 (log 43): a read that meets the bad data fails with cause 0x1D after every other check, at the level of its walk; a word of a
group that reads them is performed with that failure. -/
def eccTraps : Prop :=
  (∀ (s : State) (i : Issue) (a : Access) (va : DWord) (loc : Loc) (pa : Nat), s.badData = none → s.check i a va = .ok loc →
    let first : Nat := match loc with | .dram k => k | .win c o => Config.windowBase + c * Config.windowSize + o
    let r := State.check { s with badData := some pa } i a va
    (a.need.r = true → first ≤ pa → pa < first + a.size → ∃ lv, r = .error { order := 9, code := 0x1D, level := lv }) ∧
    (a.need.r = false ∨ pa < first ∨ first + a.size ≤ pa → r = .ok loc)) ∧
  ∀ (s : State) (key : Nat) (pa raw : DWord) (g : Group) (p : Part) (team : Team) (w : Instr) (v : Word) (bad good : State),
    s.permitAllows key = true → s.candidate key false = some (g, p, team) → team.wordAt p = some (raw, .ok w) → readWord w ≠ none →
    let i : Issue := { key, b := false, grp := g, part := p, team }
    let s1 : State := { s with csr := { s.csr with sramset := v }, sramHold := some (s.uptime + 60000000000), issuer := key, slotB := false }
    bit v 31 = bit s.csr.sramset 31 → bits v 30 16 = 0 → bits v 15 0 = bits s.csr.sramset 15 0 → s.badData = none →
    exec w { s1 with badData := some pa.toNat } = .next bad → exec w s1 = .next good → { bad with badData := none } ≠ good →
    exec (.eccUncorrectable key pa) s = .next (s1.afterWord { bad with badData := none } i raw w)

/-- R215, R440, R441: device reset brings every register to its reset value and keeps memory and the fuses (log 44); then an image that passes every
check runs with its version and measurement, and another leads to RECOVERY. The bounds of LENGTH are log 62. -/
def resetAndBoot : Prop :=
  ∀ (s : State),
    (∃ t, exec .deviceReset s = .next t ∧ t.mem = s.mem ∧ t.minSvn = s.minSvn ∧ t.csr = State.reset.csr ∧ t.groups = [] ∧ t.teams = [] ∧
      t.cores = [] ∧ t.strands = [] ∧ t.tlb2 = [] ∧ t.resident = [] ∧ t.time = 0 ∧ t.timerate = 0 ∧ t.boot = .verify ∧ t.capLvl = 15 ∧
      t.perfceil = [] ∧ t.views = [] ∧ t.images = [] ∧ t.drains = [] ∧ t.monitors = [] ∧ t.rays = [] ∧ t.launches = [] ∧ t.bins = [] ∧
      t.sheet = none ∧ t.uptime = 0) ∧
    (s.boot = .verify →
      let img := match s.fwload with
        | none => Config.flashImage
        | some n => cellsGet (w := 8) s.mem 0 n
      let field (o n : Nat) : Nat := fromBytes ((img.drop o).take n); let len := field 8 8
      let signed := img.take 16 ++ (img.drop 128).take len
      let good : Prop := sha512 Config.romKey = Config.fusedKeyHash ∧ 128 + len ≤ img.length ∧ 1 ≤ len ∧ len ≤ 2 ^ 26 ∧
        edVerify Config.romKey (sha512 signed) ((img.drop 16).take 64) = true ∧ field 4 4 = 0 ∧
        (∀ b ∈ (img.drop 0x50).take 0x30, b = 0) ∧ max Config.fusedSvn.toNat s.minSvn.toNat ≤ field 0 4
      (good → exec .firmwareVerify s =
        .next { s with boot := .run, svn := BitVec.ofNat 32 (field 0 4), measurement := sha512 signed }) ∧
      (¬ good → exec .firmwareVerify s = .next { s with boot := .recovery }))

/-- R442: the attestation report: with firmware running, STATUS 1 and its fields at their offsets, then the signature over the 160 bytes;
else STATUS 2. -/
def attestation : Prop :=
  ∀ (s : State) (p : DWord), s.attreq = some p →
    let pa := p.toNat
    (s.boot ≠ .run → ∃ t, exec .attestationReport s = .next t ∧ t.attreq = none ∧ readNat t.mem (pa + 0x44) 4 = 2 ∧
      ∀ a, a < pa + 0x44 ∨ pa + 0x48 ≤ a → cellGet (w := 8) t.mem a = cellGet (w := 8) s.mem a) ∧
    (s.boot = .run →
      let seed := hkdf32 Config.identitySalt Config.uniqueSecret Config.identityInfo
      let body := toBytes 4 1 ++ toBytes 4 1 ++ toBytes 8 Config.serialNumber.toNat ++ padBytes s.measurement 64 ++
        cellsGet (w := 8) s.mem pa 32 ++ toBytes 4 s.svn.toNat ++ toBytes 4 (max Config.fusedSvn.toNat s.minSvn.toNat) ++
        toBytes 8 s.time.toNat ++ padBytes (edPublic seed) 32
      ∃ t, exec .attestationReport s = .next t ∧ t.attreq = none ∧ cellsGet (w := 8) t.mem (pa + 0x40) 160 = body ∧
        cellsGet (w := 8) t.mem (pa + 0xE0) 64 = padBytes (edSign seed body) 64 ∧
        ∀ a, a < pa + 0x40 ∨ pa + 0x120 ≤ a → cellGet (w := 8) t.mem a = cellGet (w := 8) s.mem a)

/-! ## Views -/

/-- R70: the next submitted view becomes active when fewer than 16 are: it is checked; a rejected view writes STATUS 1 and its counters, and one whose
descriptor cannot be read adds 1 to VIEWDROP and is reported. An active view starts once WAITCTR has reached WAITVAL. -/
def viewsStart : Prop :=
  ∀ (s : State) (v : View), v ∈ s.views → (s.views.map View.id).Nodup →
    let o := exec .viewActivate s
    (s.dispatches = true → s.views.countP View.active < 16 → s.views.find? (fun w => w.phase = .submitted) = some v →
      let read := s.engineReads none 4096 v.va.toNat 32
      (∀ d, read = .ok d →
        let w (k : Nat) : Nat := (dwordAt d k).toNat; let width := bits (dwordAt d 4) 31 16; let height := bits (dwordAt d 4) 15 0
        let flags := dwordAt d 7
        let bad : Prop := w 0 % 16384 ≠ 0 ∨ w 1 % 8 ≠ 0 ∨ w 2 % 64 ≠ 0 ∨ w 3 % 8 ≠ 0 ∨ w 5 % 8 ≠ 0 ∨ w 16 % 256 ≠ 0 ∨ w 17 % 64 ≠ 0 ∨
          w 18 % 8 ≠ 0 ∨ w 19 % 8 ≠ 0 ∨ w 20 % 64 ≠ 0 ∨ bits flags 63 8 ≠ 0 ∨ bits flags 3 0 ≠ 0 ∨ (∃ k, k < 11 ∧ w (21 + k) ≠ 0) ∨
          width = 0 ∨ 16384 < width ∨ height = 0 ∨ 16384 < height ∨ bits flags 5 4 = 3 ∨ w 20 = 0 ∨ s.ctxBad 4096 = true
        (¬ bad → o = .next (s.setView { v with desc := d, phase := .active })) ∧
        (bad → ∃ t, o = .next t ∧ t.view? v.id = none ∧
          let s1 := if w 20 ≠ 0 ∧ w 20 % 64 = 0 then (s.writeViewRecord (w 20) [1, 0, 0, 0, 0, 0, 0, 0]).writeViewRecord (w 20 + 0x40) (List.replicate 8 0)
            else s
          let bump (s : State) (k : Nat) : State := if w k % 8 = 0 then s.bumpCounter (dwordAt d k) else s
          t.mem = (bump (bump s1 18) 19).mem)) ∧
      (∀ e, read = .error e → ∃ t, o = .next t ∧ t.view? v.id = none ∧ t.csr.viewdrop = s.csr.viewdrop + 1)) ∧
    (v.phase = .active → let start := exec (.rasterStart v.id) s; let at_ := (dwordAt v.desc 5).toNat
      (at_ = 0 → start = .next (s.setView { v with phase := .drawing })) ∧
      (at_ ≠ 0 → ∀ x, s.picture at_ 8 = .ok x →
        ((dwordAt v.desc 6).toNat ≤ x → start = .next (s.setView { v with phase := .drawing })) ∧
        (x < (dwordAt v.desc 6).toNat → start = .next s)) ∧
      (at_ ≠ 0 → v.tiles = [] → ∀ e, s.picture at_ 8 = .error e →
        ∃ t, start = .next t ∧ t.view? v.id = none ∧ ∀ b ∈ t.bins, b.source ≠ .view v.id))

/-- R68, R71, R72, R76, R81: a draw-stream entry. A reserved entry, a malformed page or triangle adds to BADTRI; a page that is not resident is
replaced by its resident parent, or skipped; each triangle of the page drawn is set up and binned, where the buffer takes it; a read check that fails
aborts the view. -/
def entriesAreDrawn : Prop :=
  ∀ (s : State) (v : View) (x : Nat), v ∈ s.views → (s.views.map View.id).Nodup → v.phase = .drawing →
    v.next < bits (dwordAt v.desc 4) 63 32 → s.picture ((dwordAt v.desc 3).toNat + 8 * v.next) 8 = .ok x →
    let e : DWord := BitVec.ofNat 64 x; let inst := bits e 63 40; let page := bits e 31 0; let w : View := { v with next := v.next + 1 }
    let puts (w : View) : Prop := exec (.drawEntryRead v.id) s = .next (s.setView w)
    let base (p : Nat) : Nat := (dwordAt v.desc 0).toNat + p * 16384
    let draws (w : View) (p : Nat) : Prop :=
      (∀ h, readHead s.picture (base p) = .ok h → h.ok = false →
        puts { w with badtri := w.badtri + if 1 ≤ h.ntri ∧ h.ntri ≤ 128 then h.ntri else 1 }) ∧
      ∀ h m (tri : Nat → Option (List BinnedTri)), readHead s.picture (base p) = .ok h → h.ok = true →
        readMatrix s.picture (dwordAt v.desc 2).toNat inst = .ok m →
        let given := ((List.range h.ntri).flatMap fun t => (tri t).getD []).flatMap w.binEntries
        (∀ t, t < h.ntri → s.setUpTri w inst p h m t = .ok (tri t)) →
        (∀ n, 0 < n → n ≤ w.binned.length + given.length → Config.binFull s.csr.binbuf.toNat n = false) →
        puts { w with binned := w.binned ++ given, badtri := w.badtri + (List.range h.ntri).countP fun t => (tri t).isNone }
    let resident (p : Nat) (b : Bool) : Prop := readResident s.picture (dwordAt v.desc 1).toNat p = .ok b
    let reserved : Prop := bits e 39 32 ≠ 0 ∨ inst = 2 ^ 24 - 1 ∨ page = 0xFFFFFFFF
    let stops (w : View) (a : Nat) : Prop := exec (.drawEntryRead v.id) s = .next (s.faultView w 4 a)
    (∀ f, ¬ reserved → readResident s.picture (dwordAt v.desc 1).toNat page = .error f → stops w f.2.2) ∧
    (∀ f, ¬ reserved → resident page true → readHead s.picture (base page) = .error f → stops w f.2.2) ∧
    (reserved → puts { w with badtri := w.badtri + 1 }) ∧
    (¬ reserved → resident page true → draws w page) ∧
    (¬ reserved → resident page false → dwordAt v.desc 17 = 0 → ∀ parent, readParent s.picture (base page) = .ok parent →
      (parent = 0xFFFFFFFF → puts { w with skipped := w.skipped + 1 }) ∧
      (parent ≠ 0xFFFFFFFF → resident parent true → draws { w with proxy := w.proxy + 1 } parent) ∧
      (parent ≠ 0xFFFFFFFF → resident parent false → puts { w with skipped := w.skipped + 1 }))

/-- R68, R76: a triangle of a page: one that R68 skips adds 1 to BADTRI; a set-up triangle is appended to the buffer, an entry for each 64 x 64-pixel
bin that it may cover, after a counted flush of all it holds when it cannot take them (Config.binFull, the model's name for the room
that the spec leaves open: log 7; each view has the whole of it: log 89). -/
def trianglesAreBinned : Prop :=
  (∀ (v : View) (b : BinnedTri) (e : Nat × BinnedTri), e ∈ v.binEntries b ↔
    ∃ x y, x ∈ (v.span b).1 ∧ y ∈ (v.span b).2 ∧ e = (y / 64 * ((v.width + 63) / 64) + x / 64, b)) ∧
  ∀ (d : Drawn) (b : BinnedTri) (inst page t : Nat) (h : PageHead) (m : List Word), d.fault = none →
    (d.s.setUpTri d.v inst page h m t = .ok none → d.tri inst page h m t = { d with v := { d.v with badtri := d.v.badtri + 1 } }) ∧
    (d.s.setUpTri d.v inst page h m t = .ok (some [b]) →
      let es := d.v.binEntries b
      if d.v.binned ≠ [] ∧ es ≠ [] ∧ Config.binFull d.s.csr.binbuf.toNat (d.v.binned.length + es.length) = true then
        ∀ u x, d.s.flushView { d.v with flushes := d.v.flushes + 1 } = (u, none) → u.view? d.v.id = some x →
          d.tri inst page h m t = { s := u, v := { x with binned := x.binned ++ es } }
      else d.tri inst page h m t = { d with v := { d.v with binned := d.v.binned ++ es } }) ∧
    (∀ e, d.s.setUpTri d.v inst page h m t = .error e → d.tri inst page h m t = { d with fault := some e.2.2 })

/-- R74: the nearer sample, the greater depth, replaces what a pixel holds; of equal depths the lower ID. -/
def samplesReplace : Prop :=
  ∀ (id : DWord) (z : Word) (old : DWord × Word),
    (fLt old.2 z = true → replaces id z old = true) ∧ (fLe old.2 z = false → replaces id z old = false) ∧
    (fLt old.2 z = false → fLe old.2 z = true → fLe z old.2 = true → (replaces id z old = true ↔ id.toNat < old.1.toNat))

/-- R76, R77, R80: a flush empties the buffer and is counted; between entries it comes when the buffer cannot take the triangle that the next entry
brings first; once every entry is drawn the view is sealed: its OPEN tiles are SEALED, its statistics
record is written and SEALCTR incremented; when every tile has been released its shading record is written and DONECTR incremented. -/
def viewsSealAndEnd : Prop :=
  ∀ (s u : State) (v : View), v ∈ s.views → (s.views.map View.id).Nodup →
    let w (k : Nat) : Nat := (dwordAt v.desc k).toNat
    (s.flushView { v with flushes := v.flushes + 1 } = (u, none) →
      (∃ x, u.view? v.id = some x ∧ x.binned = [] ∧ x.flushes = v.flushes + 1 ∧ x.desc = v.desc) ∧
      (v.phase = .drawing → v.next < bits (dwordAt v.desc 4) 63 32 → v.binned ≠ [] →
        exec (.binFlush v.id) s = .next (if s.nextEntries v ≠ [] ∧
          Config.binFull s.csr.binbuf.toNat (v.binned.length + (s.nextEntries v).length) = true then u else s))) ∧
    (v.phase = .drawing → bits (dwordAt v.desc 4) 63 32 ≤ v.next → bit (dwordAt v.desc 7) 7 = false → s.flushView v = (u, none) →
      ∀ x, u.view? v.id = some x → x.desc = v.desc → ∃ t y, exec (.viewSeal v.id) s = .next t ∧ t.view? v.id = some y ∧ y.phase = .sealed ∧
        (∀ tile ∈ y.tiles, tile.state ≠ .opened) ∧
        t.mem = ((u.writeViewRecord (w 20) [0, x.flushes, x.spills, x.dlyadd, x.dlydrop, x.proxy, x.skipped, x.badtri]).bumpCounter
          (dwordAt v.desc 18)).mem) ∧
    (v.tiles = [] → v.aborted = false → v.phase = .sealed → ∃ t, exec (.viewDone v.id) s = .next t ∧ t.view? v.id = none ∧
      t.mem = ((s.writeViewRecord (w 20 + 0x40) [v.launched, v.pixlanes, v.helpers, v.vacant, v.partialCount, v.badmat, v.attrshort, 0]).bumpCounter
        (dwordAt v.desc 19)).mem) ∧
    (v.tiles = [] → v.aborted = true → ∃ t, exec (.viewDone v.id) s = .next t ∧ t.view? v.id = none ∧
      t.mem = (s.bumpCounter (dwordAt v.desc 19)).mem)

/-- R83, R85, R86, R89, R90, R93: the lowest SEALED tile of a sealed view is scanned, an order that is the model's choice (log 89): a pixel of a good material is appended to that material's open bin, in
ascending pixel order, and counted in the tile's references; a bad one adds to BADMAT; a tile without references is released. -/
def tilesAreScanned : Prop :=
  ∀ (s : State) (v : View) (x : VTile) (pixels : List (DWord × Word)) (mats : List (Option (Option Nat))), v ∈ s.views →
    (s.views.map View.id).Nodup → v.phase = .sealed →
    x ∈ v.tiles → x.state = .sealed → (∀ y ∈ v.tiles, y = x ∨ (y.idx ≠ x.idx ∧ (y.state = .sealed → x.idx < y.idx))) →
    (∃ e, e < 8 ∧ s.engineWaiting e < 64) →
    (if x.spilled then ∃ ws, readDwords s.picture ((dwordAt v.desc 16).toNat + 768 * x.idx) 96 = .ok ws ∧
      pixels = (List.range 64).map fun j => (dwordAt ws j, if j % 2 = 0 then lo32 (dwordAt ws (64 + j / 2)) else hi32 (dwordAt ws (64 + j / 2)))
    else pixels = x.pixels) → s.tileMats v pixels = .ok mats →
    let o := exec (.tileScan v.id) s; let mat (j : Nat) : Option (Option Nat) := mats.getD j none
    (s.csr.matdir = 0 → (∀ b ∈ s.bins, b.source ≠ .view v.id) → bit (dwordAt v.desc 7) 7 = false →
      ∃ t y, o = .next t ∧ SameBytes s t ∧ t.view? v.id = some y ∧ y.tiles = v.tiles.filter (fun z => z.idx ≠ x.idx) ∧
        y.badmat = v.badmat + (List.range 64).countP (fun j => (mat j).isSome) ∧ t.bins = s.bins) ∧
    (∀ m b, s.bin? (.view v.id) m false = some b → b.quad = false → (∀ j, j < 64 → mat j = none ∨ mat j = some (some m)) →
      let js := (List.range 64).filter fun j => (mat j).isSome
      js ≠ [] → pixels.length ≤ 64 → b.entries.length + js.length < 32 → (∃ y ∈ v.tiles, y ≠ x ∧ y.state = .sealed) → v.aborted = false →
      let px (j : Nat) : DWord × Word := pixels.getD j (background, 0)
      ∃ t y, o = .next t ∧ SameBytes s t ∧ t.view? v.id = some y ∧ y.badmat = v.badmat ∧
        y.tile? x.idx = some { x with state := .classified, refs := js.length } ∧
        t.bins = s.bins.map fun z => if z.source = .view v.id ∧ z.mat = m ∧ z.miss = false then
          { z with entries := z.entries ++ js.map (fun j => .pixel x.idx j (px j).1 (px j).2 false), last := s.uptime } else z)

/-- R86 to R88, R94, R444: the first bin that is due, one of a view open for 1,000 ns or one of a pool whose bins have taken no record for as long,
launches: for a view's, a launch of its entries with the view's next number, a team of the picture context for it, and the view's counts. A bin after one
that is due waits: the model's choice (log 89). Intervals are measured on uptime (log 79). -/
def binsTimeOut : Prop :=
  ∀ (s : State) (n : Nat) (b : MatBin), s.bins[n]? = some b →
    let due (b : MatBin) : Prop := b.opened + 1000 ≤ s.uptime ∨ ∃ p, b.source = .pool p ∧ ∀ x ∈ s.bins, x.source = b.source → x.last + 1000 ≤ s.uptime
    (¬ due b → exec (.binTimeout n) s = .next s) ∧
    (∀ m c, m < n → s.bins[m]? = some c → due c → exec (.binTimeout n) s = .next s) ∧
    ∀ v, b.source = .view v.id → v ∈ s.views → (s.views.map View.id).Nodup → due b → (∀ m c, m < n → s.bins[m]? = some c → ¬ due c) →
    b.entries.length ≤ 32 →
    let h := b.entries.countP LaneEntry.helper; let lanes := b.entries.length
    ∃ t y l tm, exec (.binTimeout n) s = .next t ∧ SameBytes s t ∧
      t.bins = s.bins.filter (fun x => ¬ (x.source = b.source ∧ x.mat = b.mat ∧ x.miss = b.miss)) ∧
      t.view? v.id = some y ∧ y.launched = v.launched + 1 ∧ y.pixlanes = v.pixlanes + (lanes - h) ∧ y.helpers = v.helpers + h ∧
      y.vacant = v.vacant + (32 - lanes) ∧ y.partialCount = v.partialCount + 1 ∧
      tabGet? t.launches s.nextLaunch = some l ∧ l.seq = v.launched ∧ l.mat = b.mat ∧ l.entries = b.entries ∧
      l.kind = (if b.quad then 1 else 0) ∧ l.va = v.va ∧
      t.team? s.freeTeamNumber = some tm ∧ tm.ctx = 4096 ∧ tm.card = b.card ∧ tm.prio = b.prio ∧ tm.launch = some s.nextLaunch ∧
      tm.recidx = v.launched % 2 ^ 32 ∧ tm.id = s.freeTeamNumber % 2 ^ 32 ∧
      (s.teams.length < 2 ^ 32 → ∀ p ∈ s.teams, p.2.id ≠ tm.id) ∧ t.pending = s.pending ++ [s.freeTeamNumber]

/-- R91, R92, R93, R95: the lane inputs of a placed team of a launch: registers v0 to v(10 + 3 x attributes) of its group hold each lane's values, a
vacant lane's the flags 2 and zeros; helper and vacant lanes are marked. The pixels of the launch then leave the references of their tiles, once, and a
tile without references is released. -/
def inputsAreWritten : Prop :=
  ∀ (s u : State) (k n : Nat) (t : Team) (l : Launch) (outs : List LaneOut), s.team? k = some t → t.phase = .placed → t.launch = some n →
    tabGet? s.launches n = some l → l.written = false → s.launchLanes l = (outs, u) → l.attrs ≤ 16 →
    ∃ t', exec (.attributeWrite k) s = .next t' ∧ (l.released = true → t'.mem = u.mem) ∧
      tabGet? t'.launches n = some { l with written := true, released := true } ∧
      (∀ key g, u.group? key = some g → g.team = k → ∃ g', t'.group? key = some g' ∧
        (∀ r x, r < 11 + 3 * l.attrs → x < 32 → g'.bound r = true ∧ g'.v r x = match outs[x]? with
          | some o => o.regs.getD r 0
          | none => if r = 0 then 2 else 0) ∧
        (∀ r, 11 + 3 * l.attrs ≤ r → g'.bound r = g.bound r ∧ ∀ x, g'.v r x = g.v r x) ∧
        (∀ x, x < 32 → g'.helper.getLsbD x = (l.entries[x]?).any LaneEntry.helper ∧ g'.vacant.getLsbD x = decide (l.entries.length ≤ x)) ∧
        g'.sregs = g.sregs ∧ g'.preds = g.preds ∧ g'.slotA = g.slotA ∧ g'.slotB = g.slotB) ∧
      ∀ id w, l.released = false → l.source = .view id → u.view? id = some w → bit (dwordAt w.desc 7) 7 = false →
        (w.tiles.map VTile.idx).Nodup → ∃ y, t'.view? id = some y ∧ y.attrshort = w.attrshort + outs.countP LaneOut.short ∧
          ∀ idx x, w.tile? idx = some x → x.state ≠ .shaded →
            let c := l.entries.countP fun e => match e with
              | .pixel tile _ _ _ helper => tile == idx && !helper
              | .slot _ _ => false
            y.tile? idx = if c = 0 then some x else if c < x.refs then some { x with refs := x.refs - c } else none

/-! ## Pre-emption -/

/-- R414 to R416: while an urgent team has no room and pre-emption is enabled, the victim is, among the resident teams of lower priority, one of the lowest
priority, then of the kind retake before drain before save, then the one placed last; it takes its choice, and a drained one notes for which
team it leaves. The window is measured on the uptime (log 79); what a drained victim leaves is kept for that team alone (log 84). -/
def victimsAreChosen : Prop :=
  ∀ (s : State) (u k : Nat) (cause : Cause) (t : Team) (c : Choice), bit s.csr.preemptctl 0 = true → s.urgentNeed = some (u, cause) →
    (∀ x ∈ s.teams, x.2.prio < 8) → (s.teams.map Prod.fst).Nodup →
    let rank (c : Choice) : Nat := match c with
      | .retake => 0
      | .drain => 1
      | .save _ => 2
    let may (k : Nat) (t : Team) (c : Choice) : Prop := (k, t) ∈ s.teams ∧ t.exposed = true ∧ t.prio < u ∧ s.choice k t false = some c
    may k t c → (∀ j y d, may j y d → j ≠ k → t.prio < y.prio ∨ (t.prio = y.prio ∧ (rank c < rank d ∨ (rank c = rank d ∧ y.placedAt < t.placedAt)))) →
      exec (.preemptVictim k) s = .next (s.setTeam k { t with phase := match c with
        | .drain => .draining (s.uptime + bits s.csr.preemptctl 31 16 * 1000) (some cause)
        | .retake => .retaking
        | .save n => .saving n s.uptime (t.phase != .placed) })

/-- R415, R416: the choice for a victim: drain when the time it is expected still to need lies in the window; retake when it may be run again and has done
little; else save, into a free slot, of several the lowest (log 88). The time that the team has run is measured on the uptime (log 79). -/
def choicesFollowTheTable : Prop :=
  ∀ (s : State) (k : Nat) (t : Team),
    let e : Nat := if t.phase = .placed then 0 else s.uptime - t.startTime
    let hint := cardIHint t.card; let w := bits s.csr.preemptctl 31 16
    let drain : Prop := w ≠ 0 ∧ hint ≠ 0 ∧ t.issued ≠ 0 ∧ (256 * hint - t.issued) * e ≤ w * 1000 * t.issued
    let retake : Prop := bit s.csr.preemptctl 1 = false ∧ cardIdem t.card = true ∧ hint ≠ 0 ∧ t.revoked = false ∧ t.issued ≤ 64 * hint ∧
      ∀ p ∈ s.groups, p.2.team = k → p.2.interrupted = false
    let taken (n : Nat) : Prop := (∃ m ∈ s.images, m.slot = n) ∨ ∃ p ∈ s.teams, ∃ since ran, p.2.phase = .saving n since ran
    (drain → s.choice k t false = some .drain) ∧ (¬ drain → retake → s.choice k t false = some .retake) ∧
    (¬ drain → ¬ retake → (∀ n, n < s.csr.savecnt.toNat → ¬ taken n → (∀ j, j < n → taken j) → s.choice k t false = some (.save n)) ∧
      ((∀ n, n < s.csr.savecnt.toNat → taken n) → s.choice k t false = none)) ∧
    (retake → s.choice k t true = some .retake)

/-- R426: PREEMPTCTX disables the queue and, when pre-emption is enabled, leaves no resident team of it that could be a victim. -/
def contextsArePreempted : Prop :=
  ∀ (s : State) (x : DWord), Served s x.toNat → (∀ p ∈ s.teams, p.2.prio < 8) → (s.teams.map Prod.fst).Pairwise (· < ·) →
    ∃ t, exec (.preemptctx x) s = .next t ∧ t.queueWord x.toNat 1 = setField (s.queueWord x.toNat 1) 16 16 0 ∧
      (∀ a, a < s.queueRec x.toNat ∨ s.queueRec x.toNat + 64 ≤ a → cellGet (w := 8) t.mem a = cellGet (w := 8) s.mem a) ∧
      (bit s.csr.preemptctl 0 = false → t.teams = s.teams) ∧
      (bit s.csr.preemptctl 0 = true → ∀ p ∈ t.teams, p.2.ctx = x.toNat → p.2.exposed = true → t.choice p.1 p.2 false = none) ∧
      ∀ k tm, s.team? k = some tm → tm.ctx ≠ x.toNat → t.team? k = some tm

/-- R418: a drained team that has not completed when its window is over (log 79) is retaken or saved, or runs on when neither can be; what it
releases when it leaves within the window is kept for the team for which it leaves, and for no other (log 84). -/
def drainsTimeOut : Prop :=
  ∀ (s : State) (k until_ : Nat) (cause : Option Cause) (t : Team), s.team? k = some t → t.phase = .draining until_ cause →
    (∀ x, x ∈ (s.vacate k).kept ↔ x ∈ s.kept ∨ ∃ q ∈ t.quarters, x.core = q.core ∧ cause = some x.cause ∧ x ∈ t.keeps) ∧
    (∀ x, (∀ c, cause = some c → x.cause ≠ c) → x ∈ (s.vacate k).kept → x ∈ s.kept) ∧
    (s.uptime ≤ until_ → exec (.drainTimeout k) s = .next s) ∧
    (until_ < s.uptime →
      (s.retakes? k t = true → exec (.drainTimeout k) s = .next (s.setTeam k { t with phase := .retaking })) ∧
      (s.retakes? k t = false → (∀ n, s.freeSlot = some n → exec (.drainTimeout k) s = .next (s.setTeam k { t with phase := .saving n s.uptime true })) ∧
        (s.freeSlot = none → exec (.drainTimeout k) s = .next (s.setTeam k { t with phase := .running }))))

/-- R419: RETAKE: a team whose groups have stopped, with nothing on its way, leaves its cores with its requests, loops and monitors, and waits to start
again from its record ahead of other teams (log 57); PRERETAKES counts it. -/
def teamsAreRetaken : Prop :=
  ∀ (s : State) (k : Nat) (t : Team), s.team? k = some t → t.phase = .retaking → (∃ f ∈ t.fates, f = .live) →
    t.moving = false → s.stopped k = true → (∀ d ∈ s.drains, d.team = k → d.parked = true) →
    (∀ p ∈ s.groups, p.2.team = k → p.2.outstanding = [] ∧ p.2.late = []) →
    ∃ u t', exec (.retake k) s = .next u ∧ (∀ p ∈ u.groups, p.2.team ≠ k) ∧ u.team? k = some t' ∧ t'.phase = .dealt ∧ t'.quarters = [] ∧
      t'.issued = 0 ∧ t'.recidx = t.recidx ∧ t'.card = t.card ∧ t'.prio = t.prio ∧ u.pending = k :: s.pending ∧
      u.csr.preretakes = s.csr.preretakes + 1 ∧ (∀ m ∈ u.monitors, m.team ≠ k) ∧ t'.id = t.id ∧ t'.fates = [] ∧ t'.home = none ∧
      (t.launch = none → u.launches = s.launches) ∧
      (∀ n l, t.launch = some n → tabGet? s.launches n = some l → tabGet? u.launches n = some { l with written := false }) ∧
      (∀ q ∈ t.quarters, (∀ r ∈ (u.core q.core).requests, r.team ≠ k) ∧ ∀ l ∈ (u.core q.core).loops, l.team ≠ k)

/-- R420 to R423: SAVE: a team whose groups have stopped, whose rows and loads have arrived and whose atomics have, or 50 µs have passed, is kept in an
image with its groups, and leaves its cores; PRESAVES counts it. A word that waits for a permit, a partner or engine work issues again; every other wait
stands in the image (log 42). The 50 µs are measured on the uptime (log 79). Nothing outside its slot is written, and the `zero` rows of its quarters are zero. -/
def teamsAreSaved : Prop :=
  ∀ (s : State) (k slot since : Nat) (ran : Bool) (t : Team), s.team? k = some t → t.phase = .saving slot since ran → (∃ f ∈ t.fates, f = .live) →
    t.moving = false → s.stopped k = true →
    (∀ p ∈ s.groups, p.2.team = k → p.2.late = [] ∧ ∀ x ∈ p.2.outstanding, x.atomic = true ∧ since + 50000 ≤ s.uptime) →
    (∀ d ∈ s.drains, d.team = k → d.parked = true) →
    (∀ q ∈ t.quarters, ∀ r ∈ (s.core q.core).requests, r.team = k → r.window = none → recMc r.record = false ∨ (s.castAll t r.record = none ∧
      (r.phase ≠ .waiting → ∀ m ∈ s.castPresent t r.record, m.2.1.castNext = none))) →
    let kept (x : Part) : Part := match x.wait with
      | some .reissue | some .window | some (.permit _) | some .matrix | some (.msync _ _ _ _ _) | some (.regroup _ _ _ _ _) => { x with wait := none, turn := false }
      | _ => x
    ∃ u t' m, exec (.save k) s = .next u ∧ (∀ p ∈ u.groups, p.2.team ≠ k) ∧ u.team? k = some t' ∧ t'.phase = .saved slot ∧ t'.quarters = [] ∧
      t'.fates = t.fates ∧ t'.issued = t.issued ∧ u.csr.presaves = s.csr.presaves + 1 ∧ u.image? k = some m ∧ m.slot = slot ∧ m.ran = ran ∧
      m.groups = (s.groups.filter fun p => p.2.team = k).map (fun p => p.2.saved) ∧
      (∀ p ∈ s.groups, p.2.saved.vregs.map (fun r => (r.1, r.2.lanes)) = p.2.vregs.map (fun r => (r.1, r.2.lanes)) ∧
        p.2.saved.sregs = p.2.sregs ∧ p.2.saved.preds = p.2.preds ∧ p.2.saved.stack = p.2.stack ∧ p.2.saved.slotA = p.2.slotA.map kept ∧
        p.2.saved.slotB = p.2.slotB.map kept ∧ p.2.saved.mode = p.2.mode ∧
        p.2.saved.uframe = { p.2.uframe with slotA := p.2.uframe.slotA.map kept, slotB := p.2.uframe.slotB.map kept } ∧
        p.2.saved.sframe = { p.2.sframe with slotA := p.2.sframe.slotA.map kept, slotB := p.2.sframe.slotB.map kept } ∧ p.2.saved.events = p.2.events ∧ p.2.saved.outstanding = p.2.outstanding) ∧
      (t.quarters.length ≤ 4 → (∀ q ∈ t.quarters, q.kib ≤ 640 ∧ (∀ c ∈ q.claims, c.1 < 64) ∧ q.tiles.length ≤ 16 ∧ q.lists.length ≤ 16 ∧
          ((s.core q.core).requests.countP fun r => r.team = k) ≤ 256) → (∀ j, (s.groups.countP fun p => p.2.team = k ∧ p.2.quarter = j) ≤ 16) →
        noneInReserve s →
        (∀ a, a < s.csr.savebase.toNat + slot * 2 ^ 24 ∨ s.csr.savebase.toNat + (slot + 1) * 2 ^ 24 ≤ a →
          cellGet (w := 8) u.mem a = cellGet (w := 8) s.mem a) ∧
        ∀ j o, j < t.quarters.length → (0x90000 ≤ o ∧ o < 0x100000) ∨ (0x1A0000 ≤ o ∧ o < 0x200000) ∨ (0x2C8000 ≤ o ∧ o < 0x300000) ∨
          (0x340000 ≤ o ∧ o < 0x400000) → cellGet (w := 8) u.mem (s.csr.savebase.toNat + slot * 2 ^ 24 + j * 2 ^ 22 + o) = 0)

/-- R421, R424: RESTORE: the saved team that comes first, once no other that waits goes before it (log 57), is put at its place with what its image
holds: a slot parked at a barrier or in WAITANY stands at its word, every other wait and value is as it was saved (log 42), and replies are merged. The
time that it has run goes on on the uptime (log 79). -/
def teamsAreRestored : Prop :=
  ∀ (s : State) (k w : Nat) (t : Team) (m : Image), s.team? k = some t → s.image? k = some m → s.nextRestore = some k →
    let first : Prop := ∃ p, s.savedPrio = some p ∧ ∀ x ∈ s.contenders, savedKeyAt p ≤ x
    (¬ first → exec (.restore k) s = .next s) ∧ (first →
    let again (x : Part) : Part := match x.wait with
      | some (.bar _ _) | some (.tbar _ _) | some (.waitany _) => { x with wait := none }
      | _ => x
    (m.bad = true → ∃ u t', exec (.restore k) s = .next u ∧ u.team? k = some t' ∧ t'.phase = .ended ∧ ∀ x ∈ u.images, x.team ≠ k) ∧
    (m.bad = false → s.targetOf k t = some w → (s.serving t.cause).fitsNow ((s.serving t.cause).shapeOf k t) w = true →
      ∃ u t', exec (.restore k) s = .next u ∧ u.team? k = some t' ∧ t'.phase = (if m.ran then .running else .placed) ∧ t'.card = t.card ∧
        t'.recidx = t.recidx ∧ t'.issued = t.issued ∧ t'.fates = t.fates ∧ t'.startTime = s.uptime - m.elapsed ∧
        (s.slotBytes m = m.bytes → (∀ c, (m.groups.countP fun g => groupCore t.card w g.role g.rgroup = c) ≤
            if c ∈ coresAt t.card w then groupsPerCore t.card else 0) →
          ∀ g ∈ m.groups, ∃ key g', u.group? key = some g' ∧ keyCore key = groupCore t.card w g.role g.rgroup ∧ g'.gidx = g.gidx ∧
            g'.slotA = g.slotA.map again ∧ g'.slotB = g.slotB.map again ∧ g'.stack = g.stack ∧ g'.sregs = g.sregs ∧ g'.preds = g.preds ∧
            g'.mode = g.mode ∧ g'.events = g.events ∧ g'.outstanding = g.outstanding ∧
            ((∀ x ∈ m.replies, x.1 ≠ g.gidx) → ∀ r, g'.bound r = g.bound r ∧ ∀ l, g'.v r l = g.v r l) ∧
            ∀ p n, m.replies.filter (fun x => x.1 = g.gidx) = [(g.gidx, p)] → p.dst = .v n → ∀ r l, l < 32 → g'.v r l =
              if n ≤ r ∧ r < n + p.words ∧ p.mask.getLsbD l then (p.values.getD (r - n) []).getD l 0 else g.v r l)))

/-- R117, R118: HOTSPOT_MIGRATION: of a core above HOTTHR, issue stops in an eligible team for which there is a core of another string with room that is
below HOTTHR by HOTHYST, which of several is log 88; once its groups have stopped and its accesses have performed it moves there, where ways are converted
first until it fits; nothing that a program reads of it changes. A team that has become ineligible, or that no core can take any more, runs on (log 59). -/
def teamsMigrate : Prop :=
  (∀ (s : State) (core w k : Nat) (t : Team), s.mover core = none → s.csr.hotthr.toNat < (s.core core).temp → s.migrant core = some (k, t) →
    s.coolCore core k t = some w → exec (.hotspotMigration core) s = .next (s.setTeam k { t with moving := true })) ∧
  (∀ (s : State) (core : Nat), s.mover core = none → (s.core core).temp ≤ s.csr.hotthr.toNat → exec (.hotspotMigration core) s = .next s) ∧
  (∀ (s : State) (k : Nat) (t : Team) (key : Nat) (g : Group) (b : Bool), s.group? key = some g → g.team = k → s.team? k = some t → t.moving = true →
    s.runs key b g = false → s.candidate key b = none) ∧
  (∀ (s : State) (core k : Nat) (t : Team), s.mover core = some (k, t) → s.eligible core k t = false ∨ s.coolCore core k t = none →
    exec (.hotspotMigration core) s = .next (s.setTeam k { t with moving := false })) ∧
  (∀ (s : State) (core w k : Nat) (t : Team), s.mover core = some (k, t) → s.eligible core k t = true → s.coolCore core k t = some w →
    s.stopped k = false ∨ (∃ d ∈ s.drains, d.team = k ∧ d.parked = false) ∨ (∃ p ∈ s.groups, p.2.team = k ∧ (p.2.outstanding ≠ [] ∨ p.2.late ≠ [])) →
    exec (.hotspotMigration core) s = .next s) ∧
  ∀ (s : State) (core w k : Nat) (t : Team), s.mover core = some (k, t) → s.eligible core k t = true → s.team? k = some t →
    s.stopped k = true → (∀ d ∈ s.drains, d.team = k → d.parked = true) →
    (∀ p ∈ s.groups, p.2.team = k → p.2.outstanding = [] ∧ p.2.late = []) →
    s.coolCore core k t = some w → strandOf w ≠ strandOf core ∧ (s.core w).temp + s.csr.hothyst.toNat ≤ s.csr.hotthr.toNat ∧
      (s.fitsNow (s.shapeOf k t) w = false → exec (.hotspotMigration core) s = .next ((s.convertWay w).getD s)) ∧
      (s.fitsNow (s.shapeOf k t) w = true → ∃ u t', exec (.hotspotMigration core) s = .next u ∧ u.team? k = some t' ∧ t'.phase = t.phase ∧
        t'.moving = false ∧ t'.quarters.map Quarter.core = coresAt t.card w ∧ t'.fates = t.fates ∧ t'.id = t.id ∧ t'.recidx = t.recidx ∧
        t'.issued = t.issued ∧
        (∀ d ∈ u.drains, d.team = k → ∃ e ∈ s.drains, e.team = k ∧ d = { e with core := d.core } ∧
          ∀ q, t.quarters = [q] → e.core = q.core → d.core = w) ∧
        ((s.groups.countP fun p => p.2.team = k) ≤ groupsPerCore t.card → ∀ p ∈ s.groups, p.2.team = k →
          ∃ key g', u.group? key = some g' ∧ keyCore key = w ∧ g'.gidx = p.2.gidx ∧ g'.stack = p.2.stack ∧ g'.sregs = p.2.sregs ∧
            g'.preds = p.2.preds ∧ g'.mode = p.2.mode ∧ g'.events = p.2.events ∧ g'.slotA.map Part.pc = p.2.slotA.map Part.pc ∧
            g'.slotB.map Part.pc = p.2.slotB.map Part.pc ∧ ∀ r, g'.bound r = p.2.bound r ∧ ∀ l, g'.v r l = p.2.v r l))

/-! ## The step, the decoder, reset and memory -/

end Sys2Proof

open Sys2Proof Sys2Proof.Machine Sys2Proof.Claim

/-! ## The statements -/

/-- R175, R180: ICMP, FCMP and LEA, and the relations of the comparisons. -/
def Obligations.ComparisonAndAddressWords : Prop :=
  comparisonAndAddressWords ∧ comparisonRelations

/-- R162, R167, R169: the integer arithmetic words, with every register each may name. -/
def Obligations.IntegerArithmeticWords : Prop :=
  integerArithmeticStoresResult ∧ carryAndDotProductWords

/-- R172, R175: logic, shifts, selection, bit fields and what their functions are, bit for bit. -/
def Obligations.LogicShiftAndBitFieldWords : Prop :=
  logicAndShiftWords ∧ bitFieldWords ∧ bitFieldFunctions

/-- R181, R182, R188: FCLASS writes a mask with one bit set, by the fields of A; packed halves compute per half; VSEL chooses by the
verdict code. None tests for verdict words. -/
def Obligations.ClassHalfAndSelectWords : Prop :=
  ∀ (s : State) (i : Issue) (g : Guard) (bf big : Bool) (r : Rnd) (d a b c : Operand), s.issuing = some i →
    let F := halfFmt bf; let H (o : Operand) (l k : Nat) : Nat := (i.srcH bf o l).toNat / 2 ^ (16 * k) % 2 ^ 16
    let two (f : Nat → Nat × Nat) : Nat × Nat := ((f 0).1 + (f 1).1 * 2 ^ 16, (f 0).2 ||| (f 1).2)
    ((Instr.fclass g d a).wf → DoesWord s i g d (exec (.fclass g d a) s) fun l =>
      let x := i.srcF a l
      BitVec.twoPow 32 (if isVerdict x then 10
        else if nan32 x.toNat then (if snan32 x.toNat then 8 else 9)
        else if bits x 30 23 = 255 then (if bit x 31 then 0 else 7)
        else if bits x 30 0 = 0 then (if bit x 31 then 3 else 4)
        else if bits x 30 23 = 0 then (if bit x 31 then 2 else 5)
        else if bit x 31 then 1 else 6)) ∧
    ((Instr.hadd2 g bf r d a b).wf → DoesFloat s i g d [] (exec (.hadd2 g bf r d a b) s) fun l => two fun k => F.add r (H a l k) (H b l k)) ∧
    ((Instr.hmul2 g bf r d a b).wf → DoesFloat s i g d [] (exec (.hmul2 g bf r d a b) s) fun l => two fun k => F.mul r (H a l k) (H b l k)) ∧
    ((Instr.hfma2 g bf r d a b c).wf → DoesFloat s i g d [] (exec (.hfma2 g bf r d a b c) s) fun l =>
      two fun k => F.fma r (H a l k) (H b l k) (H c l k)) ∧
    ((Instr.hminmax2 g bf big d a b).wf → DoesFloat s i g d [] (exec (.hminmax2 g bf big d a b) s) fun l =>
      two fun k => F.minMax big (H a l k) (H b l k)) ∧
    ((Instr.vsel g d a b c).wf → DoesWord s i g d (exec (.vsel g d a b c) s) fun l =>
      if isVerdict (i.srcF a l) then (if bits (i.srcF a l) 1 0 = 1 then i.srcF b l else i.srcF c l) else i.srcF a l)

/-- R164, R165, R177, R179: the FP32 words, their special operands, the rounding of every finite result, and the function table. -/
def Obligations.Fp32Words : Prop :=
  fp32WordsWriteResultAndFlags ∧ fpSpecialOperands ∧ arithmeticRoundsOnce ∧ fpFunctionTable

/-- R166, R183 to R187: the conversions with the outcomes of R184, the packed elements, VTEST with its tests, and the verdict-operand trap. -/
def Obligations.ConversionsAndTheVerdictTrap : Prop :=
  conversionAndVerdictWords ∧ conversionOutcomes ∧ verdictTests ∧ verdictTrapNamesLowestLane

/-- R136, R137, R162, R166, R189: the pair word, and its halves as the full words they abbreviate. -/
def Obligations.PairAndHalfWords : Prop :=
  pairWordRunsBothHalves ∧ halfOpsComputeAsFullWords

/-- R191, R192, R194: the predicate words and the words that read other lanes. -/
def Obligations.PredicateAndLaneExchangeWords : Prop :=
  predicateWords ∧ voteMatchAndLaneReadWords ∧ shuffleWord

/-- R194: the scan and reduction words, and the identities their operations start from. -/
def Obligations.ScanWords : Prop :=
  scanAndReductionWords ∧ scanOperationsHaveIdentities

/-- R120, R131, R153, R154, R200, R201: the transfers of control and EXIT. -/
def Obligations.TransfersAndExit : Prop :=
  transfersMoveOrSplitTheirPart ∧ exitRemovesItsLanes

/-- R154, R155, R201: JOIN, word and effect. -/
def Obligations.JoinParksMergesAndSettles : Prop :=
  joinParksMergesAndReleases ∧ joinSettlesEveryPart

/-- R122, R141, R202: the causes that words raise by themselves. TRAP names its code and the next word; BRK names its code and itself;
an unassigned opcode and a failed fetch name the active lanes, by log 15. -/
def Obligations.WordsRaiseTheirCauses : Prop :=
  ∀ (s : State) (i : Issue) (k : BitVec 8) (n : BitVec 16) (w : DWord) (level : Nat), s.issuing = some i →
    let X := i.lanes Guard.always
    Traps s i (exec (.trap k) s) { code := if k.toNat < 128 then 0x10 else 0x11, info := k.setWidth 32, tmask := X, exmask := X,
                                   tepc := i.part.pc + 8 } ∧
    Traps s i (exec (.brk n) s) { code := 0x12, info := n.setWidth 32, tmask := X, exmask := X, tepc := i.part.pc } ∧
    ((Instr.unassignedOpcode w).wf →
      Traps s i (exec (.unassignedOpcode w) s) { code := 0x01, exmask := i.part.mask, tepc := i.part.pc }) ∧
    (i.team.heldWord i.part.pc = none → s.fetchBlock i.key i.grp i.team i.part.pc = .error level →
      Traps s i (exec .fetchFault s) { code := 0x18, addr := i.part.pc, info := BitVec.ofNat 32 (level * 64 + 3), exmask := i.part.mask,
                                       tepc := i.part.pc })

/-- R406, R407: a report appended to a well-formed fault ring lies at FRBASE + 0x40 + 64 x (WR mod 2^LOG2N) with its fields in place, and WR
counts it; every other byte of memory stands. -/
def Obligations.FaultReportLayout : Prop :=
  ∀ (s : State) (r : Report) (n : Nat), s.ringLog = some n → r.code < 256 → r.src < 16 → r.token < 65536 → r.ctx ≤ 4096 → r.core < 256 →
    r.group < 256 →
    let fr := s.csr.frbase.toNat; let wr := readNat s.mem fr 8; let a := fr + 0x40 + 64 * (wr % 2 ^ n); let s' := s.appendReport r
    let d (k : Nat) : DWord := read64 s'.mem (a + 8 * k)
    (11 ≤ n ∧ n ≤ 20 ∧ fr % 64 = 0 ∧ fr ≠ 0) ∧
    (bits (d 0) 63 56 = r.code ∧ bits (d 0) 55 52 = r.src ∧ bits (d 0) 51 48 = 0 ∧ bits (d 0) 47 32 = r.token ∧ bits (d 0) 31 29 = 0 ∧
      bits (d 0) 28 16 = r.ctx ∧
      bits (d 0) 15 0 = 0) ∧
    (d 1 = r.addr ∧ d 2 = r.pc ∧ bits (d 3) 63 32 = r.info.toNat ∧ bits (d 3) 31 0 = r.tmask.toNat) ∧
    (bits (d 4) 63 32 = r.team % 2 ^ 32 ∧ bits (d 4) 31 24 = r.core ∧ bits (d 4) 23 16 = r.group ∧ bits (d 4) 15 0 = 0) ∧
    (d 5 = s.time ∧ bits (d 6) 63 32 = 0 ∧ bits (d 6) 31 0 = r.exmask.toNat ∧ d 7 = 0) ∧
    readNat s'.mem fr 8 = (wr + 1) % 2 ^ 64 ∧
    (∀ x, x < fr ∨ (fr + 8 ≤ x ∧ x < a) ∨ a + 64 ≤ x → cellGet (w := 8) s'.mem x = cellGet (w := 8) s.mem x) ∧
    s'.groups = s.groups ∧ s'.cores = s.cores ∧ s'.csr = s.csr

/-- R203, R233, R400, R411: TRET. Outside a handler, or with another part of the handler live, it raises the illegal-operand trap; a user handler,
and a supervisor handler with TACTION 0 and no more bound registers than VREGS, restore the frame's parts, mode and stack depth at TEPC,
a fault's word being reissued in EXMASK minus TMASK; TACTION 1 and a group with too many registers end the group abnormally, TACTION 2 every group of its team, and TACTION 3 makes its context fatal
(R411). Which causes reissue their word is log 15; the wait left where TEPC was rewritten is log 26. -/
def Obligations.TretRestoresTheFrame : Prop :=
  ∀ (s : State) (i : Issue), s.issuing = some i →
    let g := i.grp; let o := exec .tret s; let X := i.lanes Guard.always
    let f := if g.mode = .user then g.uframe else g.sframe
    let act := if g.mode = .user then 0 else g.taction.toNat % 4
    let back (p : Part) : Part :=
      if p.pc ≠ f.tepc then p.goTo f.tepc
      else if f.tcause.toNat % 256 ∈ [0x06, 0x08, 0x09, 0x19, 0x1A, 0x1B, 0x1C, 0x1D] then
        { p with reissue := some (f.exmask &&& ~~~f.tmask), rows := f.tinfo.toNat }
      else p
    let many := g.mode = .supervisor ∧ i.team.vregs g.role < g.vregs.length
    (g.mode = .normal ∨ 1 < g.parts.length → Traps s i o { code := 0x03, exmask := X, tepc := i.part.pc }) ∧
    (g.mode ≠ .normal → g.parts.length ≤ 1 → act = 0 → f.rewritten = true → badTarget f.tepc →
      Traps s i o { code := 0x05, addr := f.tepc, exmask := X, tepc := i.part.pc }) ∧
    (g.mode ≠ .normal → g.parts.length ≤ 1 → act = 0 → (f.rewritten = true → ¬ badTarget f.tepc) → ¬ many →
      o = .next (s.setGroup i.key
        { g with slotA := if f.inB then f.slotA else f.slotA.map back, slotB := if f.inB then f.slotB.map back else f.slotB,
                 mode := f.mode, stack := g.stack.drop (g.stack.length - f.stackDepth), ctxid := none })) ∧
    (g.mode ≠ .normal → g.parts.length ≤ 1 → act = 1 ∨ (act = 0 ∧ (f.rewritten = true → ¬ badTarget f.tepc) ∧ many) →
      i.team.live g.gidx = true → ∃ s', o = .next s' ∧ EndedAbnormally s s' i.key g i.team) ∧
    (g.mode ≠ .normal → g.parts.length ≤ 1 → act = 2 → ∃ s', o = .next s' ∧ TeamEndedAbnormally s s' g.team i.team) ∧
    (g.mode ≠ .normal → g.parts.length ≤ 1 → act = 3 → ∃ s', o = .next s' ∧ BecameFatal s s' i.team.ctx)

/-- R393, R394, R396, R402, R411, R412: what taking a trap does, at each level and when it escalates. -/
def Obligations.TrapEntry : Prop :=
  userCauseEntersUserHandler ∧ supervisorCauseAndEscalation ∧ misalignedTrapVectorEscalates ∧ supervisorTrapIsContextFatal

/-- R394, R396, R403, R404, R406: a reported cause takes a permit and is reported; a trap with no permit is held and retried. -/
def Obligations.PermitsAndHeldTraps : Prop :=
  reportedCauseTakesPermit ∧ heldTrapsAndPermitRetry

/-- R206, R207: CSRR, CSRW and CSRX. Without an executing lane they change nothing (R190, log 28). With one, a number outside the maps, a
privileged one outside supervisor handler mode, and a write of a read-only CSR trap in that order; otherwise the read value goes to the destination in every executing lane, and the value of the lowest
executing lane is stored in the part of the CSR that the width names: the high half of a 32-bit CSR takes nothing. -/
def Obligations.CsrWordsReadAndWrite : Prop :=
  ∀ (s : State) (i : Issue) (g : Guard) (w : CsrWidth) (op : CsrOp) (d a : Operand) (csr : BitVec 12), s.issuing = some i →
    (Instr.csrr g w d csr).wf → (Instr.csrw g w csr a).wf → (Instr.csrx g op w d csr a).wf →
    let n := csr.toNat; let X := i.lanes g; let full := s.csrRead i.key i.grp i.team n
    let ds := if w = .d then [d, Operand.next d 1] else [d]
    let part (x : DWord) : DWord := match w with | .lo => x &&& 0xFFFFFFFF | .hi => x >>> 32 | .d => x
    let merge (x : DWord) : DWord := match w with
      | .lo => (full &&& 0xFFFFFFFF00000000) ||| (x &&& 0xFFFFFFFF)
      | .hi => (full &&& 0xFFFFFFFF) ||| (x <<< 32)
      | .d => x
    let src (l : Nat) : DWord := if w = .d then i.src64 false a l else (i.srcN a l).setWidth 64
    let comb (x : DWord) : DWord := match op with | .swap => x | .set => part full ||| x | .clr => part full &&& ~~~x
    let got (g' : Group) (x : DWord) : Prop := if w = .d then Wrote64 i.grp g' d X fun _ => x else Wrote i.grp g' d X fun _ => x.setWidth 32
    let all (t : Trap) : Prop := Traps s i (exec (.csrr g w d csr) s) t ∧ Traps s i (exec (.csrw g w csr a) s) t ∧
      Traps s i (exec (.csrx g op w d csr a) s) t
    (X = 0 → (∀ o, o ∈ [exec (.csrw g w csr a) s, exec (.csrx g op w d csr a) s] → Ends i o s i.grp) ∧
      Completes s i (exec (.csrr g w d csr) s) ds [] 0 fun g' => got g' (part full)) ∧
    (X ≠ 0 → csrInfo n = none → all { code := 0x03, exmask := X, tepc := i.part.pc }) ∧
    (X ≠ 0 → csrInfo n ≠ none → 0x800 ≤ n → i.grp.mode ≠ .supervisor →
      all { code := 0x04, info := BitVec.ofNat 32 n, exmask := X, tepc := i.part.pc }) ∧
    (X ≠ 0 → ∀ wide acc, csrInfo n = some (wide, acc) → (0x800 ≤ n → i.grp.mode = .supervisor) →
      Fits s i g ds (exec (.csrr g w d csr) s) (Completes s i (exec (.csrr g w d csr) s) ds [] 0 fun g' => got g' (part full)) ∧
      (acc = .ro → Traps s i (exec (.csrw g w csr a) s) { code := 0x03, exmask := X, tepc := i.part.pc } ∧
        Traps s i (exec (.csrx g op w d csr a) s) { code := 0x03, exmask := X, tepc := i.part.pc }) ∧
      (n = 0x810 → (w ≠ .d → Traps s i (exec (.csrw g w csr a) s) { code := 0x03, exmask := X, tepc := i.part.pc }) ∧
        Traps s i (exec (.csrx g op w d csr a) s) { code := 0x03, exmask := X, tepc := i.part.pc }) ∧
      (acc ≠ .ro → (n = 0x810 → w = .d) →
        ∀ l, X.getLsbD l = true → (∀ k, k < l → X.getLsbD k = false) →
          GoesOnFrom i (exec (.csrw g w csr a) s) (if wide ∨ w ≠ .hi then s.csrStore i.key i.team n (merge (src l)) else s)) ∧
      (acc ≠ .ro → n ≠ 0x810 →
        ∀ l, X.getLsbD l = true → (∀ k, k < l → X.getLsbD k = false) →
          (∀ t, i.budget X ds = some t → Traps s i (exec (.csrx g op w d csr a) s) t) ∧
          (i.budget X ds = none → ∃ g', got g' (part full) ∧ RegsKept i.grp g' ds ∧
            { g' with vregs := i.grp.vregs, sregs := i.grp.sregs } = i.grp ∧
            GoesOnFrom i (exec (.csrx g op w d csr a) s)
              (if wide ∨ w ≠ .hi then (s.setGroup i.key g').csrStore i.key i.team n (merge (comb (src l))) else s.setGroup i.key g'))))

/-- R49, R62, R77, R112, R206, R212 to R215, R391, R397, R401, R403, R415, R430, R432: what each CSR number reads and what writing it
changes. That MATDIR and POOLTAB refuse values from 2^49 on is log 29; that CSCTL 0 with no table in use drops the pending arm is log 78. -/
def Obligations.CsrNumbersNameTheirState : Prop :=
  csrReadsNameTheirState ∧ csrStoresChangeTheirState ∧ csrEventsChangeTheirState

/-- R208, R210, R211, R430: SETPERF, TLBI and TRAPACK. -/
def Obligations.SetperfTlbiAndTrapack : Prop :=
  setperfRecordsAndAnswers ∧ tlbiAndTrapack

/-- R218, R236: LD whose lanes all pass writes, per executing lane, the little-endian bytes at its address: narrow sizes zero-extended,
`.i8` sign-extended, wide ones in consecutive registers; LDB does so once, from the lowest executing lane's address, into uniform
registers. No byte of memory changes. That the values stand in the registers at issue, where nothing reads them before they arrive, is the
model's choice (logs 9, 75). -/
def Obligations.LoadsReadTheirLanes : Prop :=
  ∀ (s : State) (i : Issue) (g : Guard) (nl1 acq : Bool) (sz : MemSize) (k5 : Nat) (sc : Scope) (d : Operand) (m : MemArg)
    (place : Nat → Loc), s.issuing = some i →
    let X := i.lanes g; let va := laneAddr i m
    let n : Nat := match sz with | .n8 | .i8 => 1 | .h16 => 2 | .w32 => 4 | .w64 => 8 | .x4 => 16
    let words : Nat := match sz with | .w64 => 2 | .x4 => 4 | _ => 1
    let o := exec (.ld g nl1 sz acq sc d m) s; let o' := exec (.ldb g k5 acq sc d m) s
    (X = 0 → Ends i o s i.grp ∧ Ends i o' s i.grp) ∧
    ((Instr.ld g nl1 sz acq sc d m).wf → X ≠ 0 → allPass s i (accessOf i n false) X va place →
      let ds := (List.range words).map fun k => Operand.next d k
      (∀ t, i.budget X ds = some t → Traps s i o t) ∧
      (i.budget X ds = none → ∃ t g', o = .next t ∧ t.group? i.key = some g' ∧ SameBytes s t ∧
        (∀ k, k < words → Wrote i.grp g' (Operand.next d k) X fun l =>
          let x := s.readLocNat (place l) n
          if sz = .i8 then (BitVec.ofNat 8 x).signExtend 32 else BitVec.ofNat 32 (x / 2 ^ (32 * k))) ∧
        RegsKept i.grp g' ds ∧ RestOfLoad i g' ∧ g'.late = i.grp.late ∧ Suspends i g')) ∧
    ((Instr.ldb g k5 acq sc d m).wf → ∀ l, X.getLsbD l = true → (∀ j, j < l → X.getLsbD j = false) →
      s.check i (accessOf i (4 * 2 ^ k5) false) (va l) = .ok (place l) →
      let ds := (List.range (2 ^ k5)).map fun k => Operand.next d k
      ∃ t g', o' = .next t ∧ t.group? i.key = some g' ∧ SameBytes s t ∧
        (∀ k, k < 2 ^ k5 → Wrote i.grp g' (Operand.next d k) X fun _ => BitVec.ofNat 32 (s.readLocNat (place l) (4 * 2 ^ k5) / 2 ^ (32 * k))) ∧
        RegsKept i.grp g' ds ∧ RestOfLoad i g' ∧ g'.late = i.grp.late ∧ Suspends i g')

/-- R92, R115, R218, R234, R236, R346: ST, the bytes it writes and the units that perform late. Which lanes are checked is log 73, the late units
are log 9. -/
def Obligations.StoresWriteTheirLanes : Prop :=
  storesWriteTheirLanes ∧ windowBytesWritten ∧ lateUnitsPerform

/-- R238 to R241: PREF and the CACHE words change no byte, except that `.zero` clears its lines; `.iinv` discards the team's fetch blocks;
FENCE with release waits for the group's earlier accesses, FENCE with acquire alone lets no later access perform before them (log 9); VDROP
unbinds its range. All go on. -/
def Obligations.CacheAndFenceWords : Prop :=
  ∀ (s : State) (i : Issue) (g : Guard) (lvl : PrefLevel) (m : MemArg) (k : FenceKind) (sc : Scope) (a b : Nat) (place : Nat → Loc),
    s.issuing = some i →
    let X := i.lanes g
    let keeps (o : Host.Outcome State Fault Refusal) : Prop := ∃ t, Ends i o t i.grp ∧ SameBytes s t ∧ t.groups = s.groups ∧ t.teams = s.teams ∧
      ∀ c, (t.core c).chip = (s.core c).chip
    keeps (exec (.pref g lvl m) s) ∧ keeps (exec (.cacheWb g m) s) ∧ keeps (exec (.cacheWbinv g m) s) ∧ keeps (exec (.cacheL1wb g) s) ∧
    (Ends i (exec (.cacheIinv g) s) (if X = 0 then s else s.setTeam i.grp.team { i.team with blocks := [] }) i.grp) ∧
    (let o := exec (.fence k sc) s
     (k = .acq → Ends i o s { i.grp with outstanding := i.grp.outstanding.map fun p => if p.part = 0 then p else { p with acq := true } }) ∧
     (k ≠ .acq → calm i.grp → Ends i o s i.grp) ∧ (k ≠ .acq → ¬ calm i.grp → Parks i o s i.grp .reissue)) ∧
    (X = 0 → Ends i (exec (.cacheZero g m) s) s i.grp) ∧
    (let line (l : Nat) : DWord := laneAddr i m l &&& ~~~0x7F
     X ≠ 0 → allPass s i { accessOf i 128 true with align := 1 } X line place → (∀ l, X.getLsbD l = true → plainPlace s 128 (place l)) →
      ∃ t g', exec (.cacheZero g m) s = .next t ∧ t.group? i.key = some g' ∧ StoredBytes s t X 128 place (fun _ _ => 0) ∧
        g'.vregs = i.grp.vregs ∧ g'.sregs = i.grp.sregs ∧ RestOfLoad i g' ∧ g'.late = i.grp.late ∧ Suspends i g') ∧
    ((Instr.vdrop (.v a) (.v b)).wf →
      (s.writesPending i.key i.grp a b = true → Parks i (exec (.vdrop (.v a) (.v b)) s) s i.grp .reissue) ∧
      (s.writesPending i.key i.grp a b = false → ∃ g', Ends i (exec (.vdrop (.v a) (.v b)) s) s g' ∧
        (∀ n, a ≤ n → n ≤ b → g'.bound n = false ∧ ∀ l, g'.v n l = 0) ∧
        (∀ n, n < a ∨ b < n → g'.bound n = i.grp.bound n ∧ ∀ l, g'.v n l = i.grp.v n l) ∧ { g' with vregs := i.grp.vregs } = i.grp))

/-- R3, R217, R221 to R223, R232, R233, R393, R395: the checks of an access, in their order, and the walk. -/
def Obligations.AccessChecksAndThePageWalk : Prop :=
  failedAccessNamesFirstCheck ∧ accessCheckOrder ∧ pageWalkReadsFourLevels

/-- R360, R361, R417: the atomic operations and the words that apply them lane after lane. -/
def Obligations.AtomicWords : Prop :=
  atomicOperations ∧ atomicsApplyLanesInOrder

/-- R111, R149, R233, R363, R364, R421: MWAIT, and the events by which values arrive and issue resumes. -/
def Obligations.MwaitAndArrivingValues : Prop :=
  mwaitMeetsOrParks ∧ valuesArriveAndIssueResumes

/-- R371, R372: TBAR arrives once per phase and group; the last live group's arrival makes the phase due 40 front cycles later, and the
phase then increments with no arrivals; `.sync` parks, `.wait` parks while PHASE is the token, `.test` compares. A tag the team does not
hold, or a second arrival in a phase, traps. -/
def Obligations.RouteTagBarriers : Prop :=
  ∀ (s : State) (i : Issue) (g : Guard) (n : Nat) (d b : Operand) (l : Nat) (x : Tag), s.issuing = some i →
    let X := i.lanes g; let token := (i.srcN b l).toNat
    let sync := exec (.tbarSync g n) s; let arr := exec (.tbarArrive g n d) s; let wait := exec (.tbarWait g n b) s
    let test := exec (.tbarTest g n d b) s
    let bad (out : Host.Outcome State Fault Refusal) : Prop := Traps s i out { code := 0x03, exmask := X, tepc := i.part.pc }
    let arrived := x.arrived ++ [i.grp.gidx]
    let x' : Tag := { x with arrived, due :=
      if x.due = none ∧ i.team.liveGroups ≠ [] ∧ ∀ k, k ∈ i.team.liveGroups → k ∈ arrived then some ((s.core (keyCore i.key)).cycle + 40) else x.due }
    let tagged (t : State) : Prop := SameBytes s t ∧ t.cores = s.cores ∧
      ∃ tm, t.team? i.grp.team = some tm ∧ tm.tags[n]? = some x' ∧ { tm with tags := i.team.tags } = i.team
    (X = 0 → Ends i sync s i.grp ∧ Ends i arr s i.grp ∧ Ends i wait s i.grp ∧ Ends i test s i.grp) ∧
    (X ≠ 0 → i.team.tags[n]? = none → bad sync ∧ bad arr ∧ bad wait ∧ bad test) ∧
    (X ≠ 0 → i.team.tags[n]? = some x →
      (¬ calm i.grp → Parks i sync s i.grp .reissue ∧ (i.budget X [d] = none → Parks i arr s i.grp .reissue)) ∧
      (calm i.grp → i.grp.gidx ∈ x.arrived → bad sync ∧ (i.budget X [d] = none → bad arr)) ∧
      (calm i.grp → i.grp.gidx ∉ x.arrived →
        (∃ t, Parks i sync t i.grp (.tbarSync n (BitVec.ofNat 32 x.phase)) ∧ tagged t ∧ t.groups = s.groups) ∧
        ((Instr.tbarArrive g n d).wf → Fits s i g [d] arr (∃ t g', Ends i arr t g' ∧ tagged t ∧ t.groups = s.groups ∧
          Wrote i.grp g' d X (fun _ => BitVec.ofNat 32 x.phase) ∧ RegsKept i.grp g' [d] ∧
          { g' with vregs := i.grp.vregs, sregs := i.grp.sregs } = i.grp))) ∧
      (X.getLsbD l = true → (∀ k, k < l → X.getLsbD k = false) →
        (x.phase ≠ token → Ends i wait s i.grp) ∧ (x.phase = token → Parks i wait s i.grp (.tbar n (i.srcN b l))) ∧
        ((Instr.tbarTest g n d b).wf → Fits s i g [d] test
          (Completes s i test [d] [] 0 fun g' => Wrote i.grp g' d X fun _ => if x.phase ≠ token then 1 else 0)))) ∧
    (∀ team tm due, s.team? team = some tm → tm.tags[n]? = some x → x.due = some due →
      (∀ q qs, tm.quarters = q :: qs → due ≤ (s.core q.core).cycle →
        exec (.tagPhaseComplete team n) s = .next (s.setTeam team
          { tm with tags := tm.tags.set n { phase := (x.phase + 1) % 65536, arrived := [], due := none } })))

/-- R135, R204, R375, R390: NOP, YIELD and SLEEP, and what wakes a sleeper. -/
def Obligations.NopYieldAndSleep : Prop :=
  nopAndYield ∧ sleepAndDeadlines ∧ wakingEndsEverySleep

/-- R366 to R370: the barrier object and the words that step it. -/
def Obligations.BarrierWords : Prop :=
  barrierObjectSteps ∧ barrierWordsStepTheirObject ∧ participationRecordHoldsFour

/-- R374, R375, R377 to R383, R385: EVARM, EVDIS and WAITANY. -/
def Obligations.EventSlotWords : Prop :=
  evarmArmsItsSlot ∧ evdisDisarms ∧ waitanyDispatchesLowest

/-- R374, R383, R387 to R389, R417: MBOX, and the slots to which its tokens bind. -/
def Obligations.MboxSendsAToken : Prop :=
  mboxSendsAToken ∧ mbxTokensBind

/-- R110, R195 to R198: REGROUP traps in a handler, with more than one part, with a range wider than the role's registers, or with a request into
its register window; it goes on with d = 1, which its budget must allow, when all 32 lanes are active or its buddy cannot pair; waits for outstanding writes; pairs
with the longest waiting partner, or with its buddy, the lower group index surviving; and parks when none waits. An `.any` wait ends
after 256 front cycles with d = 1. A pairing that would bind more registers than the survivor's role has takes the budget trap at the
survivor, the other group waiting on: that it is tested then is the model's choice (log 16). -/
def Obligations.RegroupPairsParksOrGoesOn : Prop :=
  ∀ (s : State) (i : Issue) (buddy : Bool) (d vF vL : Operand), s.issuing = some i → (Instr.regroup buddy d vF vL).wf →
    let X := i.part.mask; let o := exec (.regroup buddy d vF vL) s; let c := keyCore i.key; let now := (s.core c).cycle
    let size : Nat := match vF, vL with | .v a, .v b => b + 1 - a | _, _ => 0
    let filling : Prop := ∃ r ∈ (s.core c).requests, r.team = i.grp.team ∧ r.window = none ∧ recDkind r.record = 3 ∧
      recDst r.record % 64 = i.grp.gidx
    let ok : Prop := i.grp.mode = .normal ∧ i.grp.parts.length ≤ 1 ∧ size ≤ i.team.vregs i.grp.role ∧ ¬ filling
    let ready : Prop := ok ∧ X ≠ 0 ∧ X ≠ 0xFFFFFFFF ∧ i.grp.outstanding = []
    let alone : Prop := (∀ t, i.budget X [d] = some t → Traps s i o t) ∧ (i.budget X [d] = none →
      ∃ g', Ends i o s g' ∧ Wrote i.grp g' d X (fun _ => 1) ∧ RegsKept i.grp g' [d] ∧
        { g' with vregs := i.grp.vregs, sregs := i.grp.sregs } = i.grp)
    let waits : Prop := Parks i o s i.grp (.regroup buddy d vF vL now)
    let mate := roleBase i.team.card i.grp.role + (i.grp.rgroup ^^^ 1)
    let hasMate (key : Nat) : Prop := i.grp.rgroup ^^^ 1 < cardGroups i.team.card i.grp.role ∧ i.team.live mate = true ∧
      s.groupKey i.grp.team mate = some key ∧ keyCore key = c
    let holds (e : Operand) (role : Nat) : Prop :=
      size + (match e, vF, vL with | .v r, .v x, .v y => if x ≤ r ∧ r ≤ y then 0 else 1 | _, _, _ => 0) ≤ i.team.vregs role
    let ended (x : Group) (p : Part) : Trap := { code := 0x0A, info := BitVec.ofNat 32 x.vregs.length, exmask := p.mask, tepc := p.pc }
    let pairs (key : Nat) (x : Group) (b : Bool) (p : Part) (d' : Operand) : Prop :=
      (i.grp.gidx < x.gidx →
        (holds d i.grp.role → x.barriers = [] → ∃ t, o = .next t ∧ Paired t i.key i.grp i.b i.part key x p d vF vL i.team) ∧
        (¬ holds d i.grp.role → Traps s i o (ended i.grp i.part))) ∧
      (x.gidx < i.grp.gidx →
        (holds d' x.role → i.grp.barriers = [] → ∃ t, o = .next t ∧ Paired t key x b p i.key i.grp i.part d' vF vL i.team) ∧
        (¬ holds d' x.role → o = .next (((s.setGroup key (x.setSlot b (some { p with wait := none }))).takeTrap s key b (ended x p)).modGroup i.key
          fun g => g.setSlot i.b ((g.slot i.b).map fun y => { y with wait := some (.regroup buddy d vF vL now) }))))
    let lanes (m : Word) : Nat := (lanesOf m).length
    (¬ ok → Traps s i o { code := 0x03, exmask := X, tepc := i.part.pc }) ∧
    (ok → X = 0xFFFFFFFF → alone) ∧
    (ok → X ≠ 0xFFFFFFFF → i.grp.outstanding ≠ [] → Parks i o s i.grp .reissue) ∧
    (ready → buddy = true → (∀ key, ¬ hasMate key) → alone) ∧
    (ready → buddy = true → ∀ key x, hasMate key → s.group? key = some x → (∀ b p w, x.slot b = some p → p.wait = some w → w = .reissue) → waits) ∧
    (ready → buddy = false → (∀ q ∈ s.groups, ∀ b p d' n, q.1 ≠ i.key → q.2.slot b = some p → p.wait ≠ some (.regroup false d' vF vL n)) →
      waits) ∧
    (∀ key x b p d' n, ready → key ≠ i.key → s.group? key = some x → x.team = i.grp.team → AtRegroup x b p buddy d' vF vL n → d'.isReg = true →
      p.mask ≠ 0 → i.grp.late = [] → x.late = [] →
      (buddy = true → hasMate key →
        (lanes X + lanes p.mask ≤ 32 → pairs key x b p d') ∧
        (32 < lanes X + lanes p.mask → i.budget X [d] = none →
          s.unpairTrap key x { b, part := p, buddy, dst := d', vF, vL, since := n } = none → ∃ g' x', o = .next ((s.setGroup i.key g').setGroup key x') ∧
          Wrote i.grp g' d X (fun _ => 1) ∧ Wrote x x' d' p.mask (fun _ => 1) ∧ WentOn i g' ∧ x'.slot b = some (p.goTo (p.pc + 8)))) ∧
      (buddy = false → keyCore key = c → x.role = i.grp.role → lanes X + lanes p.mask ≤ 32 →
        (∀ q ∈ s.groups, q ≠ (key, x) → q.1 ≠ i.key → ∀ b' p' d'' m, q.2.slot b' = some p' → p'.wait = some (.regroup false d'' vF vL m) → n < m) →
        pairs key x b p d')) ∧
    ∀ key x b p d' vF' vL' n, s.group? key = some x → AtRegroup x b p false d' vF' vL' n → d'.isReg = true →
      n + 256 ≤ (s.core (keyCore key)).cycle →
      let excess := s.unpairTrap key x { b, part := p, buddy := false, dst := d', vF := vF', vL := vL', since := n }
      (excess = none → ∃ x', exec (.regroupTimeout key) s = .next (s.setGroup key x') ∧ Wrote x x' d' p.mask (fun _ => 1) ∧ RegsKept x x' [d'] ∧
        x'.slot b = some (p.goTo (p.pc + 8)) ∧ { x' with vregs := x.vregs, sregs := x.sregs, slotA := x.slotA, slotB := x.slotB } = x) ∧
      ∀ t, excess = some t → s.permitAllows key = true →
        exec (.regroupTimeout key) s = .next ((s.setGroup key (x.setSlot b (some { p with wait := none }))).takeTrap s key b t)

/-- R259: REGION. A handle already configured, or for the other operations one of the wrong kind, traps; a legal ring or window takes the
lowest free entry and answers 0, or answers 1 when none is free; `.absent` and `.present` change a window that is not COPYING, `.free`
forgets an idle handle. The cause of a misaligned template is log 37, and the handles against which an overlap is tested log 38. -/
def Obligations.RegionConfiguresHandles : Prop :=
  ∀ (s : State) (i : Issue) (g : Guard) (h : Nat) (d a b : Operand) (q : Quarter) (l : Nat), s.issuing = some i →
    let c := keyCore i.key; i.team.quarterOn c = some q → (Instr.regionAbsent g h d).wf →
    let X := i.lanes g; let room := i.team.allocBytes c
    let ring := exec (.regionRing g h d a b) s; let window := exec (.regionWindow g h d a b) s
    let absent := exec (.regionAbsent g h d) s; let present := exec (.regionPresent g h d) s; let free := exec (.regionFree g h d) s
    let bad (o : Host.Outcome State Fault Refusal) : Prop := Traps s i o { code := 0x03, exmask := X, tepc := i.part.pc }
    let answers (o : Host.Outcome State Fault Refusal) (tm : Team) (v : Word) : Prop :=
      ∃ g', Ends i o (s.setTeam i.grp.team tm) g' ∧ Wrote i.grp g' d X (fun _ => v) ∧ RegsKept i.grp g' [d] ∧
        { g' with vregs := i.grp.vregs, sregs := i.grp.sregs, suspended := i.grp.suspended } = i.grp
    let entryFree (e : Nat) : Prop := ∀ x ∈ s.teams, ∀ r ∈ x.2.regions, ¬ (r.core = c ∧ r.entry = e)
    let takes (o : Host.Outcome State Fault Refusal) (body : RegionBody) : Prop :=
      (∀ e, e < 64 → entryFree e → (∀ k, k < e → ¬ entryFree k) →
        answers o { i.team with regions := i.team.regions ++ [{ handle := h, core := c, entry := e, body }] } 0) ∧
      ((∀ e, e < 64 → ¬ entryFree e) →
        ∃ g', Ends i o s g' ∧ Wrote i.grp g' d X (fun _ => 1) ∧ RegsKept i.grp g' [d])
    let clear (lo hi : Nat) : Prop := ∀ r ∈ i.team.regions, r.core = c → hi ≤ (Region.range r).1 ∨ (Region.range r).2 ≤ lo
    let base := (i.srcN a l).toNat; let x := i.srcN b l; let n := bits x 6 0; let sz := bits x 23 8; let owner := bits x 27 24
    let shape : Prop := 0 < n ∧ n ≤ 64 ∧ base % 128 = 0 ∧ sz ≠ 0 ∧ sz % 128 = 0 ∧ owner < cardRoles i.team.card
    let record := s.readRecord q base; let lo := recDst record; let T := recBytes record
    let template : Prop := recordBad s i record = false ∧ recDkind record = 1 ∧ recMc record = false ∧ recCkind record = 0 ∧ clear lo (lo + T)
    let moved (w : Window) : List DWord :=
      w.record.set 0 (setField (dwordAt w.record 0) 48 0 ((recSrc w.record : Int) + w.advance.toInt + 2 ^ 49).toNat)
    let low : Prop := X.getLsbD l = true ∧ ∀ j, j < l → X.getLsbD j = false
    (X = 0 → Ends i ring s i.grp ∧ Ends i window s i.grp ∧ Ends i absent s i.grp ∧ Ends i present s i.grp ∧ Ends i free s i.grp) ∧
    (low → i.team.region? h ≠ none → bad ring ∧ bad window) ∧
    (low → i.team.region? h = none → bad absent ∧ bad present ∧ bad free ∧
      (¬ shape → bad ring) ∧
      (shape → room ≤ base → Traps s i ring { code := 0x19, addr := BitVec.ofNat 64 (Config.scrBase + base), exmask := X, tepc := i.part.pc }) ∧
      (shape → base < room → room < base + n * sz ∨ ¬ clear base (base + n * sz) → bad ring) ∧
      (shape → base + n * sz ≤ room → clear base (base + n * sz) → i.budget X [d] = none →
        takes ring (.ring { base, slotSz := sz, n, owner, free := n })) ∧
      (base % 64 ≠ 0 → bad window) ∧
      (base % 64 = 0 → room < base + 64 →
        Traps s i window { code := 0x19, addr := BitVec.ofNat 64 (Config.scrBase + base), exmask := X, tepc := i.part.pc }) ∧
      (base % 64 = 0 → base + 64 ≤ room → ¬ template → bad window) ∧
      (base % 64 = 0 → base + 64 ≤ room → template → i.budget X [d] = none →
        takes window (.window { base := lo, size := T, advance := x, record }))) ∧
    (low → ∀ reg, i.team.region? h = some reg → i.budget X [d] = none →
      (∀ w, reg.body = .window w →
        (w.state = .copying → answers absent i.team 1 ∧ answers present i.team 1 ∧ answers free i.team 1) ∧
        (w.state ≠ .copying →
          answers absent (i.team.setWindow h { w with state := .absent, record := moved w }) 0 ∧
          answers present (i.team.setWindow h { w with state := .present }) 0 ∧
          answers free { i.team with regions := i.team.regions.filter fun r => r.handle ≠ h } 0)) ∧
      (∀ r, reg.body = .ring r → bad absent ∧ bad present ∧
        (r.writing = [] → r.reading = [] → (∀ y ∈ i.team.quarters, ∀ z ∈ (s.core y.core).requests,
            ¬ (z.team = i.grp.team ∧ recDkind z.record = 4 ∧ (dwordAt z.record 1).toNat % 16 = h)) →
          answers free { i.team with regions := i.team.regions.filter fun r => r.handle ≠ h } 0) ∧
        (r.writing ≠ [] ∨ r.reading ≠ [] → answers free i.team 1)))

/-- R242, R244, R246, R247, R251, R253, R257, R258, R410: KICK, the addresses of a tile, and the events that carry a request out. The
room test takes a lock entry for each request (log 32). -/
def Obligations.KickTilesAndRequests : Prop :=
  kickChecksAndQueuesRecords ∧ tileElementAddresses ∧ requestEvents

/-- R251, R252, R260 to R262: the ring object and the words that step it. -/
def Obligations.RingWords : Prop :=
  ringSteps ∧ ringWordsStepTheirRing

/-- R105, R278, R290 to R295: the words of operand slots and tiles. -/
def Obligations.MatrixStorageWords : Prop :=
  matrixStorageWords ∧ engineWordsWaitForTheOtherSlot

/-- R273, R279, R281, R283, R287 to R289, R296 to R305, R309: MLOOP, MSCA, MDRAIN, MSYNC and the engine events that carry them out. -/
def Obligations.MatrixLoopAndEngine : Prop :=
  matrixLoopWords ∧ matrixEngineEvents

/-- R306, R307, R315 to R317, R320 to R326: the verdict and top-k words, and that a row comes out the same in whatever order its entries are inserted. -/
def Obligations.VerdictAndTopkWords : Prop :=
  topkInsertionOrderIsIndifferent ∧ verdictAndTopkWords_

/-- R97, R336 to R342: the texture words and ATTR, and what a sample, its level of detail and an attribute are. The
comparison of a tap by CMPT alone and the unclamped TEXQ.lod with LODBIAS are log 24. -/
def Obligations.TextureAndAttributeWords : Prop :=
  textureAndAttributeWords ∧ texelRules ∧ filterRules ∧ lodRules ∧ attributeRules

/-- R98, R100, R328, R330, R331, R335, R343: the stage queues, the pool words, TRACE and FBACK. -/
def Obligations.StageQueuePoolAndRayWords : Prop :=
  stageQueueSteps ∧ poolAndRayWords

/-- R50, R51, R57, R59, R60: what the doorbell aperture does to a queue's record: the doorbell by the rows of R59; PRIO; CTRL 1 to 5, where
an enable of a bad record sets STOPCODE 1 instead; and a PROGRESS read, which returns the larger of the record's value and the highest
returned before. DBIGN wraps modulo 2^32 (log 78). -/
def Obligations.QueueRegistersChangeTheirRecord : Prop :=
  ∀ (s : State) (q : Nat) (x : DWord), Served s q →
    let w (k : Nat) : DWord := s.queueWord q k
    let only (o : Host.Outcome State Fault Refusal) (f : Nat → DWord) : Prop := ∃ t, o = .next t ∧ OnlyRecord s t q f
    let ign : DWord := setField (w 7) 63 32 (bits (w 7) 63 32 + 1)
    let cleared : DWord := setField (setField (w 1) 23 23 0) 31 28 0
    let e (k : Nat) : DWord := read64 s.mem (s.csr.ctxtab.toNat + q * 32 + 8 * k)
    let ctxBad : Prop := bits (e 0) 63 46 ≠ 0 ∨ bits (e 0) 11 0 ≠ 0 ∨ bits (e 1) 63 16 ≠ 0 ∨ bits (e 2) 63 5 ≠ 0 ∨ e 3 ≠ 0
    let bad : Prop := bits (w 0) 63 49 ≠ 0 ∨ bits (w 0) 6 0 ≠ 0 ∨ bits (w 1) 27 24 ≠ 0 ∨ bit (w 1) 20 = true ∨ bits (w 1) 15 11 ≠ 0 ∨
      bits (w 1) 7 5 ≠ 0 ∨ 16 < bits (w 1) 4 0 ∨ bits (w 5) 31 0 ≠ 0 ∨ bits (w 7) 15 1 ≠ 0 ∨ ctxBad
    (bit (w 1) 16 = false ∨ bit (w 1) 18 = true → only (exec (.doorbell q x) s) fun k => if k = 7 then ign else w k) ∧
    (bit (w 1) 16 = true → bit (w 1) 18 = false →
      (x.toNat ≤ (w 3).toNat → exec (.doorbell q x) s = .next s) ∧
      ((w 3).toNat < x.toNat → (w 4).toNat + 2 ^ bits (w 1) 4 0 < x.toNat →
        only (exec (.doorbell q x) s) fun k => if k = 1 then setField (w 1) 21 21 1 else if k = 7 then ign else w k) ∧
      ((w 3).toNat < x.toNat → x.toNat ≤ (w 4).toNat + 2 ^ bits (w 1) 4 0 →
        only (exec (.doorbell q x) s) fun k => if k = 3 then x else w k)) ∧
    (only (exec (.prioWrite q x) s) fun k => if k = 1 then setField (w 1) 10 8 (bits x 2 0) else w k) ∧
    (bit (w 1) 16 = true → exec (.ctrlEnable q) s = .next s) ∧
    (bit (w 1) 16 = false → bad → only (exec (.ctrlEnable q) s) fun k => if k = 1 then setField (w 1) 31 28 1 else w k) ∧
    (bit (w 1) 16 = false → ¬ bad → only (exec (.ctrlEnable q) s) fun k => if k = 1 then setField (w 1) 16 16 1 else w k) ∧
    (only (exec (.ctrlDisable q) s) fun k => if k = 1 then setField (w 1) 16 16 0 else w k) ∧
    (only (exec (.ctrlResume q) s) fun k => if k = 1 then cleared else w k) ∧
    ((w 3).toNat ≤ (w 2).toNat → only (exec (.ctrlSkip q) s) fun k => if k = 1 then cleared else w k) ∧
    ((w 2).toNat < (w 3).toNat → w 4 = w 2 → (q, (w 2).toNat) ∉ s.retired → (q, (w 2).toNat + 1) ∉ s.retired → bit (w 7) 0 = false →
      (∀ a ∈ s.ahead, a.queue = q → a.card ≠ (w 2).toNat) →
      only (exec (.ctrlSkip q) s) fun k => if k = 1 then cleared else if k = 2 ∨ k = 4 then w 2 + 1 else w k) ∧
    (only (exec (.ctrlClear q) s) fun k => if k = 1 then setField (setField (w 1) 22 22 0) 21 21 0 else
      if k = 7 then setField (w 7) 63 32 0 else w k) ∧
    (let v := max (w 4).toNat (tabGet s.progressRead q 0)
     exec (.progressRead q) s = .next { s with hostReply := BitVec.ofNat 64 v, progressRead := tabSet s.progressRead q v })

/-- R14, R15, R22, R53, R61, R65, R66: cards enter by LAUNCH and are read and checked. Card HEAD of a resident queue is read under the read
condition: a card that cannot be read stops the queue with code 9; a good one advances HEAD, takes one ALLOW of
a gated queue, and starts a grid; an empty one retires at once instead, and PROGRESS passes it once it has passed the cards before it. -/
def Obligations.CardsAreLaunchedReadAndChecked : Prop :=
  launchAnswers ∧ cardWordsAreOldOrNew ∧
  ∀ (s : State) (q : Nat), s.dispatches = true → q ∈ s.resident → mayRead s q →
    let w (k : Nat) : DWord := s.queueWord q k; let h := (w 2).toNat
    let o := exec (.cardRead q) s
    let read := s.readCardWords none q h ((w 0).toNat + h % 2 ^ bits (w 1) 4 0 * 128) 16
    (∀ e, read = .error e → ∃ u, o = .next u ∧
      OnlyRecord s u q fun k => if k = 1 then setField (setField (w 1) 23 23 1) 31 28 9 else w k) ∧
    (∀ card, read = .ok card → cardCode card = 0 → cardArgCount card ≠ 0 →
      ∃ u, OnlyRecord s u q (fun k => if k = 2 then w 2 + 1 else if k = 5 ∧ bit (w 1) 17 = true then
          setField (w 5) 63 32 (bits (w 5) 63 32 - 1) else w k) ∧
        (let g : Grid := { ctx := q, cardIdx := h, card, urgent := s.urgentCards.contains (q, h) }
         o = .next { u with urgentCards := s.urgentCards.filter (· ≠ (q, h)), grids := s.grids ++ [g] })) ∧
    (∀ card, read = .ok card → cardCode card = 0 → cardArgCount card = 0 → bit (w 7) 0 = false →
      let allow (k : Nat) : DWord := if k = 5 ∧ bit (w 1) 17 = true then setField (w 5) 63 32 (bits (w 5) 63 32 - 1) else w k
      (w 4 = w 2 → (q, h) ∉ s.retired → (q, h + 1) ∉ s.retired → (∀ a ∈ s.ahead, a.queue = q → a.card ≠ h) →
        ∃ u, OnlyRecord s u q (fun k => if k = 2 ∨ k = 4 then w 2 + 1 else allow k) ∧
          o = .next { u with urgentCards := s.urgentCards.filter (· ≠ (q, h)) }) ∧
      (w 4 ≠ w 2 → (q, (w 4).toNat) ∉ s.retired →
        ∃ u, OnlyRecord s u q (fun k => if k = 2 then w 2 + 1 else allow k) ∧
          o = .next { u with urgentCards := s.urgentCards.filter (· ≠ (q, h)), retired := s.retired ++ [(q, h)],
                             ahead := s.ahead.filter fun a => !(a.queue = q && a.card = h) }))

/-- R14: the checks of a card, their order, and a bad card: the read of the card, before any record is dealt, stops the queue with its code in
the record, and nothing else of the machine changes, so no team and no counter. -/
def Obligations.BadCardStopsItsQueue : Prop :=
  cardChecks ∧
  ∀ (s : State) (q : Nat) (card : List DWord), s.dispatches = true → q ∈ s.resident → mayRead s q → cardCode card ≠ 0 →
    let w (k : Nat) : DWord := s.queueWord q k
    s.readCardWords none q (w 2).toNat ((w 0).toNat + (w 2).toNat % 2 ^ bits (w 1) 4 0 * 128) 16 = .ok card →
    ∃ u, exec (.cardRead q) s = .next u ∧
      OnlyRecord s u q fun k => if k = 1 then setField (setField (w 1) 23 23 1) 31 28 (cardCode card) else w k

/-- R17 to R19, R54 to R56, R107, R108, R112, R418 (logs 57, 84, 88, 90): QUEUE_SWITCH and DEAL_CHUNK, room and the choice of place. -/
def Obligations.QueuesSwitchAndChunksAreDealt : Prop := queueSwitches ∧ chunksAreDealt ∧ placesAreChosen ∧ rangesAreLowest

/-- R20, R21, R25 to R27, R113: TEAM_PLACE, CARVE_CONVERSION, TEAM_START and TEAM_COMPLETE. -/
def Obligations.TeamsArePlacedStartAndComplete : Prop := teamsArePlaced ∧ teamsStart ∧ waysConvert ∧ teamsComplete

/-- R62 to R64: an arm reads and checks the table; a change is made once its period start has come and what fell due before it has fired; of the
entries due the earliest fires, the lowest index first, with the outcome of R64 for its queue, and periods passed over count in CSMISS.
The order of the codes, the first table's own period start and ALLOW modulo 2^32 are log 78, the deferred COUNT log 54, CSMISS by entry log 55. -/
def Obligations.CallSheetFiresAndSwaps : Prop :=
  (∀ (s : State) (x : Sheet) (t : Nat),
    let fires : Prop := ∃ z, s.sheet = some z ∧ ∃ y ∈ z.entries, DueAt z y (firesUntil s)
    let o := exec .callSheetSwap s
    (fires → o = .next s) ∧
    (s.sheetChange = .install x t → t ≤ s.time.toNat → ¬ fires → ∃ y, o = .next { s with sheet := some y, sheetChange := .keep } ∧
      y.period = x.period ∧ y.epoch = x.epoch ∧
      y.entries.map (fun e => { e with fired := 0 }) = x.entries.map fun e => { e with fired := 0 }) ∧
    (s.sheetChange = .disarm t → t ≤ s.time.toNat → ¬ fires → o = .next { s with sheet := none, sheetChange := .keep })) ∧
  (∀ (s : State),
    let base := s.csr.cstable.toNat; let period := s.csr.csperiod.toNat
    let lo (e : Nat) : DWord := read64 s.mem (base + 16 * e); let hi (e : Nat) : DWord := read64 s.mem (base + 16 * e + 8)
    let bad (e : Nat) : Prop := bit (lo e) 63 = true ∧ (bits (hi e) 63 32 ≠ 0 ∨ bits (lo e) 62 44 ≠ 0 ∨ bits (lo e) 41 32 ≠ 0 ∨
      bits (lo e) 19 8 ≠ 0 ∨ period ≤ bits (hi e) 31 0 ∨ bits (lo e) 43 42 = 3 ∨ bits (lo e) 7 0 = 0)
    let placed : Prop := 1000 ≤ period ∧ base % 16 = 0 ∧ base + 4096 ≤ Config.dramBytes
    (¬ placed → exec .csctlArm s = .next { s with csr := { s.csr with csctl := 3 } }) ∧
    (placed → (∀ e, e < 256 → bad e → (∀ j, j < e → ¬ bad j) →
        exec .csctlArm s = .next { s with csr := { s.csr with csctl := BitVec.ofNat 32 (e * 256 + 2) } }) ∧
      ((∀ e, e < 256 → ¬ bad e) → ∃ x t, exec .csctlArm s = .next { s with csr := { s.csr with csctl := 1 }, sheetChange := .install x t } ∧
        (s.sheet = none → t = if s.time.toNat < x.epoch then x.epoch else x.epoch + ((s.time.toNat - x.epoch) / period + 1) * period) ∧
        x.period = period ∧ x.epoch = s.csr.csepoch.toNat ∧ x.entries.length = 256 ∧
        ∀ e y, x.entries[e]? = some y → y.valid = bit (lo e) 63 ∧ y.offset = bits (hi e) 31 0 ∧ y.policy = bits (lo e) 43 42 ∧
          y.queue = bits (lo e) 31 20 ∧ y.count = bits (lo e) 7 0))) ∧
  ∀ (s : State) (x : Sheet) (i : Nat) (e : SheetEntry), s.sheet = some x → x.entries[i]? = some e → 0 < x.period →
    let now := firesUntil s; let n := (now - x.epoch - e.offset) / x.period; let q := e.queue; let w (k : Nat) : DWord := s.queueWord q k
    let due (y : SheetEntry) : Prop := DueAt x y now
    let when (y : SheetEntry) : Nat := x.epoch + (now - x.epoch - y.offset) / x.period * x.period + y.offset
    due e → (∀ j y, x.entries[j]? = some y → due y → when e < when y ∨ (when e = when y ∧ i ≤ j)) →
      let x' : Sheet := { x with entries := x.entries.set i { e with fired := n + 1 } }
      let s1 : State := { s with sheet := some x', csr := { s.csr with csmiss := s.csr.csmiss + BitVec.ofNat 64 (n - e.fired) } }
      let o := exec (.callSheetFire i) s
      let only (s' : State) (f : Nat → DWord) : Prop := ∃ t, o = .next t ∧ OnlyRecord s' t q f
      let skip (k : Nat) : DWord := if k = 7 then setField (w 7) 31 16 (min 0xFFFF (bits (w 7) 31 16 + 1)) else w k
      let allow := (bits (w 5) 63 32 + e.count) % 2 ^ 32
      let release (k : Nat) : DWord := if k = 5 then setField (w 5) 63 32 allow else if k = 6 then w 2 + BitVec.ofNat 64 allow else w k
      let gated : Prop := bit (w 1) 17 = true ∧ bit (w 1) 16 = true; let overrun : Prop := (w 4).toNat < (w 6).toNat
      s.csr.qtbaseSet = true →
        (¬ gated → only s1 skip) ∧ (gated → ¬ overrun → only s1 release) ∧ (gated → overrun → e.policy = 0 → only s1 skip) ∧
        (gated → overrun → e.policy = 1 → bit (w 7) 0 = false →
          only { s1 with deferred := tabSet s1.deferred q e.count } fun k => if k = 7 then setField (w 7) 0 0 1 else w k) ∧
        (gated → overrun → e.policy = 1 → bit (w 7) 0 = true → only s1 skip) ∧
        (gated → overrun → e.policy = 2 →
          only { s1 with urgentCards := s1.urgentCards ++ (List.range e.count).map fun k => (q, (w 2).toNat + bits (w 5) 63 32 + k) } release)

/-- R48, R49, R57, R58, R226, R230, R405, R438, R439, R441, R442: what arrives over the links. The forwarding queue is log 81, the sizes of accesses and
their replies log 6, FWLOAD in RECOVERY alone log 62. -/
def Obligations.HostAccessesReachTheirRegisters : Prop := deviceRegisters ∧ linkAccesses

/-- R215, R216, R364, R383, R435 to R438, R440 to R442: the ports, the rail, memory errors, reset, boot and attestation. Choices:
logs 43, 44, 61, 62, 79, 85. -/
def Obligations.ModuleEvents : Prop := portEvents ∧ lostRoutes ∧ railEvents ∧ eccReports ∧ eccTraps ∧ resetAndBoot ∧ attestation

/-- R117, R150, R157, R160, R431 to R434: the events of power and heat. A level or ratio changes between runs, downwards before the voltage ramps
down and upwards once it is in place for the ratios at which the cores run; a ramp takes 1 µs for 10 mV; CAPLVL falls by one per 100 µs while
the input power exceeds PWRLIM and rises by one per ms after ten below 95 % of it; the droop and heat throttles come and go at their
conditions; throttling ends after 1,024 quiet front cycles; STRIMB is measured anew every 1 µs. That a ramp's first step ends 1 µs after it was
asked for is log 70; intervals are measured on uptime (log 79). -/
def Obligations.PowerAndHeatEvents : Prop :=
  ∀ (s : State) (n : Nat), n < 54 →
    let x := s.strand n; let L := s.strandTarget n; let up := s.uptime
    let volts (f : Nat → Nat) : Nat := ([4 * n, 4 * n + 1, 4 * n + 2, 4 * n + 3].map fun c => if f c = 2 then 50 else 0).foldl max 0
    let need := 650 + 10 * L + volts fun c => (s.coreTarget c).2
    let needs (level : Nat) : Nat := 650 + 10 * level + volts fun c => (s.core c).ratio
    let idle : Prop := ∀ c ∈ strandCores n, ∀ q ∈ (s.core c).quads, q = none
    let put (y : Strand) : Host.Outcome State Fault Refusal := .next (s.setStrand n y)
    let step := exec (.perfStep n) s
    let ramps (rise : Bool) : Prop :=
      (∀ t, x.ramp = some (rise, t) → (up < t + 1000 → step = .next s) ∧
        (t + 1000 ≤ up → step = put { x with mv := if rise then x.mv + 10 else x.mv - 10, ramp := none })) ∧
      ((∀ t, x.ramp ≠ some (rise, t)) → step = put { x with ramp := some (rise, up) })
    (L < x.level → (idle → step = put { x with level := L }) ∧ (¬ idle → step = .next s)) ∧
    (x.level ≤ L → x.mv < need → ramps true) ∧
    (x.level < L → need ≤ x.mv → (idle ∧ needs L ≤ x.mv → step = put { x with level := L }) ∧ (¬ (idle ∧ needs L ≤ x.mv) → step = .next s)) ∧
    (x.level = L → need < x.mv → needs x.level < x.mv → ramps false) ∧
    (∀ core ∈ strandCores n, let c := s.core core; let r := (s.coreTarget core).2
      let t := s.setCore core { c with ratio := r }; let own : Prop := ∀ q ∈ c.quads, q = none
      let fast (u : State) : Prop := ∃ d ∈ strandCores n, (u.core d).ratio = 2; let o := exec (.laneRatioChange core) s
      (c.ratio ≠ r → own → idle ∨ (fast t ↔ fast s) → 650 + 10 * x.level + (if r = 2 then 50 else 0) ≤ x.mv → o = .next t) ∧
      (¬ own ∨ (¬ idle ∧ ¬ (fast t ↔ fast s)) → o = .next s)) ∧
    (let power (k : Nat) : Nat := Config.inputPower (up / 1000000 - k)
     -- `power k` is the model's name for the measured input power (Config.inputPower, log 4).
     let high : Prop := 1000000 ≤ up ∧ s.csr.pwrlim.toNat < power 1
     let low : Bool := 10000000 ≤ up && [1, 2, 3, 4, 5, 6, 7, 8, 9, 10].all fun k => 100 * power k < 95 * s.csr.pwrlim.toNat
     exec .caplvlLower s = .next (if high ∧ s.capAt + 100000 ≤ up ∧ 0 < s.capLvl then { s with capLvl := s.capLvl - 1, capAt := up } else s) ∧
     exec .caplvlRaise s = .next (if low = true ∧ s.capAt + 1000000 ≤ up ∧ s.capLvl < 15 then { s with capLvl := s.capLvl + 1, capAt := up } else s)) ∧
    (exec (.droopStretch n) s = put { x with droop := true, droopAt := (s.core (4 * n)).cycle }) ∧
    (x.droop = true → x.droopAt + 64 ≤ (s.core (4 * n)).cycle → exec (.droopEnd n) s = put { x with droop := false }) ∧
    (x.throttled = true → 1024 ≤ x.quiet → exec (.throttleEnd n) s = put { x with throttled := false }) ∧
    (x.heat = false → (∃ c ∈ strandCores n, s.csr.hotthr.toNat < (s.core c).temp ∧ ∀ k t, (k, t) ∈ s.teams → s.eligible c k t = false) →
      exec (.heatThrottle n) s = put { x with heat := true }) ∧
    (x.heat = true → (∀ c ∈ strandCores n, (s.core c).temp + s.csr.hothyst.toNat < s.csr.hotthr.toNat) →
      exec (.heatThrottleEnd n) s = put { x with heat := false }) ∧
    (up < x.strimbAt + 1000 → exec (.strimbUpdate n) s = .next s) ∧
    (x.strimbAt + 1000 ≤ up →
      ∃ t y, exec (.strimbUpdate n) s = .next t ∧ SameBytes s t ∧ t.groups = s.groups ∧ t.strand n = { x with strimb := y, strimbAt := up } ∧
      bits y 31 24 = 0 ∧ bits y 23 16 ≤ 24 ∧ bits y 15 8 ≤ 24 ∧ bits y 7 0 ≤ 24 ∧
      ∀ c, ∃ v, t.core c = { s.core c with temp := v } ∧ (c ∉ strandCores n → v = (s.core c).temp) ∧ (c ∈ strandCores n → v < 65536))

/-- R145 to R149, R158, R160: the events of issue. A quadrant between runs begins the run of the due candidate that has waited longest, else of the
admissible one, ties going to the lower position and then to slot A; the ready others count one run; a candidate past its bound is due; a word
held for 8 front cycles and in a 9th ends the run, which continues with its class. A quadrant that has acted in the front cycle begins no run in
it. A candidate's readiness depends on its sources. -/
def Obligations.IssueEvents : Prop :=
  ∀ (s : State) (core quad : Nat), quad < 4 → (s.core core).quads.length = 4 → (s.groups.map Prod.fst).Pairwise (· < ·) →
    let c := s.core core; let slots := (s.quadSlots core quad).filter fun p => s.ready p.1 p.2
    let cand (p : Nat × Bool) : Cand := match s.group? p.1 with
      | some g => g.cand p.2
      | none => {}
    let fit (p : Nat × Bool) : Prop := s.admissible core (s.runClass p.1 p.2) = true
    let due (p : Nat × Bool) : Prop := (cand p).due = true ∨ 64 ≤ (cand p).passed ∨ 64 ≤ (cand p).balance
    let before (p x : Nat × Bool) : Prop := (cand p).since < (cand x).since ∨
      ((cand p).since = (cand x).since ∧ (p.1 < x.1 ∨ (p.1 = x.1 ∧ p.2 = false)))
    let picks (p : Nat × Bool) : Prop := p ∈ slots ∧ ((due p ∧ ∀ x ∈ slots, x ≠ p → due x → before p x) ∨
      ((∀ x ∈ slots, ¬ due x) ∧ fit p ∧ ∀ x ∈ slots, x ≠ p → fit x → before p x))
    (∀ key b g q, c.quads.getD quad none = none → c.served.getD quad none = none → picks (key, b) → s.group? key = some g → g.slot b = some q →
      ∃ t, exec (.runSelect core quad) s = .next t ∧ SameBytes s t ∧
      (t.core core).quads = c.quads.set quad (some { key, slotB := b, cls := s.runClass key b, issued :=
        match q.cont with | some (_, n) => n | none => 0 }) ∧
      (∃ g', t.group? key = some g' ∧ g'.cand b = { since := c.cycle } ∧ g'.slot b = some { q with cont := none }) ∧
      (∀ p ∈ slots, p ≠ (key, b) → p.1 ≠ key → ∃ x y, s.group? p.1 = some x ∧ t.group? p.1 = some y ∧
        (y.cand p.2) = { x.cand p.2 with passed := (x.cand p.2).passed + 1 }) ∧
      (t.strand (strandOf core)).throttled = ((s.strand (strandOf core)).throttled || !s.admissible core (s.runClass key b))) ∧
    (∀ r g q, c.quads.getD quad none = some r → s.group? r.key = some g → g.slot r.slotB = some q →
      (8 ≤ r.held → s.runHeld r = true → ∃ t g', exec (.stallBreak core quad) s = .next t ∧ SameBytes s t ∧
        t.core core = { c with quads := c.quads.set quad .none } ∧ t.group? r.key = some g' ∧
        g'.slot r.slotB = some { q with cont := some (r.cls, r.issued) } ∧ g'.cand r.slotB = { since := c.cycle }) ∧
      (r.held < 8 ∨ s.runHeld r = false → exec (.stallBreak core quad) s = .next s)) ∧
    (∀ key b g, s.group? key = some g → s.ready key b = true → 64 ≤ (g.cand b).passed ∨ 64 ≤ (g.cand b).balance → (g.cand b).due = false →
      exec (.candidateDue key b) s = .next (s.setGroup key (g.setCand b { g.cand b with due := true }))) ∧
    (∀ cls, cls ≤ 3 → (s.admissible core cls = true ↔ ∀ k, k / 4 = core / 4 → k ≠ core →
      256 * cls ≤ ((s.core k).load.take 64).sum + 64 * (s.strand (core / 4)).strlim)) ∧
    ∀ key b g p t raw rnd f n m, s.candidate key b = some (g, p, t) → t.wordAt p = some (raw, .ok (.fmul .always rnd (.v f) (.v n) (.v m))) →
      n < 192 → m < 192 → (s.core (keyCore key)).requests = [] →
        (s.ready key b = true ↔ g.suspended = false ∧ ∀ x ∈ g.outstanding, ∀ a, x.dst = .v a →
          ¬ (a ≤ n ∧ n < a + min x.words 192) ∧ ¬ (a ≤ m ∧ m < a + min x.words 192))

/-- R68, R70, R71, R72, R74, R76, R77, R80, R81: views, their entries, triangles and samples. The room of the buffer is log 7 and that each view has
all of it log 89; that an aborted view is none of the 16 is log 80, and that its DONECTR waits for its tiles log 68. -/
def Obligations.ViewsStartDrawAndEnd : Prop := viewsStart ∧ entriesAreDrawn ∧ trianglesAreBinned ∧ samplesReplace ∧ viewsSealAndEnd

/-- R83, R85 to R88, R90 to R95: the scan of tiles, bins that fall due, and lane inputs. Which tile is scanned first, which bin is served first and RAY
of a vacant lane are the model's choices (logs 66, 89), intervals are log 79. -/
def Obligations.TilesBecomeLaunches : Prop := tilesAreScanned ∧ binsTimeOut ∧ inputsAreWritten

/-- R414 to R416, R418, R426: the choice of victims, and what becomes of them (logs 79, 84, 88). -/
def Obligations.VictimsAreChosenAndTreated : Prop := victimsAreChosen ∧ choicesFollowTheTable ∧ contextsArePreempted ∧ drainsTimeOut

/-- R117, R118, R419 to R424: retake, save, restore and migration (logs 42, 57, 59, 79, 88). -/
def Obligations.TeamsAreRetakenSavedRestoredAndMigrated : Prop := teamsAreRetaken ∧ teamsAreSaved ∧ teamsAreRestored ∧ teamsMigrate

/-- R119, R122, R142, R144 to R149: when the next move is the turn of a quadrant whose run goes on, and the word at its slot's PC is held and decodes to an
instruction whose registers are in place and free of outstanding writes, a step is `exec` of that instruction for that slot, then what follows every
word (ISSUED, the end of its run, its front cycle) and every move. Where accesses of its group are still on their way and the word does not wait to perform, those that it must follow are performed before it
(log 9). A word that the scoreboard holds counts STALLMEM or STALLALU and does not issue; one that does not decode traps, with the mask of its part in
EXMASK (log 15); one that is not held is fetched. -/
def Obligations.StepRunsTheDecodedWord : Prop :=
  ∀ (s r : State) (key : Nat) (b : Bool) (g : Group) (p : Part) (t : Team) (run : Run),
    let core := keyCore key; let i : Issue := { key, b, grp := g, part := p, team := t }
    (∃ rest, s.agenda = .turn core :: rest ∧ r = { s with agenda := rest }) ∨
      (s.agenda = [] ∧ s.nextMove = .turn core ∧ r = { s with turn := (s.turn + 1) % 3 }) →
    s.nextActor core = some (g.quad, key, b) → s.group? key = some g → g.slot b = some p → s.team? g.team = some t → t.phase = .running →
    p.park = none → p.wait = none → g.entering = none → g.trapDue = false → g.suspended = false → g.atWindow = false →
    (s.core core).quads.getD g.quad none = some run → run.key = key → run.slotB = b → s.runGoesOn run = true →
    (∀ w, t.heldWord p.pc = some w →
      (∀ x, decode w = .ok x → s.scoreboard key b g p t x = false → i.refillFirst x = none →
        let ends (o : Host.Outcome State Fault Refusal) : Prop := match o with
          | .next s' => step s = .next (State.close s (r.afterWord s' i w x))
          | .fault f => step s = .fault f
          | .refused f => step s = .refused f
        let waits : Prop := ∃ s' g' p', exec x { r with issuer := key, slotB := b } = .next s' ∧ s'.group? key = some g' ∧ g'.slot b = some p' ∧
          p'.waitsToPerform = true
        ((g.outstanding = [] ∧ g.late = []) ∨ waits → ends (exec x { r with issuer := key, slotB := b })) ∧
        ((g.outstanding ≠ [] ∨ g.late ≠ []) → ¬ waits → (∃ s', exec x { r with issuer := key, slotB := b } = .next s') →
          ends (exec x { r.order i x with issuer := key, slotB := b }))) ∧
      (∀ x, decode w = .ok x → s.scoreboard key b g p t x = true → ∃ u, step s = .next (State.close s u) ∧ SameBytes s u ∧
        u.group? key = some (if s.waitsMemory key g ((i.reads x).and (i.writes x)) then { g with stallMem := g.stallMem + 1 }
          else { g with stallAlu := g.stallAlu + 1 }) ∧
        (g.quad < (s.core core).quads.length → (u.core core).quads.getD g.quad none = some { run with held := run.held + 1 })) ∧
      (∀ e, decode w = .error e → ∃ u, step s = .next (State.close s u) ∧
        u = ((r.takeTrap r key b { code := (match e with | .illegalInstruction => 0x01 | .illegalPair => 0x02), exmask := p.mask, tepc := p.pc }).endRun
          key g.quad b).serve core g.quad 0)) ∧
    (t.heldWord p.pc = none →
      (∀ u, r.fetchBlock key g t p.pc = .ok u → step s = .next (State.close s (u.serve core g.quad 0))) ∧
      ∀ e, r.fetchBlock key g t p.pc = .error e →
        match exec .fetchFault { r with issuer := key, slotB := b } with
        | .next s' => step s = .next (State.close s ((s'.endRun key g.quad b).serve core g.quad 0))
        | .fault f => step s = .fault f
        | .refused f => step s = .refused f)

/-- R124, R127, R136, R142: words that the chapters give as examples decode to the instructions they stand for: fixed words, one or more of each family. -/
def Obligations.ExampleWordsDecode : Prop :=
  decode 0x1310080003000004 = .ok (.fmul .always .rne (.v 8) (.v 0) (.v 3)) ∧
  decode 0x1320080003090014 = .ok (.ffma .always .rz (.v 8) (.v 0) (.v 3) (.v 9)) ∧
  decode 0x12900005F0004300 = .ok (.icmp .always .s32 .lt .set 3 (.v 5) (.inline 0)) ∧
  decode 0x12B00100EF567801 = .ok (.mov .always .n32 (.v 1) (.imm 0x5678)) ∧
  decode 0x128004C205040400 = .ok (.lea .always false (.v 4) ⟨.s 2, .v 5, 2, 0x040⟩) ∧
  decode 0x5002854004050F00 = .ok (.pairWord ⟨.iadd, .always, .v 20, .v 21, 0⟩ ⟨.and, .always, .v 10, .v 15, 0⟩) ∧
  decode 0x05000000EF654000 = .ok (.plop .always 3 1 2 8) ∧ decode 0x1540030600000040 = .ok (.scan .always .add .s32 true .rne (.v 3) (.v 6)) ∧
  decode 0x8010000000FFFFFD = .ok (.bra .always 0xFFFFFD) ∧ decode 0x0C00040000002000 = .ok (.csrr .always .d (.v 4) 0) ∧
  decode 0x261005C401000403 = .ok (.st .always false .w32 false .dflt (.v 5) ⟨.s 4, .v 1, 2, 0⟩) ∧
  decode 0x2661C4C2E00000F1 = .ok (.atom ⟨false, 1⟩ .add64 .ar .dev (.s 4) ⟨.s 2, .special .zero, 0, 0⟩) ∧
  decode 0x072000F200C54100 = .ok (.evarm .always .rfill 1 .eq .s32 (.inline 2) (.v 0) (.s 5)) ∧
  decode 0x393000C4C5C63909 = .ok (.mloop .always .e4m3 .e4m3 true true (.s 4) (.s 5) (.s 6)) ∧
  decode 0x099000F1C6008800 = .ok (.vcfg .always .topk false true (.inline 1) (.s 6)) ∧
  decode 0x2B0014C104F70601 = .ok (.trace .always 6 (.v 20) (.s 1) (.v 4) (.inline 7))

/-- R111, R112, R215, R403, R430, R441: what device reset leaves. The values that the spec does not give are the model's choice (log 2). -/
def Obligations.ResetLeavesTheGivenValues : Prop :=
  let s := State.reset; let c := s.csr
  (c.preemptctl = 0x00140001 ∧ c.spillbase = 0 ∧ s.time = 0 ∧ s.timerate = 0 ∧ c.sramset = 0 ∧ c.eoldays = 0x00FFFFFF ∧ c.qtbase = 0 ∧ c.cstable = 0 ∧
    c.csepoch = 0 ∧ c.csperiod = 1000 ∧ c.csctl = 0 ∧ c.csmiss = 0 ∧ c.viewdrop = 0 ∧ c.fltdrop = 0 ∧ c.binbuf = 16 ∧ c.visways = 0 ∧ c.matdir = 0 ∧
    c.pooltab = 0 ∧ c.hotthr = 0x05F0 ∧ c.hothyst = 0x0050 ∧ c.frbase = 0 ∧ c.savebase = 0 ∧ c.savecnt = 0 ∧ c.pwrlim = 2400 ∧ c.devnum = 0) ∧
  (∀ k, let x := s.core k; x.svec = 0 ∧ x.rsv = 2 ∧ x.scratchWays = 0 ∧ x.spillWays = 2 ∧ ∀ p, p < 5 → x.permits.getD p true = false) ∧
  (∀ n, (s.strand n).strlim = 6 ∧ (s.strand n).fillbud = 16) ∧
  c.qtbaseSet = false ∧ c.spillbaseSet = false ∧ c.ctxtabSet = false ∧ s.boot = .verify ∧ s.teams = [] ∧ s.groups = [] ∧ s.views = [] ∧ s.sheet = none

/-- The memory of device reset has the canonical form. -/
def Obligations.ResetMemoryIsCanonical : Prop := Memory.wf State.reset.mem = true

/-- R119, R236: bytes written are read back least significant byte first; other bytes keep their values; memories that read alike everywhere are equal
data (log 1). -/
def Obligations.MemoryReadsBackWhatWasWritten : Prop :=
  ∀ (m m' : Memory) (a n x : Nat),
    readNat (writeNat m a n x) a n = x % 2 ^ (8 * n) ∧
    (∀ k j, k + j ≤ a ∨ a + n ≤ k → readNat (writeNat m a n x) k j = readNat m k j) ∧
    (∀ k, k < n → (cellGet (w := 8) (writeNat m a n x) (a + k)).toNat = x / 2 ^ (8 * k) % 256) ∧
    (Memory.wf m = true → Memory.wf (writeNat m a n x) = true) ∧
    (Memory.wf m = true → Memory.wf m' = true → (∀ k, cellGet (w := 8) m k = cellGet (w := 8) m' k) → m = m')

/-- Every step keeps the canonical form of memory (log 1). -/
def Obligations.EveryStepKeepsMemoryCanonical : Prop :=
  ∀ s t : State, step s = .next t → Memory.wf s.mem = true → Memory.wf t.mem = true

/-- R124, R127, R136, R142: every well-formed instruction that has a word decodes from it, whatever B and C of the header; and a word decodes only to a
well-formed instruction whose word, B and C apart, it is. -/
def Obligations.DecodingInvertsEncoding : Prop :=
  (∀ (i : Instr) (w : DWord) (last : Bool) (c : Nat), i.wf = true → encode i = some w → c < 4 →
    decode (w ||| BitVec.ofNat 64 (last.toNat * 2 ^ 63 + c * 2 ^ 60)) = .ok i) ∧
  ∀ (w : DWord) (i : Instr), decode w = .ok i → i.wf = true ∧ encode i = some (w &&& 0x4FFFFFFFFFFFFFFF)
end

