-- ==== Sys2Proof/Laws/Store.lean ====
section
/-! SUPPORT. Laws of tables, sparse cells and memory: what is read after a write, and that every operation keeps the canonical form. -/

namespace Sys2Proof.Machine

/-! ## Tables -/

@[simp] theorem tabGet?_tabSet_same {α : Type} (t : Tab α) (j : Nat) (a : α) : tabGet? (tabSet t j a) j = some a := by
  induction t with
  | nil => simp [tabSet, tabGet?]
  | cons p t ih =>
    obtain ⟨k, b⟩ := p
    by_cases h : k = j
    · simp [tabSet, tabGet?, h]
    · by_cases h' : j < k <;> simp [tabSet, tabGet?, h, h', ih]

theorem tabGet?_tabSet_ne {α : Type} (t : Tab α) {j k : Nat} (a : α) (h : k ≠ j) : tabGet? (tabSet t j a) k = tabGet? t k := by
  induction t with
  | nil => simp [tabSet, tabGet?, Ne.symm h]
  | cons p t ih =>
    obtain ⟨m, b⟩ := p
    by_cases hm : m = j
    · subst hm; simp [tabSet, tabGet?, Ne.symm h]
    · by_cases h' : j < m
      · simp [tabSet, tabGet?, hm, h', Ne.symm h]
      · simp [tabSet, tabGet?, hm, h', ih]

@[simp] theorem tabSet_tabSet_same {α : Type} (t : Tab α) (j : Nat) (a b : α) : tabSet (tabSet t j a) j b = tabSet t j b := by
  induction t with
  | nil => simp [tabSet]
  | cons p t ih =>
    obtain ⟨k, c⟩ := p
    by_cases h : k = j
    · simp [tabSet, h]
    · by_cases h' : j < k <;> simp [tabSet, h, h', ih]

@[simp] theorem tabGet_tabSet_same {α : Type} (t : Tab α) (j : Nat) (a d : α) : tabGet (tabSet t j a) j d = a := by
  simp [tabGet]

theorem tabGet_tabSet_ne {α : Type} (t : Tab α) {j k : Nat} (a d : α) (h : k ≠ j) : tabGet (tabSet t j a) k d = tabGet t k d := by
  simp [tabGet, tabGet?_tabSet_ne t a h]

/-! ## Cells: reads after writes -/

theorem cellGet_cellInsert {w : Nat} (m : Sparse w) (a k : Nat) (b : BitVec w) :
    cellGet (cellInsert m a b) k = if k = a then b else cellGet m k := by
  induction m with
  | nil => by_cases h : k = a
           · simp [cellInsert, cellGet, h]
           · simp [cellInsert, cellGet, h, Ne.symm h]
  | cons p m ih =>
    obtain ⟨j, c⟩ := p
    by_cases hj : j = a
    · subst hj
      by_cases h : k = j
      · simp [cellInsert, cellGet, h]
      · simp [cellInsert, cellGet, h, Ne.symm h]
    · by_cases h' : a < j
      · by_cases h : k = a
        · simp [cellInsert, cellGet, hj, h', h]
        · simp [cellInsert, cellGet, hj, h', h, Ne.symm h]
      · by_cases hk : j = k
        · subst hk; simp [cellInsert, cellGet, hj, h']
        · simp [cellInsert, cellGet, hj, h', hk, ih]

theorem cellGet_filter {w : Nat} (m : Sparse w) (p : Nat → Bool) (k : Nat) :
    cellGet (m.filter fun c => p c.1) k = if p k then cellGet m k else 0 := by
  induction m with
  | nil => simp [cellGet]
  | cons c m ih =>
    obtain ⟨j, b⟩ := c
    by_cases hp : p j
    · by_cases hk : j = k
      · subst hk; simp [List.filter, hp, cellGet]
      · simp [List.filter, hp, cellGet, hk, ih]
    · by_cases hk : j = k
      · subst hk; simp [List.filter, hp, ih]
      · simp [List.filter, hp, cellGet, hk, ih]

/-- One cell read after one cell was set. -/
theorem cellGet_cellSet {w : Nat} (m : Sparse w) (a k : Nat) (b : BitVec w) :
    cellGet (cellSet m a b) k = if k = a then b else cellGet m k := by
  by_cases hb : b = 0
  · rw [cellSet, if_pos hb, cellGet_filter m (fun j => j != a) k]
    by_cases hk : k = a <;> simp [hk, hb]
  · rw [cellSet, if_neg hb, cellGet_cellInsert]

/-- One cell read after consecutive cells were set. -/
theorem cellGet_cellsSet {w : Nat} (bs : List (BitVec w)) (m : Sparse w) (a k : Nat) :
    cellGet (cellsSet m a bs) k = if a ≤ k ∧ k < a + bs.length then bs.getD (k - a) 0 else cellGet m k := by
  induction bs generalizing m a with
  | nil =>
    rw [if_neg fun h => by have h1 := h.1; have h2 : k < a + 0 := h.2; omega]
    rfl
  | cons b bs ih =>
    rw [cellsSet, ih, cellGet_cellSet]
    by_cases hk : k = a
    · subst hk; rw [if_neg (by omega)]; simp
    · by_cases h : a + 1 ≤ k ∧ k < a + 1 + bs.length
      · have h2 : a ≤ k ∧ k < a + (b :: bs).length := by simp; omega
        rw [if_pos h, if_pos h2]
        have : k - a = (k - (a + 1)) + 1 := by omega
        rw [this]; simp
      · have h2 : ¬(a ≤ k ∧ k < a + (b :: bs).length) := by simp at *; omega
        rw [if_neg h, if_neg hk, if_neg h2]

/-- One cell read after a span was cleared. -/
theorem cellGet_cellsClear {w : Nat} (m : Sparse w) (a z k : Nat) :
    cellGet (cellsClear m a z) k = if a ≤ k ∧ k < z then 0 else cellGet m k := by
  rw [cellsClear, cellGet_filter m (fun j => !(a ≤ j && j < z)) k]
  by_cases h1 : a ≤ k <;> by_cases h2 : k < z <;> simp [h1, h2]

/-! ## Cells: the canonical form is kept -/

/-- Every index is at least `n`. -/
theorem cellWf_tail {w : Nat} {p : Nat × BitVec w} {m : Sparse w} (h : cellWf (p :: m) = true) : cellWf m = true := by
  match m with
  | [] => rfl
  | (j, c) :: t => obtain ⟨k, b⟩ := p; simp [cellWf] at h; exact h.2

theorem cellWf_head {w : Nat} {k : Nat} {b : BitVec w} {m : Sparse w} (h : cellWf ((k, b) :: m) = true) : b ≠ 0 := by
  match m with
  | [] => simpa [cellWf] using h
  | (j, c) :: t => simp [cellWf] at h; exact h.1.1

theorem cellWf_lt {w : Nat} {k : Nat} {b : BitVec w} {m : Sparse w} (h : cellWf ((k, b) :: m) = true) :
    ∀ c ∈ m, k < c.1 := by
  induction m generalizing k b with
  | nil => simp
  | cons p t ih =>
    obtain ⟨j, c⟩ := p
    have hkj : k < j := by simp [cellWf] at h; exact h.1.2
    intro x hx
    rcases List.mem_cons.1 hx with rfl | hx
    · exact hkj
    · exact Nat.lt_trans hkj (ih (cellWf_tail h) x hx)

theorem cellWf_cons {w : Nat} {k : Nat} {b : BitVec w} {m : Sparse w} (hb : b ≠ 0) (hm : cellWf m = true)
    (hl : ∀ c ∈ m, k < c.1) : cellWf ((k, b) :: m) = true := by
  match m with
  | [] => simpa [cellWf] using hb
  | (j, c) :: t =>
    have hb' : ¬b = 0#w := hb
    simp [cellWf, hb', hm, hl (j, c) (by simp)]

theorem cellWf_filter {w : Nat} (m : Sparse w) (p : Nat × BitVec w → Bool) (h : cellWf m = true) : cellWf (m.filter p) = true := by
  induction m with
  | nil => rfl
  | cons c m ih =>
    obtain ⟨k, b⟩ := c
    by_cases hp : p (k, b)
    · rw [List.filter_cons_of_pos hp]
      exact cellWf_cons (cellWf_head h) (ih (cellWf_tail h)) fun c hc => cellWf_lt h c (List.mem_filter.1 hc).1
    · rw [List.filter_cons_of_neg hp]
      exact ih (cellWf_tail h)

theorem mem_cellInsert {w : Nat} {m : Sparse w} {a : Nat} {b : BitVec w} {c : Nat × BitVec w} (h : c ∈ cellInsert m a b) :
    c = (a, b) ∨ c ∈ m := by
  induction m with
  | nil => simpa [cellInsert] using h
  | cons p m ih =>
    obtain ⟨k, x⟩ := p
    by_cases hk : k = a
    · simp [cellInsert, hk] at h; rcases h with h | h <;> simp [h]
    · by_cases h' : a < k
      · simp [cellInsert, hk, h'] at h; rcases h with h | h | h <;> simp [h]
      · simp [cellInsert, hk, h'] at h
        rcases h with h | h
        · simp [h]
        · rcases ih h with h | h <;> simp [h]

theorem cellWf_cellInsert {w : Nat} (m : Sparse w) (a : Nat) (b : BitVec w) (hb : b ≠ 0) (h : cellWf m = true) :
    cellWf (cellInsert m a b) = true := by
  induction m with
  | nil => simpa [cellInsert, cellWf] using hb
  | cons p m ih =>
    obtain ⟨k, x⟩ := p
    by_cases hk : k = a
    · subst hk; rw [cellInsert, if_pos rfl]; exact cellWf_cons hb (cellWf_tail h) (cellWf_lt h)
    · by_cases h' : a < k
      · rw [cellInsert, if_neg hk, if_pos h']
        refine cellWf_cons hb h fun c hc => ?_
        rcases List.mem_cons.1 hc with rfl | hc
        · exact h'
        · exact Nat.lt_trans h' (cellWf_lt h c hc)
      · rw [cellInsert, if_neg hk, if_neg h']
        refine cellWf_cons (cellWf_head h) (ih (cellWf_tail h)) fun c hc => ?_
        rcases mem_cellInsert hc with rfl | hc
        · show k < a; omega
        · exact cellWf_lt h c hc

theorem cellWf_cellSet {w : Nat} (m : Sparse w) (a : Nat) (b : BitVec w) (h : cellWf m = true) : cellWf (cellSet m a b) = true := by
  by_cases hb : b = 0
  · rw [cellSet, if_pos hb]; exact cellWf_filter m _ h
  · rw [cellSet, if_neg hb]; exact cellWf_cellInsert m a b hb h

theorem cellWf_cellsSet {w : Nat} (bs : List (BitVec w)) (m : Sparse w) (a : Nat) (h : cellWf m = true) :
    cellWf (cellsSet m a bs) = true := by
  induction bs generalizing m a with
  | nil => exact h
  | cons b bs ih => exact ih _ _ (cellWf_cellSet m a b h)

theorem cellWf_cellsClear {w : Nat} (m : Sparse w) (a z : Nat) (h : cellWf m = true) : cellWf (cellsClear m a z) = true :=
  cellWf_filter m _ h

/-- Every write of memory keeps its canonical form. -/
theorem writeNat_wf (m : Memory) (a n x : Nat) (h : Memory.wf m = true) : Memory.wf (writeNat m a n x) = true :=
  cellWf_cellsSet _ _ _ h

end Sys2Proof.Machine
end

