-- ==== Sys2Proof/Laws/Bits.lean ====
section
/-! SUPPORT. Laws of the bit helpers: masks of lanes, the lowest lane, register pairs, bytes, and numbers in memory. -/

namespace Sys2Proof.Machine

/-! ## Lanes -/

theorem mem_laneList {l : Nat} : l ∈ laneList ↔ l < 32 := by simp [laneList]

theorem mem_lanesOf {X : Word} {l : Nat} : l ∈ lanesOf X ↔ X.getLsbD l = true := by
  simp only [lanesOf, List.mem_filter, mem_laneList]
  exact ⟨fun h => h.2, fun h => ⟨BitVec.lt_of_getLsbD h, h⟩⟩

theorem getLsbD_foldl_or (f : Nat → Bool) (ls : List Nat) (m : Word) (l : Nat) (hl : l < 32) :
    (ls.foldl (fun m l => if f l then m ||| BitVec.twoPow 32 l else m) m).getLsbD l =
      (m.getLsbD l || (ls.contains l && f l)) := by
  induction ls generalizing m with
  | nil => simp
  | cons a ls ih =>
    rw [List.foldl_cons, ih]
    by_cases ha : a = l
    · subst ha; by_cases hf : f a <;> simp [hf, hl]
    · by_cases hf : f a <;> simp [hf, ha, Ne.symm ha, hl]

/-- A lane's bit in the mask of a test. -/
@[simp] theorem getLsbD_maskOf (f : Nat → Bool) (l : Nat) : (maskOf f).getLsbD l = (decide (l < 32) && f l) := by
  by_cases hl : l < 32
  · rw [maskOf, getLsbD_foldl_or f _ _ l hl]; simp [laneList, hl]
  · simp [hl, BitVec.getLsbD_of_ge _ _ (Nat.le_of_not_lt hl)]

/-- No lane, no lowest lane. -/
theorem lowLane_eq_none {X : Word} : lowLane X = none ↔ X = 0 := by
  rw [lowLane, List.head?_eq_none_iff]
  constructor
  · intro h
    apply BitVec.eq_of_getLsbD_eq
    intro l _
    by_cases hb : X.getLsbD l = true
    · have := mem_lanesOf.2 hb; rw [h] at this; cases this
    · simpa using hb
  · rintro rfl; decide

@[simp] theorem lowLane_zero : lowLane 0 = none := by decide

/-- The lowest lane is a lane of the mask. -/
theorem lowLane_mem {X : Word} {l : Nat} (h : lowLane X = some l) : X.getLsbD l = true :=
  mem_lanesOf.1 (List.mem_of_head? h)

/-- No lane of the mask lies below the lowest one. -/
theorem lowLane_min {X : Word} {l k : Nat} (h : lowLane X = some l) (hk : X.getLsbD k = true) : l ≤ k := by
  have hs : (lanesOf X).Pairwise (· < ·) := (List.pairwise_lt_range (n := 32)).filter _
  rw [lowLane] at h
  obtain ⟨t, ht⟩ := List.head?_eq_some_iff.1 h
  rw [ht] at hs
  have := mem_lanesOf.2 hk
  rw [ht] at this
  rcases List.mem_cons.1 this with rfl | h'
  · exact Nat.le_refl _
  · exact Nat.le_of_lt ((List.pairwise_cons.1 hs).1 k h')

/-- A mask with a lane has a lowest one. -/
theorem lowLane_isSome {X : Word} {l : Nat} (h : X.getLsbD l = true) : ∃ k, lowLane X = some k := by
  cases hx : lowLane X with
  | none => rw [lowLane_eq_none.1 hx] at h; simp at h
  | some k => exact ⟨k, rfl⟩

/-! ## Register pairs -/

@[simp] theorem lo32_join64 (a b : Word) : lo32 (join64 a b) = a := by
  apply BitVec.eq_of_toNat_eq; simp [lo32, join64]; omega

@[simp] theorem hi32_join64 (a b : Word) : hi32 (join64 a b) = b := by
  apply BitVec.eq_of_toNat_eq
  simp [hi32, join64, Nat.shiftRight_eq_div_pow]
  omega

@[simp] theorem join64_lo_hi (x : DWord) : join64 (lo32 x) (hi32 x) = x := by
  apply BitVec.eq_of_toNat_eq
  have := x.isLt
  simp [lo32, hi32, join64, Nat.shiftRight_eq_div_pow]
  omega

/-! ## Bytes and numbers -/

@[simp] theorem length_toBytes (n x : Nat) : (toBytes n x).length = n := by
  induction n generalizing x with
  | zero => rfl
  | succ n ih => simp [toBytes, ih]

theorem getD_toBytes (n x k : Nat) (hk : k < n) : (toBytes n x).getD k 0 = BitVec.ofNat 8 (x / 256 ^ k) := by
  induction n generalizing x k with
  | zero => omega
  | succ n ih =>
    cases k with
    | zero => simp [toBytes]
    | succ k =>
      have := ih (x / 256) k (by omega)
      simp only [toBytes, List.getD_cons_succ]
      rw [this, Nat.div_div_eq_div_mul, Nat.pow_succ, Nat.mul_comm]

/-- A number survives being written and read as bytes, up to its width. -/
theorem fromBytes_toBytes (n x : Nat) : fromBytes (toBytes n x) = x % 256 ^ n := by
  induction n generalizing x with
  | zero => simp [toBytes, fromBytes, Nat.mod_one]
  | succ n ih =>
    rw [toBytes, fromBytes, ih, Nat.pow_succ, Nat.mul_comm (256 ^ n) 256, Nat.mod_mul]
    simp

theorem fromBytes_lt (bs : List Byte) : fromBytes bs < 256 ^ bs.length := by
  induction bs with
  | nil => simp [fromBytes]
  | cons b bs ih => simp [fromBytes, Nat.pow_succ]; have := b.isLt; omega

theorem cellsGet_cellsSet_same {w : Nat} (bs : List (BitVec w)) (m : Sparse w) (a : Nat) :
    cellsGet (cellsSet m a bs) a bs.length = bs := by
  apply List.ext_getElem
  · simp [cellsGet]
  · intro i h1 h2
    simp only [cellsGet, List.getElem_map, List.getElem_range, cellGet_cellsSet]
    rw [if_pos (by omega)]
    simp [h2]

theorem cellsGet_cellsSet_of_disjoint {w : Nat} (bs : List (BitVec w)) (m : Sparse w) (a b n : Nat)
    (h : b + n ≤ a ∨ a + bs.length ≤ b) : cellsGet (cellsSet m a bs) b n = cellsGet m b n := by
  apply List.ext_getElem
  · simp [cellsGet]
  · intro i h1 h2
    have hi : i < n := by simpa [cellsGet] using h1
    simp only [cellsGet, List.getElem_map, List.getElem_range, cellGet_cellsSet]
    rw [if_neg (by omega)]

/-- A number read where it was written. -/
theorem readNat_writeNat_same (m : Memory) (a n x : Nat) : readNat (writeNat m a n x) a n = x % 256 ^ n := by
  have := cellsGet_cellsSet_same (toBytes n x) m a
  rw [length_toBytes] at this
  rw [readNat, writeNat, this, fromBytes_toBytes]

/-- A number read elsewhere than where one was written. -/
theorem readNat_writeNat_of_disjoint (m : Memory) (a n x b k : Nat) (h : b + k ≤ a ∨ a + n ≤ b) :
    readNat (writeNat m a n x) b k = readNat m b k := by
  rw [readNat, writeNat, cellsGet_cellsSet_of_disjoint _ _ _ _ _ (by simpa using h)]
  rfl

end Sys2Proof.Machine
end

