-- ==== Sys2Proof/Laws/Exec.lean ====
section
/-! SUPPORT. The meaning that each arm of `exec` calls, by computation. -/

namespace Sys2Proof.Machine

@[simp] theorem exec_nop (g : Guard) (s : State) : exec (.nop g) s = execNop g s := rfl
@[simp] theorem exec_bra (g : Guard) (ofs : BitVec 24) (s : State) : exec (.bra g ofs) s = execBra g ofs s := rfl
@[simp] theorem exec_brx (g : Guard) (a : Operand) (s : State) : exec (.brx g a) s = execBrx g a s := rfl
@[simp] theorem exec_call (g : Guard) (d : Operand) (ofs : BitVec 24) (s : State) : exec (.call g d ofs) s = execCall g d ofs s := rfl
@[simp] theorem exec_callx (g : Guard) (d : Operand) (a : Operand) (s : State) : exec (.callx g d a) s = execCallx g d a s := rfl
@[simp] theorem exec_ret (g : Guard) (a : Operand) (s : State) : exec (.ret g a) s = execRet g a s := rfl
@[simp] theorem exec_exit (g : Guard) (s : State) : exec (.exit g) s = execExit g s := rfl
@[simp] theorem exec_trap (k : BitVec 8) (s : State) : exec (.trap k) s = execTrap k s := rfl
@[simp] theorem exec_sleep (g : Guard) (b : Operand) (s : State) : exec (.sleep g b) s = execSleep g b s := rfl
@[simp] theorem exec_brk (k : BitVec 16) (s : State) : exec (.brk k) s = execBrk k s := rfl
@[simp] theorem exec_iadd (g : Guard) (t : IntType) (sat : Bool) (d : Operand) (a : Operand) (b : Operand) (s : State) : exec (.iadd g t sat d a b) s = execIadd g t sat d a b s := rfl
@[simp] theorem exec_isub (g : Guard) (t : IntType) (sat : Bool) (d : Operand) (a : Operand) (b : Operand) (s : State) : exec (.isub g t sat d a b) s = execIsub g t sat d a b s := rfl
@[simp] theorem exec_imul (g : Guard) (t : IntType) (d : Operand) (a : Operand) (b : Operand) (s : State) : exec (.imul g t d a b) s = execImul g t d a b s := rfl
@[simp] theorem exec_imulh (g : Guard) (t : IntType) (d : Operand) (a : Operand) (b : Operand) (s : State) : exec (.imulh g t d a b) s = execImulh g t d a b s := rfl
@[simp] theorem exec_imad (g : Guard) (t : IntType) (d : Operand) (a : Operand) (b : Operand) (c : Operand) (s : State) : exec (.imad g t d a b c) s = execImad g t d a b c s := rfl
@[simp] theorem exec_imadw (g : Guard) (t : IntType) (d : Operand) (a : Operand) (b : Operand) (c : Operand) (s : State) : exec (.imadw g t d a b c) s = execImadw g t d a b c s := rfl
@[simp] theorem exec_imin (g : Guard) (t : IntType) (d : Operand) (a : Operand) (b : Operand) (s : State) : exec (.imin g t d a b) s = execImin g t d a b s := rfl
@[simp] theorem exec_imax (g : Guard) (t : IntType) (d : Operand) (a : Operand) (b : Operand) (s : State) : exec (.imax g t d a b) s = execImax g t d a b s := rfl
@[simp] theorem exec_iabs (g : Guard) (t : IntType) (sat : Bool) (d : Operand) (a : Operand) (s : State) : exec (.iabs g t sat d a) s = execIabs g t sat d a s := rfl
@[simp] theorem exec_ineg (g : Guard) (t : IntType) (sat : Bool) (d : Operand) (a : Operand) (s : State) : exec (.ineg g t sat d a) s = execIneg g t sat d a s := rfl
@[simp] theorem exec_iaddc (g : Guard) (sub : Bool) (n : Nat) (d : Operand) (a : Operand) (b : Operand) (s : State) : exec (.iaddc g sub n d a b) s = execIaddc g sub n d a b s := rfl
@[simp] theorem exec_idot4 (g : Guard) (sat : Bool) (unsA : Bool) (unsB : Bool) (d : Operand) (a : Operand) (b : Operand) (c : Operand) (s : State) : exec (.idot4 g sat unsA unsB d a b c) s = execIdot4 g sat unsA unsB d a b c s := rfl
@[simp] theorem exec_and (g : Guard) (t : IntType) (d : Operand) (a : Operand) (b : Operand) (s : State) : exec (.and g t d a b) s = execAnd g t d a b s := rfl
@[simp] theorem exec_or (g : Guard) (t : IntType) (d : Operand) (a : Operand) (b : Operand) (s : State) : exec (.or g t d a b) s = execOr g t d a b s := rfl
@[simp] theorem exec_xor (g : Guard) (t : IntType) (d : Operand) (a : Operand) (b : Operand) (s : State) : exec (.xor g t d a b) s = execXor g t d a b s := rfl
@[simp] theorem exec_andn (g : Guard) (t : IntType) (d : Operand) (a : Operand) (b : Operand) (s : State) : exec (.andn g t d a b) s = execAndn g t d a b s := rfl
@[simp] theorem exec_shl (g : Guard) (t : IntType) (d : Operand) (a : Operand) (b : Operand) (s : State) : exec (.shl g t d a b) s = execShl g t d a b s := rfl
@[simp] theorem exec_shr (g : Guard) (t : IntType) (d : Operand) (a : Operand) (b : Operand) (s : State) : exec (.shr g t d a b) s = execShr g t d a b s := rfl
@[simp] theorem exec_sar (g : Guard) (t : IntType) (d : Operand) (a : Operand) (b : Operand) (s : State) : exec (.sar g t d a b) s = execSar g t d a b s := rfl
@[simp] theorem exec_rot (g : Guard) (t : IntType) (right : Bool) (d : Operand) (a : Operand) (b : Operand) (s : State) : exec (.rot g t right d a b) s = execRot g t right d a b s := rfl
@[simp] theorem exec_bfx (g : Guard) (t : IntType) (d : Operand) (a : Operand) (b : Operand) (s : State) : exec (.bfx g t d a b) s = execBfx g t d a b s := rfl
@[simp] theorem exec_bfi (g : Guard) (d : Operand) (a : Operand) (b : Operand) (c : Operand) (s : State) : exec (.bfi g d a b c) s = execBfi g d a b c s := rfl
@[simp] theorem exec_popc (g : Guard) (t : IntType) (d : Operand) (a : Operand) (s : State) : exec (.popc g t d a) s = execPopc g t d a s := rfl
@[simp] theorem exec_clz (g : Guard) (t : IntType) (d : Operand) (a : Operand) (s : State) : exec (.clz g t d a) s = execClz g t d a s := rfl
@[simp] theorem exec_ctz (g : Guard) (t : IntType) (d : Operand) (a : Operand) (s : State) : exec (.ctz g t d a) s = execCtz g t d a s := rfl
@[simp] theorem exec_brev (g : Guard) (t : IntType) (d : Operand) (a : Operand) (s : State) : exec (.brev g t d a) s = execBrev g t d a s := rfl
@[simp] theorem exec_perm (g : Guard) (d : Operand) (a : Operand) (b : Operand) (c : Operand) (s : State) : exec (.perm g d a b c) s = execPerm g d a b c s := rfl
@[simp] theorem exec_mov (g : Guard) (t : IntType) (d : Operand) (b : Operand) (s : State) : exec (.mov g t d b) s = execMov g t d b s := rfl
@[simp] theorem exec_movh (g : Guard) (d : Operand) (k : BitVec 16) (s : State) : exec (.movh g d k) s = execMovh g d k s := rfl
@[simp] theorem exec_sel (g : Guard) (t : IntType) (neg : Bool) (n : Nat) (d : Operand) (a : Operand) (b : Operand) (s : State) : exec (.sel g t neg n d a b) s = execSel g t neg n d a b s := rfl
@[simp] theorem exec_icmp (g : Guard) (t : IntType) (c : Cond) (cb : Comb) (n : Nat) (a : Operand) (b : Operand) (s : State) : exec (.icmp g t c cb n a b) s = execIcmp g t c cb n a b s := rfl
@[simp] theorem exec_lea (g : Guard) (ux : Bool) (d : Operand) (m : MemArg) (s : State) : exec (.lea g ux d m) s = execLea g ux d m s := rfl
@[simp] theorem exec_fadd (g : Guard) (r : Rnd) (d : Operand) (a : Operand) (b : Operand) (s : State) : exec (.fadd g r d a b) s = execFadd g r d a b s := rfl
@[simp] theorem exec_fmul (g : Guard) (r : Rnd) (d : Operand) (a : Operand) (b : Operand) (s : State) : exec (.fmul g r d a b) s = execFmul g r d a b s := rfl
@[simp] theorem exec_ffma (g : Guard) (r : Rnd) (d : Operand) (a : Operand) (b : Operand) (c : Operand) (s : State) : exec (.ffma g r d a b c) s = execFfma g r d a b c s := rfl
@[simp] theorem exec_fmin (g : Guard) (d : Operand) (a : Operand) (b : Operand) (s : State) : exec (.fmin g d a b) s = execFmin g d a b s := rfl
@[simp] theorem exec_fmax (g : Guard) (d : Operand) (a : Operand) (b : Operand) (s : State) : exec (.fmax g d a b) s = execFmax g d a b s := rfl
@[simp] theorem exec_frnd (g : Guard) (r : Rnd) (d : Operand) (a : Operand) (s : State) : exec (.frnd g r d a) s = execFrnd g r d a s := rfl
@[simp] theorem exec_fscale (g : Guard) (r : Rnd) (d : Operand) (a : Operand) (b : Operand) (s : State) : exec (.fscale g r d a b) s = execFscale g r d a b s := rfl
@[simp] theorem exec_frcp (g : Guard) (r : Rnd) (d : Operand) (a : Operand) (s : State) : exec (.frcp g r d a) s = execFrcp g r d a s := rfl
@[simp] theorem exec_frsq (g : Guard) (r : Rnd) (d : Operand) (a : Operand) (s : State) : exec (.frsq g r d a) s = execFrsq g r d a s := rfl
@[simp] theorem exec_fsqrt (g : Guard) (r : Rnd) (d : Operand) (a : Operand) (s : State) : exec (.fsqrt g r d a) s = execFsqrt g r d a s := rfl
@[simp] theorem exec_fexp2 (g : Guard) (r : Rnd) (d : Operand) (a : Operand) (s : State) : exec (.fexp2 g r d a) s = execFexp2 g r d a s := rfl
@[simp] theorem exec_flog2 (g : Guard) (r : Rnd) (d : Operand) (a : Operand) (s : State) : exec (.flog2 g r d a) s = execFlog2 g r d a s := rfl
@[simp] theorem exec_fsin (g : Guard) (r : Rnd) (d : Operand) (a : Operand) (s : State) : exec (.fsin g r d a) s = execFsin g r d a s := rfl
@[simp] theorem exec_fcos (g : Guard) (r : Rnd) (d : Operand) (a : Operand) (s : State) : exec (.fcos g r d a) s = execFcos g r d a s := rfl
@[simp] theorem exec_fcmp (g : Guard) (c : Cond) (cb : Comb) (n : Nat) (a : Operand) (b : Operand) (s : State) : exec (.fcmp g c cb n a b) s = execFcmp g c cb n a b s := rfl
@[simp] theorem exec_fclass (g : Guard) (d : Operand) (a : Operand) (s : State) : exec (.fclass g d a) s = execFclass g d a s := rfl
@[simp] theorem exec_hadd2 (g : Guard) (bf : Bool) (r : Rnd) (d : Operand) (a : Operand) (b : Operand) (s : State) : exec (.hadd2 g bf r d a b) s = execHadd2 g bf r d a b s := rfl
@[simp] theorem exec_hmul2 (g : Guard) (bf : Bool) (r : Rnd) (d : Operand) (a : Operand) (b : Operand) (s : State) : exec (.hmul2 g bf r d a b) s = execHmul2 g bf r d a b s := rfl
@[simp] theorem exec_hfma2 (g : Guard) (bf : Bool) (r : Rnd) (d : Operand) (a : Operand) (b : Operand) (c : Operand) (s : State) : exec (.hfma2 g bf r d a b c) s = execHfma2 g bf r d a b c s := rfl
@[simp] theorem exec_hminmax2 (g : Guard) (bf : Bool) (max : Bool) (d : Operand) (a : Operand) (b : Operand) (s : State) : exec (.hminmax2 g bf max d a b) s = execHminmax2 g bf max d a b s := rfl
@[simp] theorem exec_cvt (g : Guard) (dt : NumType) (st : NumType) (xe8m0 : Bool) (sat : Bool) (r : Rnd) (d : Operand) (a : Operand) (s : State) : exec (.cvt g dt st xe8m0 sat r d a) s = execCvt g dt st xe8m0 sat r d a s := rfl
@[simp] theorem exec_pack (g : Guard) (e : NumType) (k : Nat) (sat : Bool) (r : Rnd) (d : Operand) (a : Operand) (b : Operand) (c : Operand) (s : State) : exec (.pack g e k sat r d a b c) s = execPack g e k sat r d a b c s := rfl
@[simp] theorem exec_unpack (g : Guard) (e : NumType) (k : Nat) (d : Operand) (a : Operand) (s : State) : exec (.unpack g e k d a) s = execUnpack g e k d a s := rfl
@[simp] theorem exec_vtest (g : Guard) (c : VCond) (cb : Comb) (step : Bool) (n : Nat) (d : Operand) (a : Operand) (b : Operand) (s : State) : exec (.vtest g c cb step n d a b) s = execVtest g c cb step n d a b s := rfl
@[simp] theorem exec_vsel (g : Guard) (d : Operand) (a : Operand) (b : Operand) (c : Operand) (s : State) : exec (.vsel g d a b c) s = execVsel g d a b c s := rfl
@[simp] theorem exec_pairWord (h0 : Half) (h1 : Half) (s : State) : exec (.pairWord h0 h1) s = execPairWord h0 h1 s := rfl
@[simp] theorem exec_plop (g : Guard) (pd : Nat) (pa : Nat) (pb : Nat) (lut : BitVec 4) (s : State) : exec (.plop g pd pa pb lut) s = execPlop g pd pa pb lut s := rfl
@[simp] theorem exec_pmov (g : Guard) (dir : PmovDir) (n : Nat) (x : Operand) (s : State) : exec (.pmov g dir n x) s = execPmov g dir n x s := rfl
@[simp] theorem exec_vote (g : Guard) (m : VoteMode) (neg : Bool) (n : Nat) (d : Operand) (s : State) : exec (.vote g m neg n d) s = execVote g m neg n d s := rfl
@[simp] theorem exec_shfl (g : Guard) (m : ShflMode) (w64 : Bool) (v : Nat) (seg : Nat) (d : Operand) (a : Operand) (b : Operand) (s : State) : exec (.shfl g m w64 v seg d a b) s = execShfl g m w64 v seg d a b s := rfl
@[simp] theorem exec_scan (g : Guard) (op : ScanOp) (t : ScanType) (excl : Bool) (r : Rnd) (d : Operand) (a : Operand) (s : State) : exec (.scan g op t excl r d a) s = execScan g op t excl r d a s := rfl
@[simp] theorem exec_redux (g : Guard) (op : ScanOp) (t : ScanType) (r : Rnd) (d : Operand) (a : Operand) (s : State) : exec (.redux g op t r d a) s = execRedux g op t r d a s := rfl
@[simp] theorem exec_matchLanes (g : Guard) (all : Bool) (w64 : Bool) (n : Nat) (d : Operand) (a : Operand) (s : State) : exec (.matchLanes g all w64 n d a) s = execMatchLanes g all w64 n d a s := rfl
@[simp] theorem exec_lread (g : Guard) (w64 : Bool) (d : Operand) (a : Operand) (b : Operand) (s : State) : exec (.lread g w64 d a b) s = execLread g w64 d a b s := rfl
@[simp] theorem exec_regroup (buddy : Bool) (d : Operand) (vF : Operand) (vL : Operand) (s : State) : exec (.regroup buddy d vF vL) s = execRegroup buddy d vF vL s := rfl
@[simp] theorem exec_regroupTimeout (key : Nat) (s : State) : exec (.regroupTimeout key) s = execRegroupTimeout key s := rfl
@[simp] theorem exec_ld (g : Guard) (nl1 : Bool) (sz : MemSize) (acq : Bool) (sc : Scope) (d : Operand) (m : MemArg) (s : State) : exec (.ld g nl1 sz acq sc d m) s = execLd g nl1 sz acq sc d m s := rfl
@[simp] theorem exec_st (g : Guard) (nl1 : Bool) (sz : MemSize) (rel : Bool) (sc : Scope) (d : Operand) (m : MemArg) (s : State) : exec (.st g nl1 sz rel sc d m) s = execSt g nl1 sz rel sc d m s := rfl
@[simp] theorem exec_ldb (g : Guard) (sz : Nat) (acq : Bool) (sc : Scope) (d : Operand) (m : MemArg) (s : State) : exec (.ldb g sz acq sc d m) s = execLdb g sz acq sc d m s := rfl
@[simp] theorem exec_pref (g : Guard) (lvl : PrefLevel) (m : MemArg) (s : State) : exec (.pref g lvl m) s = execPref g lvl m s := rfl
@[simp] theorem exec_fence (k : FenceKind) (sc : Scope) (s : State) : exec (.fence k sc) s = execFence k sc s := rfl
@[simp] theorem exec_cacheWb (g : Guard) (m : MemArg) (s : State) : exec (.cacheWb g m) s = execCacheWb g m s := rfl
@[simp] theorem exec_cacheWbinv (g : Guard) (m : MemArg) (s : State) : exec (.cacheWbinv g m) s = execCacheWbinv g m s := rfl
@[simp] theorem exec_cacheZero (g : Guard) (m : MemArg) (s : State) : exec (.cacheZero g m) s = execCacheZero g m s := rfl
@[simp] theorem exec_cacheIinv (g : Guard) (s : State) : exec (.cacheIinv g) s = execCacheIinv g s := rfl
@[simp] theorem exec_cacheL1wb (g : Guard) (s : State) : exec (.cacheL1wb g) s = execCacheL1wb g s := rfl
@[simp] theorem exec_atom (g : Guard) (op : AtomOp) (o : Ord) (sc : Scope) (d : Operand) (m : MemArg) (s : State) : exec (.atom g op o sc d m) s = execAtom g op o sc d m s := rfl
@[simp] theorem exec_red (g : Guard) (op : AtomOp) (rel : Bool) (sc : Scope) (d : Operand) (m : MemArg) (s : State) : exec (.red g op rel sc d m) s = execRed g op rel sc d m s := rfl
@[simp] theorem exec_mwait (g : Guard) (c : MonCond) (w64 : Bool) (acq : Bool) (sc : Scope) (d : Operand) (m : MemArg) (s : State) : exec (.mwait g c w64 acq sc d m) s = execMwait g c w64 acq sc d m s := rfl
@[simp] theorem exec_vdrop (vF : Operand) (vL : Operand) (s : State) : exec (.vdrop vF vL) s = execVdrop vF vL s := rfl
@[simp] theorem exec_barArrive (g : Guard) (d : Operand) (a : Operand) (b : Operand) (s : State) : exec (.barArrive g d a b) s = execBarArrive g d a b s := rfl
@[simp] theorem exec_barDrop (g : Guard) (d : Operand) (a : Operand) (b : Operand) (s : State) : exec (.barDrop g d a b) s = execBarDrop g d a b s := rfl
@[simp] theorem exec_barJoin (g : Guard) (d : Operand) (a : Operand) (s : State) : exec (.barJoin g d a) s = execBarJoin g d a s := rfl
@[simp] theorem exec_barExpect (g : Guard) (d : Operand) (a : Operand) (b : Operand) (s : State) : exec (.barExpect g d a b) s = execBarExpect g d a b s := rfl
@[simp] theorem exec_barWait (g : Guard) (a : Operand) (b : Operand) (s : State) : exec (.barWait g a b) s = execBarWait g a b s := rfl
@[simp] theorem exec_barSync (g : Guard) (a : Operand) (b : Operand) (s : State) : exec (.barSync g a b) s = execBarSync g a b s := rfl
@[simp] theorem exec_barTest (g : Guard) (d : Operand) (a : Operand) (b : Operand) (s : State) : exec (.barTest g d a b) s = execBarTest g d a b s := rfl
@[simp] theorem exec_tbarSync (g : Guard) (t : Nat) (s : State) : exec (.tbarSync g t) s = execTbarSync g t s := rfl
@[simp] theorem exec_tbarArrive (g : Guard) (t : Nat) (d : Operand) (s : State) : exec (.tbarArrive g t d) s = execTbarArrive g t d s := rfl
@[simp] theorem exec_tbarWait (g : Guard) (t : Nat) (b : Operand) (s : State) : exec (.tbarWait g t b) s = execTbarWait g t b s := rfl
@[simp] theorem exec_tbarTest (g : Guard) (t : Nat) (d : Operand) (b : Operand) (s : State) : exec (.tbarTest g t d b) s = execTbarTest g t d b s := rfl
@[simp] theorem exec_tagPhaseComplete (team : Nat) (t : Nat) (s : State) : exec (.tagPhaseComplete team t) s = execTagPhaseComplete team t s := rfl
@[simp] theorem exec_evarm (g : Guard) (k : EvKind) (slot : Nat) (c : EvCond) (t : IntType) (a : Operand) (b : Operand) (h : Operand) (s : State) : exec (.evarm g k slot c t a b h) s = execEvarm g k slot c t a b h s := rfl
@[simp] theorem exec_evdis (g : Guard) (d : Operand) (b : Operand) (s : State) : exec (.evdis g d b) s = execEvdis g d b s := rfl
@[simp] theorem exec_waitany (b : Operand) (s : State) : exec (.waitany b) s = execWaitany b s := rfl
@[simp] theorem exec_mbox (g : Guard) (try_ : Bool) (tag : BitVec 8) (d : Operand) (a : Operand) (p : Operand) (s : State) : exec (.mbox g try_ tag d a p) s = execMbox g try_ tag d a p s := rfl
@[simp] theorem exec_eventDeadline (key : Nat) (slot : Nat) (s : State) : exec (.eventDeadline key slot) s = execEventDeadline key slot s := rfl
@[simp] theorem exec_sleepWake (key : Nat) (slotB : Bool) (s : State) : exec (.sleepWake key slotB) s = execSleepWake key slotB s := rfl
@[simp] theorem exec_kick (g : Guard) (a : Operand) (b : Operand) (s : State) : exec (.kick g a b) s = execKick g a b s := rfl
@[simp] theorem exec_regionRing (g : Guard) (h : Nat) (d : Operand) (a : Operand) (b : Operand) (s : State) : exec (.regionRing g h d a b) s = execRegionRing g h d a b s := rfl
@[simp] theorem exec_regionWindow (g : Guard) (h : Nat) (d : Operand) (a : Operand) (b : Operand) (s : State) : exec (.regionWindow g h d a b) s = execRegionWindow g h d a b s := rfl
@[simp] theorem exec_regionAbsent (g : Guard) (h : Nat) (d : Operand) (s : State) : exec (.regionAbsent g h d) s = execRegionAbsent g h d s := rfl
@[simp] theorem exec_regionPresent (g : Guard) (h : Nat) (d : Operand) (s : State) : exec (.regionPresent g h d) s = execRegionPresent g h d s := rfl
@[simp] theorem exec_regionFree (g : Guard) (h : Nat) (d : Operand) (s : State) : exec (.regionFree g h d) s = execRegionFree g h d s := rfl
@[simp] theorem exec_racqFill (g : Guard) (h : Nat) (try_ : Bool) (d : Operand) (s : State) : exec (.racqFill g h try_ d) s = execRacqFill g h try_ d s := rfl
@[simp] theorem exec_racqFree (g : Guard) (h : Nat) (try_ : Bool) (d : Operand) (s : State) : exec (.racqFree g h try_ d) s = execRacqFree g h try_ d s := rfl
@[simp] theorem exec_rpub (g : Guard) (h : Nat) (a : Operand) (s : State) : exec (.rpub g h a) s = execRpub g h a s := rfl
@[simp] theorem exec_rrel (g : Guard) (h : Nat) (a : Operand) (s : State) : exec (.rrel g h a) s = execRrel g h a s := rfl
@[simp] theorem exec_mclaim (g : Guard) (d : Operand) (a : Operand) (b : Operand) (s : State) : exec (.mclaim g d a b) s = execMclaim g d a b s := rfl
@[simp] theorem exec_mrel (g : Guard) (a : Operand) (b : Operand) (s : State) : exec (.mrel g a b) s = execMrel g a b s := rfl
@[simp] theorem exec_mstage (g : Guard) (a : Operand) (b : Operand) (s : State) : exec (.mstage g a b) s = execMstage g a b s := rfl
@[simp] theorem exec_mread (g : Guard) (d : Operand) (a : Operand) (s : State) : exec (.mread g d a) s = execMread g d a s := rfl
@[simp] theorem exec_mzero (g : Guard) (b : Operand) (s : State) : exec (.mzero g b) s = execMzero g b s := rfl
@[simp] theorem exec_mloop (g : Guard) (ta : NumType) (tb : NumType) (sc : Bool) (nt : Bool) (a : Operand) (b : Operand) (c : Operand) (s : State) : exec (.mloop g ta tb sc nt a b c) s = execMloop g ta tb sc nt a b c s := rfl
@[simp] theorem exec_msca (g : Guard) (a : Operand) (b : Operand) (c : Operand) (s : State) : exec (.msca g a b c) s = execMsca g a b c s := rfl
@[simp] theorem exec_mdrain (g : Guard) (op : DrainOp) (ord : Bool) (sc : Scope) (f32 : Bool) (a : Operand) (b : Operand) (c : Operand) (s : State) : exec (.mdrain g op ord sc f32 a b c) s = execMdrain g op ord sc f32 a b c s := rfl
@[simp] theorem exec_msyncWait (g : Guard) (d : Operand) (b : Operand) (s : State) : exec (.msyncWait g d b) s = execMsyncWait g d b s := rfl
@[simp] theorem exec_msyncStat (g : Guard) (d : Operand) (s : State) : exec (.msyncStat g d) s = execMsyncStat g d s := rfl
@[simp] theorem exec_vcfg (g : Guard) (p : VPred) (audit : Bool) (reset : Bool) (a : Operand) (b : Operand) (s : State) : exec (.vcfg g p audit reset a b) s = execVcfg g p audit reset a b s := rfl
@[simp] theorem exec_topk (g : Guard) (a : Operand) (b : Operand) (c : Operand) (s : State) : exec (.topk g a b c) s = execTopk g a b c s := rfl
@[simp] theorem exec_topkmMerge (g : Guard) (a : Operand) (b : Operand) (s : State) : exec (.topkmMerge g a b) s = execTopkmMerge g a b s := rfl
@[simp] theorem exec_topkmStore (g : Guard) (a : Operand) (b : Operand) (s : State) : exec (.topkmStore g a b) s = execTopkmStore g a b s := rfl
@[simp] theorem exec_topkr (g : Guard) (d : Operand) (a : Operand) (b : Operand) (s : State) : exec (.topkr g d a b) s = execTopkr g d a b s := rfl
@[simp] theorem exec_vthr (g : Guard) (a : Operand) (b : Operand) (s : State) : exec (.vthr g a b) s = execVthr g a b s := rfl
@[simp] theorem exec_trace (g : Guard) (sn : Nat) (d : Operand) (a : Operand) (b : Operand) (c : Operand) (s : State) : exec (.trace g sn d a b c) s = execTrace g sn d a b c s := rfl
@[simp] theorem exec_psalloc (g : Guard) (d : Operand) (a : Operand) (s : State) : exec (.psalloc g d a) s = execPsalloc g d a s := rfl
@[simp] theorem exec_psfree (g : Guard) (d : Operand) (a : Operand) (b : Operand) (s : State) : exec (.psfree g d a b) s = execPsfree g d a b s := rfl
@[simp] theorem exec_sqpush (g : Guard) (q : StageQ) (d : Operand) (a : Operand) (b : Operand) (s : State) : exec (.sqpush g q d a b) s = execSqpush g q d a b s := rfl
@[simp] theorem exec_sqpop (g : Guard) (q : StageQ) (d : Operand) (a : Operand) (s : State) : exec (.sqpop g q d a) s = execSqpop g q d a s := rfl
@[simp] theorem exec_tex (g : Guard) (m : DMode) (d : Operand) (a : Operand) (b : Operand) (c : Operand) (s : State) : exec (.tex g m d a b c) s = execTex g m d a b c s := rfl
@[simp] theorem exec_texg (g : Guard) (m : DMode) (ch : Nat) (d : Operand) (a : Operand) (b : Operand) (c : Operand) (s : State) : exec (.texg g m ch d a b c) s = execTexg g m ch d a b c s := rfl
@[simp] theorem exec_texqLod (g : Guard) (m : DMode) (d : Operand) (a : Operand) (b : Operand) (s : State) : exec (.texqLod g m d a b) s = execTexqLod g m d a b s := rfl
@[simp] theorem exec_texqDims (g : Guard) (d : Operand) (a : Operand) (b : Operand) (s : State) : exec (.texqDims g d a b) s = execTexqDims g d a b s := rfl
@[simp] theorem exec_attr (g : Guard) (n : Nat) (a0 : Nat) (d : Operand) (a : Operand) (b : Operand) (s : State) : exec (.attr g n a0 d a b) s = execAttr g n a0 d a b s := rfl
@[simp] theorem exec_fback (g : Guard) (d : Operand) (a : Operand) (b : Operand) (s : State) : exec (.fback g d a b) s = execFback g d a b s := rfl
@[simp] theorem exec_csrr (g : Guard) (w : CsrWidth) (d : Operand) (csr : BitVec 12) (s : State) : exec (.csrr g w d csr) s = execCsrr g w d csr s := rfl
@[simp] theorem exec_csrw (g : Guard) (w : CsrWidth) (csr : BitVec 12) (a : Operand) (s : State) : exec (.csrw g w csr a) s = execCsrw g w csr a s := rfl
@[simp] theorem exec_csrx (g : Guard) (op : CsrOp) (w : CsrWidth) (d : Operand) (csr : BitVec 12) (a : Operand) (s : State) : exec (.csrx g op w d csr a) s = execCsrx g op w d csr a s := rfl
@[simp] theorem exec_setperf (g : Guard) (d : Operand) (a : Operand) (b : Operand) (s : State) : exec (.setperf g d a b) s = execSetperf g d a b s := rfl
@[simp] theorem exec_launch (g : Guard) (d : Operand) (a : Operand) (b : Operand) (s : State) : exec (.launch g d a b) s = execLaunch g d a b s := rfl
@[simp] theorem exec_tlbi (g : Guard) (m : TlbiMode) (a : Operand) (s : State) : exec (.tlbi g m a) s = execTlbi g m a s := rfl
@[simp] theorem exec_trapack (g : Guard) (d : Operand) (a : Operand) (s : State) : exec (.trapack g d a) s = execTrapack g d a s := rfl
@[simp] theorem exec_hostForward (dev : Nat) (write : Bool) (addr : DWord) (data : Payload) (s : State) : exec (.hostForward dev write addr data) s = execHostForward dev write addr data s := rfl
@[simp] theorem exec_timesyncTimestamp (transmit : Bool) (s : State) : exec (.timesyncTimestamp transmit) s = execTimesyncTimestamp transmit s := rfl
@[simp] theorem exec_doorbell (q : Nat) (w : DWord) (s : State) : exec (.doorbell q w) s = execDoorbell q w s := rfl
@[simp] theorem exec_progressRead (q : Nat) (s : State) : exec (.progressRead q) s = execProgressRead q s := rfl
@[simp] theorem exec_prioWrite (q : Nat) (w : DWord) (s : State) : exec (.prioWrite q w) s = execPrioWrite q w s := rfl
@[simp] theorem exec_ctrlEnable (q : Nat) (s : State) : exec (.ctrlEnable q) s = execCtrlEnable q s := rfl
@[simp] theorem exec_ctrlDisable (q : Nat) (s : State) : exec (.ctrlDisable q) s = execCtrlDisable q s := rfl
@[simp] theorem exec_ctrlResume (q : Nat) (s : State) : exec (.ctrlResume q) s = execCtrlResume q s := rfl
@[simp] theorem exec_ctrlSkip (q : Nat) (s : State) : exec (.ctrlSkip q) s = execCtrlSkip q s := rfl
@[simp] theorem exec_ctrlClear (q : Nat) (s : State) : exec (.ctrlClear q) s = execCtrlClear q s := rfl
@[simp] theorem exec_viewDoorbell (va : DWord) (s : State) : exec (.viewDoorbell va) s = execViewDoorbell va s := rfl
@[simp] theorem exec_ctxtabWrite (pa : DWord) (s : State) : exec (.ctxtabWrite pa) s = execCtxtabWrite pa s := rfl
@[simp] theorem exec_permitack (token : DWord) (s : State) : exec (.permitack token) s = execPermitack token s := rfl
@[simp] theorem exec_preemptctx (q : DWord) (s : State) : exec (.preemptctx q) s = execPreemptctx q s := rfl
@[simp] theorem exec_attreq (pa : DWord) (s : State) : exec (.attreq pa) s = execAttreq pa s := rfl
@[simp] theorem exec_fwload (len : DWord) (s : State) : exec (.fwload len) s = execFwload len s := rfl
@[simp] theorem exec_devnumWrite (v : DWord) (s : State) : exec (.devnumWrite v) s = execDevnumWrite v s := rfl
@[simp] theorem exec_timeofsWrite (d : DWord) (s : State) : exec (.timeofsWrite d) s = execTimeofsWrite d s := rfl
@[simp] theorem exec_timerateWrite (a : Word) (s : State) : exec (.timerateWrite a) s = execTimerateWrite a s := rfl
@[simp] theorem exec_carveWrite (core : Nat) (v : Word) (s : State) : exec (.carveWrite core v) s = execCarveWrite core v s := rfl
@[simp] theorem exec_viswaysWrite (v : Word) (s : State) : exec (.viswaysWrite v) s = execViswaysWrite v s := rfl
@[simp] theorem exec_pwrlimWrite (v : Word) (s : State) : exec (.pwrlimWrite v) s = execPwrlimWrite v s := rfl
@[simp] theorem exec_perfceilWrite (ctx : Nat) (v : Word) (s : State) : exec (.perfceilWrite ctx v) s = execPerfceilWrite ctx v s := rfl
@[simp] theorem exec_ctxidWrite (key : Nat) (v : Word) (s : State) : exec (.ctxidWrite key v) s = execCtxidWrite key v s := rfl
@[simp] theorem exec_walkactResume (core : Nat) (req : Nat) (s : State) : exec (.walkactResume core req) s = execWalkactResume core req s := rfl
@[simp] theorem exec_walkactEnd (core : Nat) (req : Nat) (s : State) : exec (.walkactEnd core req) s = execWalkactEnd core req s := rfl
@[simp] theorem exec_registerWrite (key : Nat) (csr : BitVec 12) (v : DWord) (s : State) : exec (.registerWrite key csr v) s = execRegisterWrite key csr v s := rfl
@[simp] theorem exec_cardRead (q : Nat) (s : State) : exec (.cardRead q) s = execCardRead q s := rfl
@[simp] theorem exec_teamPlace (team : Nat) (s : State) : exec (.teamPlace team) s = execTeamPlace team s := rfl
@[simp] theorem exec_teamStart (team : Nat) (s : State) : exec (.teamStart team) s = execTeamStart team s := rfl
@[simp] theorem exec_carveConversion (core : Nat) (s : State) : exec (.carveConversion core) s = execCarveConversion core s := rfl
@[simp] theorem exec_registerRefill (key : Nat) (reg : Nat) (s : State) : exec (.registerRefill key reg) s = execRegisterRefill key reg s := rfl
@[simp] theorem exec_teamComplete (team : Nat) (s : State) : exec (.teamComplete team) s = execTeamComplete team s := rfl
@[simp] theorem exec_callSheetFire (entry : Nat) (s : State) : exec (.callSheetFire entry) s = execCallSheetFire entry s := rfl
@[simp] theorem exec_rasterStart (view : Nat) (s : State) : exec (.rasterStart view) s = execRasterStart view s := rfl
@[simp] theorem exec_drawEntryRead (view : Nat) (s : State) : exec (.drawEntryRead view) s = execDrawEntryRead view s := rfl
@[simp] theorem exec_binFlush (view : Nat) (s : State) : exec (.binFlush view) s = execBinFlush view s := rfl
@[simp] theorem exec_viewSeal (view : Nat) (s : State) : exec (.viewSeal view) s = execViewSeal view s := rfl
@[simp] theorem exec_tileScan (view : Nat) (s : State) : exec (.tileScan view) s = execTileScan view s := rfl
@[simp] theorem exec_binTimeout (bin : Nat) (s : State) : exec (.binTimeout bin) s = execBinTimeout bin s := rfl
@[simp] theorem exec_attributeWrite (team : Nat) (s : State) : exec (.attributeWrite team) s = execAttributeWrite team s := rfl
@[simp] theorem exec_viewDone (view : Nat) (s : State) : exec (.viewDone view) s = execViewDone view s := rfl
@[simp] theorem exec_traversalComplete (ray : Nat) (s : State) : exec (.traversalComplete ray) s = execTraversalComplete ray s := rfl
@[simp] theorem exec_walkStepRetire (core : Nat) (req : Nat) (s : State) : exec (.walkStepRetire core req) s = execWalkStepRetire core req s := rfl
@[simp] theorem exec_ringAcquireRequest (core : Nat) (req : Nat) (s : State) : exec (.ringAcquireRequest core req) s = execRingAcquireRequest core req s := rfl
@[simp] theorem exec_windowCopyEnd (core : Nat) (req : Nat) (s : State) : exec (.windowCopyEnd core req) s = execWindowCopyEnd core req s := rfl
@[simp] theorem exec_matrixStep (core : Nat) (s : State) : exec (.matrixStep core) s = execMatrixStep core s := rfl
@[simp] theorem exec_drainElement (n : Nat) (s : State) : exec (.drainElement n) s = execDrainElement n s := rfl
@[simp] theorem exec_orderedContribution (n : Nat) (s : State) : exec (.orderedContribution n) s = execOrderedContribution n s := rfl
@[simp] theorem exec_atomReply (key : Nat) (s : State) : exec (.atomReply key) s = execAtomReply key s := rfl
@[simp] theorem exec_translationComplete (key : Nat) (s : State) : exec (.translationComplete key) s = execTranslationComplete key s := rfl
@[simp] theorem exec_runSelect (core : Nat) (quad : Nat) (s : State) : exec (.runSelect core quad) s = execRunSelect core quad s := rfl
@[simp] theorem exec_throttleEnd (string : Nat) (s : State) : exec (.throttleEnd string) s = execThrottleEnd string s := rfl
@[simp] theorem exec_stallBreak (core : Nat) (quad : Nat) (s : State) : exec (.stallBreak core quad) s = execStallBreak core quad s := rfl
@[simp] theorem exec_candidateDue (key : Nat) (slotB : Bool) (s : State) : exec (.candidateDue key slotB) s = execCandidateDue key slotB s := rfl
@[simp] theorem exec_strimbUpdate (string : Nat) (s : State) : exec (.strimbUpdate string) s = execStrimbUpdate string s := rfl
@[simp] theorem exec_laneRatioChange (core : Nat) (s : State) : exec (.laneRatioChange core) s = execLaneRatioChange core s := rfl
@[simp] theorem exec_perfStep (string : Nat) (s : State) : exec (.perfStep string) s = execPerfStep string s := rfl
@[simp] theorem exec_hotspotMigration (core : Nat) (s : State) : exec (.hotspotMigration core) s = execHotspotMigration core s := rfl
@[simp] theorem exec_heatThrottle (string : Nat) (s : State) : exec (.heatThrottle string) s = execHeatThrottle string s := rfl
@[simp] theorem exec_heatThrottleEnd (string : Nat) (s : State) : exec (.heatThrottleEnd string) s = execHeatThrottleEnd string s := rfl
@[simp] theorem exec_droopStretch (string : Nat) (s : State) : exec (.droopStretch string) s = execDroopStretch string s := rfl
@[simp] theorem exec_droopEnd (string : Nat) (s : State) : exec (.droopEnd string) s = execDroopEnd string s := rfl
@[simp] theorem exec_eccUncorrectable (key : Nat) (pa : DWord) (s : State) : exec (.eccUncorrectable key pa) s = execEccUncorrectable key pa s := rfl
@[simp] theorem exec_flitReplay (port : Nat) (s : State) : exec (.flitReplay port) s = execFlitReplay port s := rfl
@[simp] theorem exec_portRetrain (port : Nat) (s : State) : exec (.portRetrain port) s = execPortRetrain port s := rfl
@[simp] theorem exec_portDown (port : Nat) (s : State) : exec (.portDown port) s = execPortDown port s := rfl
@[simp] theorem exec_permitRetry (key : Nat) (slotB : Bool) (s : State) : exec (.permitRetry key slotB) s = execPermitRetry key slotB s := rfl
@[simp] theorem exec_asyncTrapTake (key : Nat) (s : State) : exec (.asyncTrapTake key) s = execAsyncTrapTake key s := rfl
@[simp] theorem exec_preemptVictim (team : Nat) (s : State) : exec (.preemptVictim team) s = execPreemptVictim team s := rfl
@[simp] theorem exec_drainTimeout (team : Nat) (s : State) : exec (.drainTimeout team) s = execDrainTimeout team s := rfl
@[simp] theorem exec_retake (team : Nat) (s : State) : exec (.retake team) s = execRetake team s := rfl
@[simp] theorem exec_save (team : Nat) (s : State) : exec (.save team) s = execSave team s := rfl
@[simp] theorem exec_restore (team : Nat) (s : State) : exec (.restore team) s = execRestore team s := rfl
@[simp] theorem exec_linkAccess (use : LinkUse) (size : Nat) (pa : DWord) (data : DWord) (s : State) : exec (.linkAccess use size pa data) s = execLinkAccess use size pa data s := rfl
@[simp] theorem exec_loadDataArrival (key : Nat) (s : State) : exec (.loadDataArrival key) s = execLoadDataArrival key s := rfl
@[simp] theorem exec_unassignedOpcode (w : DWord) (s : State) : exec (.unassignedOpcode w) s = execUnassignedOpcode w s := rfl
@[simp] theorem exec_attestationReport (s : State) : exec (.attestationReport) s = execAttestationReport s := rfl
@[simp] theorem exec_csctlArm (s : State) : exec (.csctlArm) s = execCsctlArm s := rfl
@[simp] theorem exec_csctlDisarm (s : State) : exec (.csctlDisarm) s = execCsctlDisarm s := rfl
@[simp] theorem exec_queueSwitch (s : State) : exec (.queueSwitch) s = execQueueSwitch s := rfl
@[simp] theorem exec_dealChunk (s : State) : exec (.dealChunk) s = execDealChunk s := rfl
@[simp] theorem exec_callSheetSwap (s : State) : exec (.callSheetSwap) s = execCallSheetSwap s := rfl
@[simp] theorem exec_viewActivate (s : State) : exec (.viewActivate) s = execViewActivate s := rfl
@[simp] theorem exec_caplvlLower (s : State) : exec (.caplvlLower) s = execCaplvlLower s := rfl
@[simp] theorem exec_caplvlRaise (s : State) : exec (.caplvlRaise) s = execCaplvlRaise s := rfl
@[simp] theorem exec_sramTrim (s : State) : exec (.sramTrim) s = execSramTrim s := rfl
@[simp] theorem exec_sramHoldEnd (s : State) : exec (.sramHoldEnd) s = execSramHoldEnd s := rfl
@[simp] theorem exec_eolRecompute (s : State) : exec (.eolRecompute) s = execEolRecompute s := rfl
@[simp] theorem exec_deviceReset (s : State) : exec (.deviceReset) s = execDeviceReset s := rfl
@[simp] theorem exec_firmwareVerify (s : State) : exec (.firmwareVerify) s = execFirmwareVerify s := rfl
@[simp] theorem exec_fetchFault (s : State) : exec (.fetchFault) s = execFetchFault s := rfl
@[simp] theorem exec_join (s : State) : exec (.join) s = execJoin s := rfl
@[simp] theorem exec_tret (s : State) : exec (.tret) s = execTret s := rfl
@[simp] theorem exec_yield (s : State) : exec (.yield) s = execYield s := rfl

end Sys2Proof.Machine
end

