-- ==== Sys2Proof/Laws/State.lean ====
section
/-! SUPPORT. What each update of a state or a group leaves as it was: one lemma per field and update, true by computation. -/

namespace Sys2Proof.Machine

/-! ## State.setGroup -/

@[simp] theorem State.setGroup_mem (s : State) (k : Nat) (x : Group) : (s.setGroup k x).mem = s.mem := rfl
@[simp] theorem State.setGroup_routes (s : State) (k : Nat) (x : Group) : (s.setGroup k x).routes = s.routes := rfl
@[simp] theorem State.setGroup_teams (s : State) (k : Nat) (x : Group) : (s.setGroup k x).teams = s.teams := rfl
@[simp] theorem State.setGroup_cores (s : State) (k : Nat) (x : Group) : (s.setGroup k x).cores = s.cores := rfl
@[simp] theorem State.setGroup_strands (s : State) (k : Nat) (x : Group) : (s.setGroup k x).strands = s.strands := rfl
@[simp] theorem State.setGroup_idleCycles (s : State) (k : Nat) (x : Group) : (s.setGroup k x).idleCycles = s.idleCycles := rfl
@[simp] theorem State.setGroup_idlePhase (s : State) (k : Nat) (x : Group) : (s.setGroup k x).idlePhase = s.idlePhase := rfl
@[simp] theorem State.setGroup_time (s : State) (k : Nat) (x : Group) : (s.setGroup k x).time = s.time := rfl
@[simp] theorem State.setGroup_uptime (s : State) (k : Nat) (x : Group) : (s.setGroup k x).uptime = s.uptime := rfl
@[simp] theorem State.setGroup_timeFrac (s : State) (k : Nat) (x : Group) : (s.setGroup k x).timeFrac = s.timeFrac := rfl
@[simp] theorem State.setGroup_timerate (s : State) (k : Nat) (x : Group) : (s.setGroup k x).timerate = s.timerate := rfl
@[simp] theorem State.setGroup_csr (s : State) (k : Nat) (x : Group) : (s.setGroup k x).csr = s.csr := rfl
@[simp] theorem State.setGroup_perfceil (s : State) (k : Nat) (x : Group) : (s.setGroup k x).perfceil = s.perfceil := rfl
@[simp] theorem State.setGroup_tlb2 (s : State) (k : Nat) (x : Group) : (s.setGroup k x).tlb2 = s.tlb2 := rfl
@[simp] theorem State.setGroup_l2 (s : State) (k : Nat) (x : Group) : (s.setGroup k x).l2 = s.l2 := rfl
@[simp] theorem State.setGroup_resident (s : State) (k : Nat) (x : Group) : (s.setGroup k x).resident = s.resident := rfl
@[simp] theorem State.setGroup_retired (s : State) (k : Nat) (x : Group) : (s.setGroup k x).retired = s.retired := rfl
@[simp] theorem State.setGroup_progressRead (s : State) (k : Nat) (x : Group) : (s.setGroup k x).progressRead = s.progressRead := rfl
@[simp] theorem State.setGroup_grids (s : State) (k : Nat) (x : Group) : (s.setGroup k x).grids = s.grids := rfl
@[simp] theorem State.setGroup_ahead (s : State) (k : Nat) (x : Group) : (s.setGroup k x).ahead = s.ahead := rfl
@[simp] theorem State.setGroup_pending (s : State) (k : Nat) (x : Group) : (s.setGroup k x).pending = s.pending := rfl
@[simp] theorem State.setGroup_kept (s : State) (k : Nat) (x : Group) : (s.setGroup k x).kept = s.kept := rfl
@[simp] theorem State.setGroup_rrSwitch (s : State) (k : Nat) (x : Group) : (s.setGroup k x).rrSwitch = s.rrSwitch := rfl
@[simp] theorem State.setGroup_rrDeal (s : State) (k : Nat) (x : Group) : (s.setGroup k x).rrDeal = s.rrDeal := rfl
@[simp] theorem State.setGroup_nextTeam (s : State) (k : Nat) (x : Group) : (s.setGroup k x).nextTeam = s.nextTeam := rfl
@[simp] theorem State.setGroup_sheet (s : State) (k : Nat) (x : Group) : (s.setGroup k x).sheet = s.sheet := rfl
@[simp] theorem State.setGroup_sheetChange (s : State) (k : Nat) (x : Group) : (s.setGroup k x).sheetChange = s.sheetChange := rfl
@[simp] theorem State.setGroup_deferred (s : State) (k : Nat) (x : Group) : (s.setGroup k x).deferred = s.deferred := rfl
@[simp] theorem State.setGroup_urgentCards (s : State) (k : Nat) (x : Group) : (s.setGroup k x).urgentCards = s.urgentCards := rfl
@[simp] theorem State.setGroup_views (s : State) (k : Nat) (x : Group) : (s.setGroup k x).views = s.views := rfl
@[simp] theorem State.setGroup_nextView (s : State) (k : Nat) (x : Group) : (s.setGroup k x).nextView = s.nextView := rfl
@[simp] theorem State.setGroup_bins (s : State) (k : Nat) (x : Group) : (s.setGroup k x).bins = s.bins := rfl
@[simp] theorem State.setGroup_launches (s : State) (k : Nat) (x : Group) : (s.setGroup k x).launches = s.launches := rfl
@[simp] theorem State.setGroup_nextLaunch (s : State) (k : Nat) (x : Group) : (s.setGroup k x).nextLaunch = s.nextLaunch := rfl
@[simp] theorem State.setGroup_poolSeq (s : State) (k : Nat) (x : Group) : (s.setGroup k x).poolSeq = s.poolSeq := rfl
@[simp] theorem State.setGroup_rays (s : State) (k : Nat) (x : Group) : (s.setGroup k x).rays = s.rays := rfl
@[simp] theorem State.setGroup_monitors (s : State) (k : Nat) (x : Group) : (s.setGroup k x).monitors = s.monitors := rfl
@[simp] theorem State.setGroup_drains (s : State) (k : Nat) (x : Group) : (s.setGroup k x).drains = s.drains := rfl
@[simp] theorem State.setGroup_sequences (s : State) (k : Nat) (x : Group) : (s.setGroup k x).sequences = s.sequences := rfl
@[simp] theorem State.setGroup_nextDrain (s : State) (k : Nat) (x : Group) : (s.setGroup k x).nextDrain = s.nextDrain := rfl
@[simp] theorem State.setGroup_images (s : State) (k : Nat) (x : Group) : (s.setGroup k x).images = s.images := rfl
@[simp] theorem State.setGroup_capLvl (s : State) (k : Nat) (x : Group) : (s.setGroup k x).capLvl = s.capLvl := rfl
@[simp] theorem State.setGroup_capAt (s : State) (k : Nat) (x : Group) : (s.setGroup k x).capAt = s.capAt := rfl
@[simp] theorem State.setGroup_trimAt (s : State) (k : Nat) (x : Group) : (s.setGroup k x).trimAt = s.trimAt := rfl
@[simp] theorem State.setGroup_eolAt (s : State) (k : Nat) (x : Group) : (s.setGroup k x).eolAt = s.eolAt := rfl
@[simp] theorem State.setGroup_sramHold (s : State) (k : Nat) (x : Group) : (s.setGroup k x).sramHold = s.sramHold := rfl
@[simp] theorem State.setGroup_ports (s : State) (k : Nat) (x : Group) : (s.setGroup k x).ports = s.ports := rfl
@[simp] theorem State.setGroup_linkLost (s : State) (k : Nat) (x : Group) : (s.setGroup k x).linkLost = s.linkLost := rfl
@[simp] theorem State.setGroup_boot (s : State) (k : Nat) (x : Group) : (s.setGroup k x).boot = s.boot := rfl
@[simp] theorem State.setGroup_svn (s : State) (k : Nat) (x : Group) : (s.setGroup k x).svn = s.svn := rfl
@[simp] theorem State.setGroup_measurement (s : State) (k : Nat) (x : Group) : (s.setGroup k x).measurement = s.measurement := rfl
@[simp] theorem State.setGroup_minSvn (s : State) (k : Nat) (x : Group) : (s.setGroup k x).minSvn = s.minSvn := rfl
@[simp] theorem State.setGroup_fwload (s : State) (k : Nat) (x : Group) : (s.setGroup k x).fwload = s.fwload := rfl
@[simp] theorem State.setGroup_attreq (s : State) (k : Nat) (x : Group) : (s.setGroup k x).attreq = s.attreq := rfl
@[simp] theorem State.setGroup_hostReply (s : State) (k : Nat) (x : Group) : (s.setGroup k x).hostReply = s.hostReply := rfl
@[simp] theorem State.setGroup_timestamps (s : State) (k : Nat) (x : Group) : (s.setGroup k x).timestamps = s.timestamps := rfl
@[simp] theorem State.setGroup_forwarded (s : State) (k : Nat) (x : Group) : (s.setGroup k x).forwarded = s.forwarded := rfl
@[simp] theorem State.setGroup_agenda (s : State) (k : Nat) (x : Group) : (s.setGroup k x).agenda = s.agenda := rfl
@[simp] theorem State.setGroup_turn (s : State) (k : Nat) (x : Group) : (s.setGroup k x).turn = s.turn := rfl
@[simp] theorem State.setGroup_issuer (s : State) (k : Nat) (x : Group) : (s.setGroup k x).issuer = s.issuer := rfl
@[simp] theorem State.setGroup_slotB (s : State) (k : Nat) (x : Group) : (s.setGroup k x).slotB = s.slotB := rfl
@[simp] theorem State.setGroup_fresh (s : State) (k : Nat) (x : Group) : (s.setGroup k x).fresh = s.fresh := rfl
@[simp] theorem State.setGroup_badData (s : State) (k : Nat) (x : Group) : (s.setGroup k x).badData = s.badData := rfl

/-! ## State.dropGroup -/

@[simp] theorem State.dropGroup_mem (s : State) (k : Nat) : (s.dropGroup k).mem = s.mem := rfl
@[simp] theorem State.dropGroup_routes (s : State) (k : Nat) : (s.dropGroup k).routes = s.routes := rfl
@[simp] theorem State.dropGroup_teams (s : State) (k : Nat) : (s.dropGroup k).teams = s.teams := rfl
@[simp] theorem State.dropGroup_cores (s : State) (k : Nat) : (s.dropGroup k).cores = s.cores := rfl
@[simp] theorem State.dropGroup_strands (s : State) (k : Nat) : (s.dropGroup k).strands = s.strands := rfl
@[simp] theorem State.dropGroup_idleCycles (s : State) (k : Nat) : (s.dropGroup k).idleCycles = s.idleCycles := rfl
@[simp] theorem State.dropGroup_idlePhase (s : State) (k : Nat) : (s.dropGroup k).idlePhase = s.idlePhase := rfl
@[simp] theorem State.dropGroup_time (s : State) (k : Nat) : (s.dropGroup k).time = s.time := rfl
@[simp] theorem State.dropGroup_uptime (s : State) (k : Nat) : (s.dropGroup k).uptime = s.uptime := rfl
@[simp] theorem State.dropGroup_timeFrac (s : State) (k : Nat) : (s.dropGroup k).timeFrac = s.timeFrac := rfl
@[simp] theorem State.dropGroup_timerate (s : State) (k : Nat) : (s.dropGroup k).timerate = s.timerate := rfl
@[simp] theorem State.dropGroup_csr (s : State) (k : Nat) : (s.dropGroup k).csr = s.csr := rfl
@[simp] theorem State.dropGroup_perfceil (s : State) (k : Nat) : (s.dropGroup k).perfceil = s.perfceil := rfl
@[simp] theorem State.dropGroup_tlb2 (s : State) (k : Nat) : (s.dropGroup k).tlb2 = s.tlb2 := rfl
@[simp] theorem State.dropGroup_l2 (s : State) (k : Nat) : (s.dropGroup k).l2 = s.l2 := rfl
@[simp] theorem State.dropGroup_resident (s : State) (k : Nat) : (s.dropGroup k).resident = s.resident := rfl
@[simp] theorem State.dropGroup_retired (s : State) (k : Nat) : (s.dropGroup k).retired = s.retired := rfl
@[simp] theorem State.dropGroup_progressRead (s : State) (k : Nat) : (s.dropGroup k).progressRead = s.progressRead := rfl
@[simp] theorem State.dropGroup_grids (s : State) (k : Nat) : (s.dropGroup k).grids = s.grids := rfl
@[simp] theorem State.dropGroup_ahead (s : State) (k : Nat) : (s.dropGroup k).ahead = s.ahead := rfl
@[simp] theorem State.dropGroup_pending (s : State) (k : Nat) : (s.dropGroup k).pending = s.pending := rfl
@[simp] theorem State.dropGroup_kept (s : State) (k : Nat) : (s.dropGroup k).kept = s.kept := rfl
@[simp] theorem State.dropGroup_rrSwitch (s : State) (k : Nat) : (s.dropGroup k).rrSwitch = s.rrSwitch := rfl
@[simp] theorem State.dropGroup_rrDeal (s : State) (k : Nat) : (s.dropGroup k).rrDeal = s.rrDeal := rfl
@[simp] theorem State.dropGroup_nextTeam (s : State) (k : Nat) : (s.dropGroup k).nextTeam = s.nextTeam := rfl
@[simp] theorem State.dropGroup_sheet (s : State) (k : Nat) : (s.dropGroup k).sheet = s.sheet := rfl
@[simp] theorem State.dropGroup_sheetChange (s : State) (k : Nat) : (s.dropGroup k).sheetChange = s.sheetChange := rfl
@[simp] theorem State.dropGroup_deferred (s : State) (k : Nat) : (s.dropGroup k).deferred = s.deferred := rfl
@[simp] theorem State.dropGroup_urgentCards (s : State) (k : Nat) : (s.dropGroup k).urgentCards = s.urgentCards := rfl
@[simp] theorem State.dropGroup_views (s : State) (k : Nat) : (s.dropGroup k).views = s.views := rfl
@[simp] theorem State.dropGroup_nextView (s : State) (k : Nat) : (s.dropGroup k).nextView = s.nextView := rfl
@[simp] theorem State.dropGroup_bins (s : State) (k : Nat) : (s.dropGroup k).bins = s.bins := rfl
@[simp] theorem State.dropGroup_launches (s : State) (k : Nat) : (s.dropGroup k).launches = s.launches := rfl
@[simp] theorem State.dropGroup_nextLaunch (s : State) (k : Nat) : (s.dropGroup k).nextLaunch = s.nextLaunch := rfl
@[simp] theorem State.dropGroup_poolSeq (s : State) (k : Nat) : (s.dropGroup k).poolSeq = s.poolSeq := rfl
@[simp] theorem State.dropGroup_rays (s : State) (k : Nat) : (s.dropGroup k).rays = s.rays := rfl
@[simp] theorem State.dropGroup_monitors (s : State) (k : Nat) : (s.dropGroup k).monitors = s.monitors := rfl
@[simp] theorem State.dropGroup_drains (s : State) (k : Nat) : (s.dropGroup k).drains = s.drains := rfl
@[simp] theorem State.dropGroup_sequences (s : State) (k : Nat) : (s.dropGroup k).sequences = s.sequences := rfl
@[simp] theorem State.dropGroup_nextDrain (s : State) (k : Nat) : (s.dropGroup k).nextDrain = s.nextDrain := rfl
@[simp] theorem State.dropGroup_images (s : State) (k : Nat) : (s.dropGroup k).images = s.images := rfl
@[simp] theorem State.dropGroup_capLvl (s : State) (k : Nat) : (s.dropGroup k).capLvl = s.capLvl := rfl
@[simp] theorem State.dropGroup_capAt (s : State) (k : Nat) : (s.dropGroup k).capAt = s.capAt := rfl
@[simp] theorem State.dropGroup_trimAt (s : State) (k : Nat) : (s.dropGroup k).trimAt = s.trimAt := rfl
@[simp] theorem State.dropGroup_eolAt (s : State) (k : Nat) : (s.dropGroup k).eolAt = s.eolAt := rfl
@[simp] theorem State.dropGroup_sramHold (s : State) (k : Nat) : (s.dropGroup k).sramHold = s.sramHold := rfl
@[simp] theorem State.dropGroup_ports (s : State) (k : Nat) : (s.dropGroup k).ports = s.ports := rfl
@[simp] theorem State.dropGroup_linkLost (s : State) (k : Nat) : (s.dropGroup k).linkLost = s.linkLost := rfl
@[simp] theorem State.dropGroup_boot (s : State) (k : Nat) : (s.dropGroup k).boot = s.boot := rfl
@[simp] theorem State.dropGroup_svn (s : State) (k : Nat) : (s.dropGroup k).svn = s.svn := rfl
@[simp] theorem State.dropGroup_measurement (s : State) (k : Nat) : (s.dropGroup k).measurement = s.measurement := rfl
@[simp] theorem State.dropGroup_minSvn (s : State) (k : Nat) : (s.dropGroup k).minSvn = s.minSvn := rfl
@[simp] theorem State.dropGroup_fwload (s : State) (k : Nat) : (s.dropGroup k).fwload = s.fwload := rfl
@[simp] theorem State.dropGroup_attreq (s : State) (k : Nat) : (s.dropGroup k).attreq = s.attreq := rfl
@[simp] theorem State.dropGroup_hostReply (s : State) (k : Nat) : (s.dropGroup k).hostReply = s.hostReply := rfl
@[simp] theorem State.dropGroup_timestamps (s : State) (k : Nat) : (s.dropGroup k).timestamps = s.timestamps := rfl
@[simp] theorem State.dropGroup_forwarded (s : State) (k : Nat) : (s.dropGroup k).forwarded = s.forwarded := rfl
@[simp] theorem State.dropGroup_agenda (s : State) (k : Nat) : (s.dropGroup k).agenda = s.agenda := rfl
@[simp] theorem State.dropGroup_turn (s : State) (k : Nat) : (s.dropGroup k).turn = s.turn := rfl
@[simp] theorem State.dropGroup_issuer (s : State) (k : Nat) : (s.dropGroup k).issuer = s.issuer := rfl
@[simp] theorem State.dropGroup_slotB (s : State) (k : Nat) : (s.dropGroup k).slotB = s.slotB := rfl
@[simp] theorem State.dropGroup_fresh (s : State) (k : Nat) : (s.dropGroup k).fresh = s.fresh := rfl
@[simp] theorem State.dropGroup_badData (s : State) (k : Nat) : (s.dropGroup k).badData = s.badData := rfl

/-! ## State.setTeam -/

@[simp] theorem State.setTeam_mem (s : State) (k : Nat) (x : Team) : (s.setTeam k x).mem = s.mem := rfl
@[simp] theorem State.setTeam_routes (s : State) (k : Nat) (x : Team) : (s.setTeam k x).routes = s.routes := rfl
@[simp] theorem State.setTeam_groups (s : State) (k : Nat) (x : Team) : (s.setTeam k x).groups = s.groups := rfl
@[simp] theorem State.setTeam_cores (s : State) (k : Nat) (x : Team) : (s.setTeam k x).cores = s.cores := rfl
@[simp] theorem State.setTeam_strands (s : State) (k : Nat) (x : Team) : (s.setTeam k x).strands = s.strands := rfl
@[simp] theorem State.setTeam_idleCycles (s : State) (k : Nat) (x : Team) : (s.setTeam k x).idleCycles = s.idleCycles := rfl
@[simp] theorem State.setTeam_idlePhase (s : State) (k : Nat) (x : Team) : (s.setTeam k x).idlePhase = s.idlePhase := rfl
@[simp] theorem State.setTeam_time (s : State) (k : Nat) (x : Team) : (s.setTeam k x).time = s.time := rfl
@[simp] theorem State.setTeam_uptime (s : State) (k : Nat) (x : Team) : (s.setTeam k x).uptime = s.uptime := rfl
@[simp] theorem State.setTeam_timeFrac (s : State) (k : Nat) (x : Team) : (s.setTeam k x).timeFrac = s.timeFrac := rfl
@[simp] theorem State.setTeam_timerate (s : State) (k : Nat) (x : Team) : (s.setTeam k x).timerate = s.timerate := rfl
@[simp] theorem State.setTeam_csr (s : State) (k : Nat) (x : Team) : (s.setTeam k x).csr = s.csr := rfl
@[simp] theorem State.setTeam_perfceil (s : State) (k : Nat) (x : Team) : (s.setTeam k x).perfceil = s.perfceil := rfl
@[simp] theorem State.setTeam_tlb2 (s : State) (k : Nat) (x : Team) : (s.setTeam k x).tlb2 = s.tlb2 := rfl
@[simp] theorem State.setTeam_l2 (s : State) (k : Nat) (x : Team) : (s.setTeam k x).l2 = s.l2 := rfl
@[simp] theorem State.setTeam_resident (s : State) (k : Nat) (x : Team) : (s.setTeam k x).resident = s.resident := rfl
@[simp] theorem State.setTeam_retired (s : State) (k : Nat) (x : Team) : (s.setTeam k x).retired = s.retired := rfl
@[simp] theorem State.setTeam_progressRead (s : State) (k : Nat) (x : Team) : (s.setTeam k x).progressRead = s.progressRead := rfl
@[simp] theorem State.setTeam_grids (s : State) (k : Nat) (x : Team) : (s.setTeam k x).grids = s.grids := rfl
@[simp] theorem State.setTeam_ahead (s : State) (k : Nat) (x : Team) : (s.setTeam k x).ahead = s.ahead := rfl
@[simp] theorem State.setTeam_pending (s : State) (k : Nat) (x : Team) : (s.setTeam k x).pending = s.pending := rfl
@[simp] theorem State.setTeam_kept (s : State) (k : Nat) (x : Team) : (s.setTeam k x).kept = s.kept := rfl
@[simp] theorem State.setTeam_rrSwitch (s : State) (k : Nat) (x : Team) : (s.setTeam k x).rrSwitch = s.rrSwitch := rfl
@[simp] theorem State.setTeam_rrDeal (s : State) (k : Nat) (x : Team) : (s.setTeam k x).rrDeal = s.rrDeal := rfl
@[simp] theorem State.setTeam_nextTeam (s : State) (k : Nat) (x : Team) : (s.setTeam k x).nextTeam = s.nextTeam := rfl
@[simp] theorem State.setTeam_sheet (s : State) (k : Nat) (x : Team) : (s.setTeam k x).sheet = s.sheet := rfl
@[simp] theorem State.setTeam_sheetChange (s : State) (k : Nat) (x : Team) : (s.setTeam k x).sheetChange = s.sheetChange := rfl
@[simp] theorem State.setTeam_deferred (s : State) (k : Nat) (x : Team) : (s.setTeam k x).deferred = s.deferred := rfl
@[simp] theorem State.setTeam_urgentCards (s : State) (k : Nat) (x : Team) : (s.setTeam k x).urgentCards = s.urgentCards := rfl
@[simp] theorem State.setTeam_views (s : State) (k : Nat) (x : Team) : (s.setTeam k x).views = s.views := rfl
@[simp] theorem State.setTeam_nextView (s : State) (k : Nat) (x : Team) : (s.setTeam k x).nextView = s.nextView := rfl
@[simp] theorem State.setTeam_bins (s : State) (k : Nat) (x : Team) : (s.setTeam k x).bins = s.bins := rfl
@[simp] theorem State.setTeam_launches (s : State) (k : Nat) (x : Team) : (s.setTeam k x).launches = s.launches := rfl
@[simp] theorem State.setTeam_nextLaunch (s : State) (k : Nat) (x : Team) : (s.setTeam k x).nextLaunch = s.nextLaunch := rfl
@[simp] theorem State.setTeam_poolSeq (s : State) (k : Nat) (x : Team) : (s.setTeam k x).poolSeq = s.poolSeq := rfl
@[simp] theorem State.setTeam_rays (s : State) (k : Nat) (x : Team) : (s.setTeam k x).rays = s.rays := rfl
@[simp] theorem State.setTeam_monitors (s : State) (k : Nat) (x : Team) : (s.setTeam k x).monitors = s.monitors := rfl
@[simp] theorem State.setTeam_drains (s : State) (k : Nat) (x : Team) : (s.setTeam k x).drains = s.drains := rfl
@[simp] theorem State.setTeam_sequences (s : State) (k : Nat) (x : Team) : (s.setTeam k x).sequences = s.sequences := rfl
@[simp] theorem State.setTeam_nextDrain (s : State) (k : Nat) (x : Team) : (s.setTeam k x).nextDrain = s.nextDrain := rfl
@[simp] theorem State.setTeam_images (s : State) (k : Nat) (x : Team) : (s.setTeam k x).images = s.images := rfl
@[simp] theorem State.setTeam_capLvl (s : State) (k : Nat) (x : Team) : (s.setTeam k x).capLvl = s.capLvl := rfl
@[simp] theorem State.setTeam_capAt (s : State) (k : Nat) (x : Team) : (s.setTeam k x).capAt = s.capAt := rfl
@[simp] theorem State.setTeam_trimAt (s : State) (k : Nat) (x : Team) : (s.setTeam k x).trimAt = s.trimAt := rfl
@[simp] theorem State.setTeam_eolAt (s : State) (k : Nat) (x : Team) : (s.setTeam k x).eolAt = s.eolAt := rfl
@[simp] theorem State.setTeam_sramHold (s : State) (k : Nat) (x : Team) : (s.setTeam k x).sramHold = s.sramHold := rfl
@[simp] theorem State.setTeam_ports (s : State) (k : Nat) (x : Team) : (s.setTeam k x).ports = s.ports := rfl
@[simp] theorem State.setTeam_linkLost (s : State) (k : Nat) (x : Team) : (s.setTeam k x).linkLost = s.linkLost := rfl
@[simp] theorem State.setTeam_boot (s : State) (k : Nat) (x : Team) : (s.setTeam k x).boot = s.boot := rfl
@[simp] theorem State.setTeam_svn (s : State) (k : Nat) (x : Team) : (s.setTeam k x).svn = s.svn := rfl
@[simp] theorem State.setTeam_measurement (s : State) (k : Nat) (x : Team) : (s.setTeam k x).measurement = s.measurement := rfl
@[simp] theorem State.setTeam_minSvn (s : State) (k : Nat) (x : Team) : (s.setTeam k x).minSvn = s.minSvn := rfl
@[simp] theorem State.setTeam_fwload (s : State) (k : Nat) (x : Team) : (s.setTeam k x).fwload = s.fwload := rfl
@[simp] theorem State.setTeam_attreq (s : State) (k : Nat) (x : Team) : (s.setTeam k x).attreq = s.attreq := rfl
@[simp] theorem State.setTeam_hostReply (s : State) (k : Nat) (x : Team) : (s.setTeam k x).hostReply = s.hostReply := rfl
@[simp] theorem State.setTeam_timestamps (s : State) (k : Nat) (x : Team) : (s.setTeam k x).timestamps = s.timestamps := rfl
@[simp] theorem State.setTeam_forwarded (s : State) (k : Nat) (x : Team) : (s.setTeam k x).forwarded = s.forwarded := rfl
@[simp] theorem State.setTeam_agenda (s : State) (k : Nat) (x : Team) : (s.setTeam k x).agenda = s.agenda := rfl
@[simp] theorem State.setTeam_turn (s : State) (k : Nat) (x : Team) : (s.setTeam k x).turn = s.turn := rfl
@[simp] theorem State.setTeam_issuer (s : State) (k : Nat) (x : Team) : (s.setTeam k x).issuer = s.issuer := rfl
@[simp] theorem State.setTeam_slotB (s : State) (k : Nat) (x : Team) : (s.setTeam k x).slotB = s.slotB := rfl
@[simp] theorem State.setTeam_fresh (s : State) (k : Nat) (x : Team) : (s.setTeam k x).fresh = s.fresh := rfl
@[simp] theorem State.setTeam_badData (s : State) (k : Nat) (x : Team) : (s.setTeam k x).badData = s.badData := rfl

/-! ## State.setCore -/

@[simp] theorem State.setCore_mem (s : State) (k : Nat) (x : Core) : (s.setCore k x).mem = s.mem := rfl
@[simp] theorem State.setCore_routes (s : State) (k : Nat) (x : Core) : (s.setCore k x).routes = s.routes := rfl
@[simp] theorem State.setCore_groups (s : State) (k : Nat) (x : Core) : (s.setCore k x).groups = s.groups := rfl
@[simp] theorem State.setCore_teams (s : State) (k : Nat) (x : Core) : (s.setCore k x).teams = s.teams := rfl
@[simp] theorem State.setCore_strands (s : State) (k : Nat) (x : Core) : (s.setCore k x).strands = s.strands := rfl
@[simp] theorem State.setCore_idleCycles (s : State) (k : Nat) (x : Core) : (s.setCore k x).idleCycles = s.idleCycles := rfl
@[simp] theorem State.setCore_idlePhase (s : State) (k : Nat) (x : Core) : (s.setCore k x).idlePhase = s.idlePhase := rfl
@[simp] theorem State.setCore_time (s : State) (k : Nat) (x : Core) : (s.setCore k x).time = s.time := rfl
@[simp] theorem State.setCore_uptime (s : State) (k : Nat) (x : Core) : (s.setCore k x).uptime = s.uptime := rfl
@[simp] theorem State.setCore_timeFrac (s : State) (k : Nat) (x : Core) : (s.setCore k x).timeFrac = s.timeFrac := rfl
@[simp] theorem State.setCore_timerate (s : State) (k : Nat) (x : Core) : (s.setCore k x).timerate = s.timerate := rfl
@[simp] theorem State.setCore_csr (s : State) (k : Nat) (x : Core) : (s.setCore k x).csr = s.csr := rfl
@[simp] theorem State.setCore_perfceil (s : State) (k : Nat) (x : Core) : (s.setCore k x).perfceil = s.perfceil := rfl
@[simp] theorem State.setCore_tlb2 (s : State) (k : Nat) (x : Core) : (s.setCore k x).tlb2 = s.tlb2 := rfl
@[simp] theorem State.setCore_l2 (s : State) (k : Nat) (x : Core) : (s.setCore k x).l2 = s.l2 := rfl
@[simp] theorem State.setCore_resident (s : State) (k : Nat) (x : Core) : (s.setCore k x).resident = s.resident := rfl
@[simp] theorem State.setCore_retired (s : State) (k : Nat) (x : Core) : (s.setCore k x).retired = s.retired := rfl
@[simp] theorem State.setCore_progressRead (s : State) (k : Nat) (x : Core) : (s.setCore k x).progressRead = s.progressRead := rfl
@[simp] theorem State.setCore_grids (s : State) (k : Nat) (x : Core) : (s.setCore k x).grids = s.grids := rfl
@[simp] theorem State.setCore_ahead (s : State) (k : Nat) (x : Core) : (s.setCore k x).ahead = s.ahead := rfl
@[simp] theorem State.setCore_pending (s : State) (k : Nat) (x : Core) : (s.setCore k x).pending = s.pending := rfl
@[simp] theorem State.setCore_kept (s : State) (k : Nat) (x : Core) : (s.setCore k x).kept = s.kept := rfl
@[simp] theorem State.setCore_rrSwitch (s : State) (k : Nat) (x : Core) : (s.setCore k x).rrSwitch = s.rrSwitch := rfl
@[simp] theorem State.setCore_rrDeal (s : State) (k : Nat) (x : Core) : (s.setCore k x).rrDeal = s.rrDeal := rfl
@[simp] theorem State.setCore_nextTeam (s : State) (k : Nat) (x : Core) : (s.setCore k x).nextTeam = s.nextTeam := rfl
@[simp] theorem State.setCore_sheet (s : State) (k : Nat) (x : Core) : (s.setCore k x).sheet = s.sheet := rfl
@[simp] theorem State.setCore_sheetChange (s : State) (k : Nat) (x : Core) : (s.setCore k x).sheetChange = s.sheetChange := rfl
@[simp] theorem State.setCore_deferred (s : State) (k : Nat) (x : Core) : (s.setCore k x).deferred = s.deferred := rfl
@[simp] theorem State.setCore_urgentCards (s : State) (k : Nat) (x : Core) : (s.setCore k x).urgentCards = s.urgentCards := rfl
@[simp] theorem State.setCore_views (s : State) (k : Nat) (x : Core) : (s.setCore k x).views = s.views := rfl
@[simp] theorem State.setCore_nextView (s : State) (k : Nat) (x : Core) : (s.setCore k x).nextView = s.nextView := rfl
@[simp] theorem State.setCore_bins (s : State) (k : Nat) (x : Core) : (s.setCore k x).bins = s.bins := rfl
@[simp] theorem State.setCore_launches (s : State) (k : Nat) (x : Core) : (s.setCore k x).launches = s.launches := rfl
@[simp] theorem State.setCore_nextLaunch (s : State) (k : Nat) (x : Core) : (s.setCore k x).nextLaunch = s.nextLaunch := rfl
@[simp] theorem State.setCore_poolSeq (s : State) (k : Nat) (x : Core) : (s.setCore k x).poolSeq = s.poolSeq := rfl
@[simp] theorem State.setCore_rays (s : State) (k : Nat) (x : Core) : (s.setCore k x).rays = s.rays := rfl
@[simp] theorem State.setCore_monitors (s : State) (k : Nat) (x : Core) : (s.setCore k x).monitors = s.monitors := rfl
@[simp] theorem State.setCore_drains (s : State) (k : Nat) (x : Core) : (s.setCore k x).drains = s.drains := rfl
@[simp] theorem State.setCore_sequences (s : State) (k : Nat) (x : Core) : (s.setCore k x).sequences = s.sequences := rfl
@[simp] theorem State.setCore_nextDrain (s : State) (k : Nat) (x : Core) : (s.setCore k x).nextDrain = s.nextDrain := rfl
@[simp] theorem State.setCore_images (s : State) (k : Nat) (x : Core) : (s.setCore k x).images = s.images := rfl
@[simp] theorem State.setCore_capLvl (s : State) (k : Nat) (x : Core) : (s.setCore k x).capLvl = s.capLvl := rfl
@[simp] theorem State.setCore_capAt (s : State) (k : Nat) (x : Core) : (s.setCore k x).capAt = s.capAt := rfl
@[simp] theorem State.setCore_trimAt (s : State) (k : Nat) (x : Core) : (s.setCore k x).trimAt = s.trimAt := rfl
@[simp] theorem State.setCore_eolAt (s : State) (k : Nat) (x : Core) : (s.setCore k x).eolAt = s.eolAt := rfl
@[simp] theorem State.setCore_sramHold (s : State) (k : Nat) (x : Core) : (s.setCore k x).sramHold = s.sramHold := rfl
@[simp] theorem State.setCore_ports (s : State) (k : Nat) (x : Core) : (s.setCore k x).ports = s.ports := rfl
@[simp] theorem State.setCore_linkLost (s : State) (k : Nat) (x : Core) : (s.setCore k x).linkLost = s.linkLost := rfl
@[simp] theorem State.setCore_boot (s : State) (k : Nat) (x : Core) : (s.setCore k x).boot = s.boot := rfl
@[simp] theorem State.setCore_svn (s : State) (k : Nat) (x : Core) : (s.setCore k x).svn = s.svn := rfl
@[simp] theorem State.setCore_measurement (s : State) (k : Nat) (x : Core) : (s.setCore k x).measurement = s.measurement := rfl
@[simp] theorem State.setCore_minSvn (s : State) (k : Nat) (x : Core) : (s.setCore k x).minSvn = s.minSvn := rfl
@[simp] theorem State.setCore_fwload (s : State) (k : Nat) (x : Core) : (s.setCore k x).fwload = s.fwload := rfl
@[simp] theorem State.setCore_attreq (s : State) (k : Nat) (x : Core) : (s.setCore k x).attreq = s.attreq := rfl
@[simp] theorem State.setCore_hostReply (s : State) (k : Nat) (x : Core) : (s.setCore k x).hostReply = s.hostReply := rfl
@[simp] theorem State.setCore_timestamps (s : State) (k : Nat) (x : Core) : (s.setCore k x).timestamps = s.timestamps := rfl
@[simp] theorem State.setCore_forwarded (s : State) (k : Nat) (x : Core) : (s.setCore k x).forwarded = s.forwarded := rfl
@[simp] theorem State.setCore_agenda (s : State) (k : Nat) (x : Core) : (s.setCore k x).agenda = s.agenda := rfl
@[simp] theorem State.setCore_turn (s : State) (k : Nat) (x : Core) : (s.setCore k x).turn = s.turn := rfl
@[simp] theorem State.setCore_issuer (s : State) (k : Nat) (x : Core) : (s.setCore k x).issuer = s.issuer := rfl
@[simp] theorem State.setCore_slotB (s : State) (k : Nat) (x : Core) : (s.setCore k x).slotB = s.slotB := rfl
@[simp] theorem State.setCore_fresh (s : State) (k : Nat) (x : Core) : (s.setCore k x).fresh = s.fresh := rfl
@[simp] theorem State.setCore_badData (s : State) (k : Nat) (x : Core) : (s.setCore k x).badData = s.badData := rfl

/-! ## State.setStrand -/

@[simp] theorem State.setStrand_mem (s : State) (k : Nat) (x : Strand) : (s.setStrand k x).mem = s.mem := rfl
@[simp] theorem State.setStrand_routes (s : State) (k : Nat) (x : Strand) : (s.setStrand k x).routes = s.routes := rfl
@[simp] theorem State.setStrand_groups (s : State) (k : Nat) (x : Strand) : (s.setStrand k x).groups = s.groups := rfl
@[simp] theorem State.setStrand_teams (s : State) (k : Nat) (x : Strand) : (s.setStrand k x).teams = s.teams := rfl
@[simp] theorem State.setStrand_cores (s : State) (k : Nat) (x : Strand) : (s.setStrand k x).cores = s.cores := rfl
@[simp] theorem State.setStrand_idleCycles (s : State) (k : Nat) (x : Strand) : (s.setStrand k x).idleCycles = s.idleCycles := rfl
@[simp] theorem State.setStrand_idlePhase (s : State) (k : Nat) (x : Strand) : (s.setStrand k x).idlePhase = s.idlePhase := rfl
@[simp] theorem State.setStrand_time (s : State) (k : Nat) (x : Strand) : (s.setStrand k x).time = s.time := rfl
@[simp] theorem State.setStrand_uptime (s : State) (k : Nat) (x : Strand) : (s.setStrand k x).uptime = s.uptime := rfl
@[simp] theorem State.setStrand_timeFrac (s : State) (k : Nat) (x : Strand) : (s.setStrand k x).timeFrac = s.timeFrac := rfl
@[simp] theorem State.setStrand_timerate (s : State) (k : Nat) (x : Strand) : (s.setStrand k x).timerate = s.timerate := rfl
@[simp] theorem State.setStrand_csr (s : State) (k : Nat) (x : Strand) : (s.setStrand k x).csr = s.csr := rfl
@[simp] theorem State.setStrand_perfceil (s : State) (k : Nat) (x : Strand) : (s.setStrand k x).perfceil = s.perfceil := rfl
@[simp] theorem State.setStrand_tlb2 (s : State) (k : Nat) (x : Strand) : (s.setStrand k x).tlb2 = s.tlb2 := rfl
@[simp] theorem State.setStrand_l2 (s : State) (k : Nat) (x : Strand) : (s.setStrand k x).l2 = s.l2 := rfl
@[simp] theorem State.setStrand_resident (s : State) (k : Nat) (x : Strand) : (s.setStrand k x).resident = s.resident := rfl
@[simp] theorem State.setStrand_retired (s : State) (k : Nat) (x : Strand) : (s.setStrand k x).retired = s.retired := rfl
@[simp] theorem State.setStrand_progressRead (s : State) (k : Nat) (x : Strand) : (s.setStrand k x).progressRead = s.progressRead := rfl
@[simp] theorem State.setStrand_grids (s : State) (k : Nat) (x : Strand) : (s.setStrand k x).grids = s.grids := rfl
@[simp] theorem State.setStrand_ahead (s : State) (k : Nat) (x : Strand) : (s.setStrand k x).ahead = s.ahead := rfl
@[simp] theorem State.setStrand_pending (s : State) (k : Nat) (x : Strand) : (s.setStrand k x).pending = s.pending := rfl
@[simp] theorem State.setStrand_kept (s : State) (k : Nat) (x : Strand) : (s.setStrand k x).kept = s.kept := rfl
@[simp] theorem State.setStrand_rrSwitch (s : State) (k : Nat) (x : Strand) : (s.setStrand k x).rrSwitch = s.rrSwitch := rfl
@[simp] theorem State.setStrand_rrDeal (s : State) (k : Nat) (x : Strand) : (s.setStrand k x).rrDeal = s.rrDeal := rfl
@[simp] theorem State.setStrand_nextTeam (s : State) (k : Nat) (x : Strand) : (s.setStrand k x).nextTeam = s.nextTeam := rfl
@[simp] theorem State.setStrand_sheet (s : State) (k : Nat) (x : Strand) : (s.setStrand k x).sheet = s.sheet := rfl
@[simp] theorem State.setStrand_sheetChange (s : State) (k : Nat) (x : Strand) : (s.setStrand k x).sheetChange = s.sheetChange := rfl
@[simp] theorem State.setStrand_deferred (s : State) (k : Nat) (x : Strand) : (s.setStrand k x).deferred = s.deferred := rfl
@[simp] theorem State.setStrand_urgentCards (s : State) (k : Nat) (x : Strand) : (s.setStrand k x).urgentCards = s.urgentCards := rfl
@[simp] theorem State.setStrand_views (s : State) (k : Nat) (x : Strand) : (s.setStrand k x).views = s.views := rfl
@[simp] theorem State.setStrand_nextView (s : State) (k : Nat) (x : Strand) : (s.setStrand k x).nextView = s.nextView := rfl
@[simp] theorem State.setStrand_bins (s : State) (k : Nat) (x : Strand) : (s.setStrand k x).bins = s.bins := rfl
@[simp] theorem State.setStrand_launches (s : State) (k : Nat) (x : Strand) : (s.setStrand k x).launches = s.launches := rfl
@[simp] theorem State.setStrand_nextLaunch (s : State) (k : Nat) (x : Strand) : (s.setStrand k x).nextLaunch = s.nextLaunch := rfl
@[simp] theorem State.setStrand_poolSeq (s : State) (k : Nat) (x : Strand) : (s.setStrand k x).poolSeq = s.poolSeq := rfl
@[simp] theorem State.setStrand_rays (s : State) (k : Nat) (x : Strand) : (s.setStrand k x).rays = s.rays := rfl
@[simp] theorem State.setStrand_monitors (s : State) (k : Nat) (x : Strand) : (s.setStrand k x).monitors = s.monitors := rfl
@[simp] theorem State.setStrand_drains (s : State) (k : Nat) (x : Strand) : (s.setStrand k x).drains = s.drains := rfl
@[simp] theorem State.setStrand_sequences (s : State) (k : Nat) (x : Strand) : (s.setStrand k x).sequences = s.sequences := rfl
@[simp] theorem State.setStrand_nextDrain (s : State) (k : Nat) (x : Strand) : (s.setStrand k x).nextDrain = s.nextDrain := rfl
@[simp] theorem State.setStrand_images (s : State) (k : Nat) (x : Strand) : (s.setStrand k x).images = s.images := rfl
@[simp] theorem State.setStrand_capLvl (s : State) (k : Nat) (x : Strand) : (s.setStrand k x).capLvl = s.capLvl := rfl
@[simp] theorem State.setStrand_capAt (s : State) (k : Nat) (x : Strand) : (s.setStrand k x).capAt = s.capAt := rfl
@[simp] theorem State.setStrand_trimAt (s : State) (k : Nat) (x : Strand) : (s.setStrand k x).trimAt = s.trimAt := rfl
@[simp] theorem State.setStrand_eolAt (s : State) (k : Nat) (x : Strand) : (s.setStrand k x).eolAt = s.eolAt := rfl
@[simp] theorem State.setStrand_sramHold (s : State) (k : Nat) (x : Strand) : (s.setStrand k x).sramHold = s.sramHold := rfl
@[simp] theorem State.setStrand_ports (s : State) (k : Nat) (x : Strand) : (s.setStrand k x).ports = s.ports := rfl
@[simp] theorem State.setStrand_linkLost (s : State) (k : Nat) (x : Strand) : (s.setStrand k x).linkLost = s.linkLost := rfl
@[simp] theorem State.setStrand_boot (s : State) (k : Nat) (x : Strand) : (s.setStrand k x).boot = s.boot := rfl
@[simp] theorem State.setStrand_svn (s : State) (k : Nat) (x : Strand) : (s.setStrand k x).svn = s.svn := rfl
@[simp] theorem State.setStrand_measurement (s : State) (k : Nat) (x : Strand) : (s.setStrand k x).measurement = s.measurement := rfl
@[simp] theorem State.setStrand_minSvn (s : State) (k : Nat) (x : Strand) : (s.setStrand k x).minSvn = s.minSvn := rfl
@[simp] theorem State.setStrand_fwload (s : State) (k : Nat) (x : Strand) : (s.setStrand k x).fwload = s.fwload := rfl
@[simp] theorem State.setStrand_attreq (s : State) (k : Nat) (x : Strand) : (s.setStrand k x).attreq = s.attreq := rfl
@[simp] theorem State.setStrand_hostReply (s : State) (k : Nat) (x : Strand) : (s.setStrand k x).hostReply = s.hostReply := rfl
@[simp] theorem State.setStrand_timestamps (s : State) (k : Nat) (x : Strand) : (s.setStrand k x).timestamps = s.timestamps := rfl
@[simp] theorem State.setStrand_forwarded (s : State) (k : Nat) (x : Strand) : (s.setStrand k x).forwarded = s.forwarded := rfl
@[simp] theorem State.setStrand_agenda (s : State) (k : Nat) (x : Strand) : (s.setStrand k x).agenda = s.agenda := rfl
@[simp] theorem State.setStrand_turn (s : State) (k : Nat) (x : Strand) : (s.setStrand k x).turn = s.turn := rfl
@[simp] theorem State.setStrand_issuer (s : State) (k : Nat) (x : Strand) : (s.setStrand k x).issuer = s.issuer := rfl
@[simp] theorem State.setStrand_slotB (s : State) (k : Nat) (x : Strand) : (s.setStrand k x).slotB = s.slotB := rfl
@[simp] theorem State.setStrand_fresh (s : State) (k : Nat) (x : Strand) : (s.setStrand k x).fresh = s.fresh := rfl
@[simp] theorem State.setStrand_badData (s : State) (k : Nat) (x : Strand) : (s.setStrand k x).badData = s.badData := rfl

/-! ## State.modGroup -/

@[simp] theorem State.modGroup_mem (s : State) (k : Nat) (x : Group → Group) : (s.modGroup k x).mem = s.mem := by
  unfold State.modGroup; split <;> rfl
@[simp] theorem State.modGroup_routes (s : State) (k : Nat) (x : Group → Group) : (s.modGroup k x).routes = s.routes := by
  unfold State.modGroup; split <;> rfl
@[simp] theorem State.modGroup_teams (s : State) (k : Nat) (x : Group → Group) : (s.modGroup k x).teams = s.teams := by
  unfold State.modGroup; split <;> rfl
@[simp] theorem State.modGroup_cores (s : State) (k : Nat) (x : Group → Group) : (s.modGroup k x).cores = s.cores := by
  unfold State.modGroup; split <;> rfl
@[simp] theorem State.modGroup_strands (s : State) (k : Nat) (x : Group → Group) : (s.modGroup k x).strands = s.strands := by
  unfold State.modGroup; split <;> rfl
@[simp] theorem State.modGroup_idleCycles (s : State) (k : Nat) (x : Group → Group) : (s.modGroup k x).idleCycles = s.idleCycles := by
  unfold State.modGroup; split <;> rfl
@[simp] theorem State.modGroup_idlePhase (s : State) (k : Nat) (x : Group → Group) : (s.modGroup k x).idlePhase = s.idlePhase := by
  unfold State.modGroup; split <;> rfl
@[simp] theorem State.modGroup_time (s : State) (k : Nat) (x : Group → Group) : (s.modGroup k x).time = s.time := by
  unfold State.modGroup; split <;> rfl
@[simp] theorem State.modGroup_uptime (s : State) (k : Nat) (x : Group → Group) : (s.modGroup k x).uptime = s.uptime := by
  unfold State.modGroup; split <;> rfl
@[simp] theorem State.modGroup_timeFrac (s : State) (k : Nat) (x : Group → Group) : (s.modGroup k x).timeFrac = s.timeFrac := by
  unfold State.modGroup; split <;> rfl
@[simp] theorem State.modGroup_timerate (s : State) (k : Nat) (x : Group → Group) : (s.modGroup k x).timerate = s.timerate := by
  unfold State.modGroup; split <;> rfl
@[simp] theorem State.modGroup_csr (s : State) (k : Nat) (x : Group → Group) : (s.modGroup k x).csr = s.csr := by
  unfold State.modGroup; split <;> rfl
@[simp] theorem State.modGroup_perfceil (s : State) (k : Nat) (x : Group → Group) : (s.modGroup k x).perfceil = s.perfceil := by
  unfold State.modGroup; split <;> rfl
@[simp] theorem State.modGroup_tlb2 (s : State) (k : Nat) (x : Group → Group) : (s.modGroup k x).tlb2 = s.tlb2 := by
  unfold State.modGroup; split <;> rfl
@[simp] theorem State.modGroup_l2 (s : State) (k : Nat) (x : Group → Group) : (s.modGroup k x).l2 = s.l2 := by
  unfold State.modGroup; split <;> rfl
@[simp] theorem State.modGroup_resident (s : State) (k : Nat) (x : Group → Group) : (s.modGroup k x).resident = s.resident := by
  unfold State.modGroup; split <;> rfl
@[simp] theorem State.modGroup_retired (s : State) (k : Nat) (x : Group → Group) : (s.modGroup k x).retired = s.retired := by
  unfold State.modGroup; split <;> rfl
@[simp] theorem State.modGroup_progressRead (s : State) (k : Nat) (x : Group → Group) : (s.modGroup k x).progressRead = s.progressRead := by
  unfold State.modGroup; split <;> rfl
@[simp] theorem State.modGroup_grids (s : State) (k : Nat) (x : Group → Group) : (s.modGroup k x).grids = s.grids := by
  unfold State.modGroup; split <;> rfl
@[simp] theorem State.modGroup_ahead (s : State) (k : Nat) (x : Group → Group) : (s.modGroup k x).ahead = s.ahead := by
  unfold State.modGroup; split <;> rfl
@[simp] theorem State.modGroup_pending (s : State) (k : Nat) (x : Group → Group) : (s.modGroup k x).pending = s.pending := by
  unfold State.modGroup; split <;> rfl
@[simp] theorem State.modGroup_kept (s : State) (k : Nat) (x : Group → Group) : (s.modGroup k x).kept = s.kept := by
  unfold State.modGroup; split <;> rfl
@[simp] theorem State.modGroup_rrSwitch (s : State) (k : Nat) (x : Group → Group) : (s.modGroup k x).rrSwitch = s.rrSwitch := by
  unfold State.modGroup; split <;> rfl
@[simp] theorem State.modGroup_rrDeal (s : State) (k : Nat) (x : Group → Group) : (s.modGroup k x).rrDeal = s.rrDeal := by
  unfold State.modGroup; split <;> rfl
@[simp] theorem State.modGroup_nextTeam (s : State) (k : Nat) (x : Group → Group) : (s.modGroup k x).nextTeam = s.nextTeam := by
  unfold State.modGroup; split <;> rfl
@[simp] theorem State.modGroup_sheet (s : State) (k : Nat) (x : Group → Group) : (s.modGroup k x).sheet = s.sheet := by
  unfold State.modGroup; split <;> rfl
@[simp] theorem State.modGroup_sheetChange (s : State) (k : Nat) (x : Group → Group) : (s.modGroup k x).sheetChange = s.sheetChange := by
  unfold State.modGroup; split <;> rfl
@[simp] theorem State.modGroup_deferred (s : State) (k : Nat) (x : Group → Group) : (s.modGroup k x).deferred = s.deferred := by
  unfold State.modGroup; split <;> rfl
@[simp] theorem State.modGroup_urgentCards (s : State) (k : Nat) (x : Group → Group) : (s.modGroup k x).urgentCards = s.urgentCards := by
  unfold State.modGroup; split <;> rfl
@[simp] theorem State.modGroup_views (s : State) (k : Nat) (x : Group → Group) : (s.modGroup k x).views = s.views := by
  unfold State.modGroup; split <;> rfl
@[simp] theorem State.modGroup_nextView (s : State) (k : Nat) (x : Group → Group) : (s.modGroup k x).nextView = s.nextView := by
  unfold State.modGroup; split <;> rfl
@[simp] theorem State.modGroup_bins (s : State) (k : Nat) (x : Group → Group) : (s.modGroup k x).bins = s.bins := by
  unfold State.modGroup; split <;> rfl
@[simp] theorem State.modGroup_launches (s : State) (k : Nat) (x : Group → Group) : (s.modGroup k x).launches = s.launches := by
  unfold State.modGroup; split <;> rfl
@[simp] theorem State.modGroup_nextLaunch (s : State) (k : Nat) (x : Group → Group) : (s.modGroup k x).nextLaunch = s.nextLaunch := by
  unfold State.modGroup; split <;> rfl
@[simp] theorem State.modGroup_poolSeq (s : State) (k : Nat) (x : Group → Group) : (s.modGroup k x).poolSeq = s.poolSeq := by
  unfold State.modGroup; split <;> rfl
@[simp] theorem State.modGroup_rays (s : State) (k : Nat) (x : Group → Group) : (s.modGroup k x).rays = s.rays := by
  unfold State.modGroup; split <;> rfl
@[simp] theorem State.modGroup_monitors (s : State) (k : Nat) (x : Group → Group) : (s.modGroup k x).monitors = s.monitors := by
  unfold State.modGroup; split <;> rfl
@[simp] theorem State.modGroup_drains (s : State) (k : Nat) (x : Group → Group) : (s.modGroup k x).drains = s.drains := by
  unfold State.modGroup; split <;> rfl
@[simp] theorem State.modGroup_sequences (s : State) (k : Nat) (x : Group → Group) : (s.modGroup k x).sequences = s.sequences := by
  unfold State.modGroup; split <;> rfl
@[simp] theorem State.modGroup_nextDrain (s : State) (k : Nat) (x : Group → Group) : (s.modGroup k x).nextDrain = s.nextDrain := by
  unfold State.modGroup; split <;> rfl
@[simp] theorem State.modGroup_images (s : State) (k : Nat) (x : Group → Group) : (s.modGroup k x).images = s.images := by
  unfold State.modGroup; split <;> rfl
@[simp] theorem State.modGroup_capLvl (s : State) (k : Nat) (x : Group → Group) : (s.modGroup k x).capLvl = s.capLvl := by
  unfold State.modGroup; split <;> rfl
@[simp] theorem State.modGroup_capAt (s : State) (k : Nat) (x : Group → Group) : (s.modGroup k x).capAt = s.capAt := by
  unfold State.modGroup; split <;> rfl
@[simp] theorem State.modGroup_trimAt (s : State) (k : Nat) (x : Group → Group) : (s.modGroup k x).trimAt = s.trimAt := by
  unfold State.modGroup; split <;> rfl
@[simp] theorem State.modGroup_eolAt (s : State) (k : Nat) (x : Group → Group) : (s.modGroup k x).eolAt = s.eolAt := by
  unfold State.modGroup; split <;> rfl
@[simp] theorem State.modGroup_sramHold (s : State) (k : Nat) (x : Group → Group) : (s.modGroup k x).sramHold = s.sramHold := by
  unfold State.modGroup; split <;> rfl
@[simp] theorem State.modGroup_ports (s : State) (k : Nat) (x : Group → Group) : (s.modGroup k x).ports = s.ports := by
  unfold State.modGroup; split <;> rfl
@[simp] theorem State.modGroup_linkLost (s : State) (k : Nat) (x : Group → Group) : (s.modGroup k x).linkLost = s.linkLost := by
  unfold State.modGroup; split <;> rfl
@[simp] theorem State.modGroup_boot (s : State) (k : Nat) (x : Group → Group) : (s.modGroup k x).boot = s.boot := by
  unfold State.modGroup; split <;> rfl
@[simp] theorem State.modGroup_svn (s : State) (k : Nat) (x : Group → Group) : (s.modGroup k x).svn = s.svn := by
  unfold State.modGroup; split <;> rfl
@[simp] theorem State.modGroup_measurement (s : State) (k : Nat) (x : Group → Group) : (s.modGroup k x).measurement = s.measurement := by
  unfold State.modGroup; split <;> rfl
@[simp] theorem State.modGroup_minSvn (s : State) (k : Nat) (x : Group → Group) : (s.modGroup k x).minSvn = s.minSvn := by
  unfold State.modGroup; split <;> rfl
@[simp] theorem State.modGroup_fwload (s : State) (k : Nat) (x : Group → Group) : (s.modGroup k x).fwload = s.fwload := by
  unfold State.modGroup; split <;> rfl
@[simp] theorem State.modGroup_attreq (s : State) (k : Nat) (x : Group → Group) : (s.modGroup k x).attreq = s.attreq := by
  unfold State.modGroup; split <;> rfl
@[simp] theorem State.modGroup_hostReply (s : State) (k : Nat) (x : Group → Group) : (s.modGroup k x).hostReply = s.hostReply := by
  unfold State.modGroup; split <;> rfl
@[simp] theorem State.modGroup_timestamps (s : State) (k : Nat) (x : Group → Group) : (s.modGroup k x).timestamps = s.timestamps := by
  unfold State.modGroup; split <;> rfl
@[simp] theorem State.modGroup_forwarded (s : State) (k : Nat) (x : Group → Group) : (s.modGroup k x).forwarded = s.forwarded := by
  unfold State.modGroup; split <;> rfl
@[simp] theorem State.modGroup_agenda (s : State) (k : Nat) (x : Group → Group) : (s.modGroup k x).agenda = s.agenda := by
  unfold State.modGroup; split <;> rfl
@[simp] theorem State.modGroup_turn (s : State) (k : Nat) (x : Group → Group) : (s.modGroup k x).turn = s.turn := by
  unfold State.modGroup; split <;> rfl
@[simp] theorem State.modGroup_issuer (s : State) (k : Nat) (x : Group → Group) : (s.modGroup k x).issuer = s.issuer := by
  unfold State.modGroup; split <;> rfl
@[simp] theorem State.modGroup_slotB (s : State) (k : Nat) (x : Group → Group) : (s.modGroup k x).slotB = s.slotB := by
  unfold State.modGroup; split <;> rfl
@[simp] theorem State.modGroup_fresh (s : State) (k : Nat) (x : Group → Group) : (s.modGroup k x).fresh = s.fresh := by
  unfold State.modGroup; split <;> rfl
@[simp] theorem State.modGroup_badData (s : State) (k : Nat) (x : Group → Group) : (s.modGroup k x).badData = s.badData := by
  unfold State.modGroup; split <;> rfl

/-! ## State.modTeam -/

@[simp] theorem State.modTeam_mem (s : State) (k : Nat) (x : Team → Team) : (s.modTeam k x).mem = s.mem := by
  unfold State.modTeam; split <;> rfl
@[simp] theorem State.modTeam_routes (s : State) (k : Nat) (x : Team → Team) : (s.modTeam k x).routes = s.routes := by
  unfold State.modTeam; split <;> rfl
@[simp] theorem State.modTeam_groups (s : State) (k : Nat) (x : Team → Team) : (s.modTeam k x).groups = s.groups := by
  unfold State.modTeam; split <;> rfl
@[simp] theorem State.modTeam_cores (s : State) (k : Nat) (x : Team → Team) : (s.modTeam k x).cores = s.cores := by
  unfold State.modTeam; split <;> rfl
@[simp] theorem State.modTeam_strands (s : State) (k : Nat) (x : Team → Team) : (s.modTeam k x).strands = s.strands := by
  unfold State.modTeam; split <;> rfl
@[simp] theorem State.modTeam_idleCycles (s : State) (k : Nat) (x : Team → Team) : (s.modTeam k x).idleCycles = s.idleCycles := by
  unfold State.modTeam; split <;> rfl
@[simp] theorem State.modTeam_idlePhase (s : State) (k : Nat) (x : Team → Team) : (s.modTeam k x).idlePhase = s.idlePhase := by
  unfold State.modTeam; split <;> rfl
@[simp] theorem State.modTeam_time (s : State) (k : Nat) (x : Team → Team) : (s.modTeam k x).time = s.time := by
  unfold State.modTeam; split <;> rfl
@[simp] theorem State.modTeam_uptime (s : State) (k : Nat) (x : Team → Team) : (s.modTeam k x).uptime = s.uptime := by
  unfold State.modTeam; split <;> rfl
@[simp] theorem State.modTeam_timeFrac (s : State) (k : Nat) (x : Team → Team) : (s.modTeam k x).timeFrac = s.timeFrac := by
  unfold State.modTeam; split <;> rfl
@[simp] theorem State.modTeam_timerate (s : State) (k : Nat) (x : Team → Team) : (s.modTeam k x).timerate = s.timerate := by
  unfold State.modTeam; split <;> rfl
@[simp] theorem State.modTeam_csr (s : State) (k : Nat) (x : Team → Team) : (s.modTeam k x).csr = s.csr := by
  unfold State.modTeam; split <;> rfl
@[simp] theorem State.modTeam_perfceil (s : State) (k : Nat) (x : Team → Team) : (s.modTeam k x).perfceil = s.perfceil := by
  unfold State.modTeam; split <;> rfl
@[simp] theorem State.modTeam_tlb2 (s : State) (k : Nat) (x : Team → Team) : (s.modTeam k x).tlb2 = s.tlb2 := by
  unfold State.modTeam; split <;> rfl
@[simp] theorem State.modTeam_l2 (s : State) (k : Nat) (x : Team → Team) : (s.modTeam k x).l2 = s.l2 := by
  unfold State.modTeam; split <;> rfl
@[simp] theorem State.modTeam_resident (s : State) (k : Nat) (x : Team → Team) : (s.modTeam k x).resident = s.resident := by
  unfold State.modTeam; split <;> rfl
@[simp] theorem State.modTeam_retired (s : State) (k : Nat) (x : Team → Team) : (s.modTeam k x).retired = s.retired := by
  unfold State.modTeam; split <;> rfl
@[simp] theorem State.modTeam_progressRead (s : State) (k : Nat) (x : Team → Team) : (s.modTeam k x).progressRead = s.progressRead := by
  unfold State.modTeam; split <;> rfl
@[simp] theorem State.modTeam_grids (s : State) (k : Nat) (x : Team → Team) : (s.modTeam k x).grids = s.grids := by
  unfold State.modTeam; split <;> rfl
@[simp] theorem State.modTeam_ahead (s : State) (k : Nat) (x : Team → Team) : (s.modTeam k x).ahead = s.ahead := by
  unfold State.modTeam; split <;> rfl
@[simp] theorem State.modTeam_pending (s : State) (k : Nat) (x : Team → Team) : (s.modTeam k x).pending = s.pending := by
  unfold State.modTeam; split <;> rfl
@[simp] theorem State.modTeam_kept (s : State) (k : Nat) (x : Team → Team) : (s.modTeam k x).kept = s.kept := by
  unfold State.modTeam; split <;> rfl
@[simp] theorem State.modTeam_rrSwitch (s : State) (k : Nat) (x : Team → Team) : (s.modTeam k x).rrSwitch = s.rrSwitch := by
  unfold State.modTeam; split <;> rfl
@[simp] theorem State.modTeam_rrDeal (s : State) (k : Nat) (x : Team → Team) : (s.modTeam k x).rrDeal = s.rrDeal := by
  unfold State.modTeam; split <;> rfl
@[simp] theorem State.modTeam_nextTeam (s : State) (k : Nat) (x : Team → Team) : (s.modTeam k x).nextTeam = s.nextTeam := by
  unfold State.modTeam; split <;> rfl
@[simp] theorem State.modTeam_sheet (s : State) (k : Nat) (x : Team → Team) : (s.modTeam k x).sheet = s.sheet := by
  unfold State.modTeam; split <;> rfl
@[simp] theorem State.modTeam_sheetChange (s : State) (k : Nat) (x : Team → Team) : (s.modTeam k x).sheetChange = s.sheetChange := by
  unfold State.modTeam; split <;> rfl
@[simp] theorem State.modTeam_deferred (s : State) (k : Nat) (x : Team → Team) : (s.modTeam k x).deferred = s.deferred := by
  unfold State.modTeam; split <;> rfl
@[simp] theorem State.modTeam_urgentCards (s : State) (k : Nat) (x : Team → Team) : (s.modTeam k x).urgentCards = s.urgentCards := by
  unfold State.modTeam; split <;> rfl
@[simp] theorem State.modTeam_views (s : State) (k : Nat) (x : Team → Team) : (s.modTeam k x).views = s.views := by
  unfold State.modTeam; split <;> rfl
@[simp] theorem State.modTeam_nextView (s : State) (k : Nat) (x : Team → Team) : (s.modTeam k x).nextView = s.nextView := by
  unfold State.modTeam; split <;> rfl
@[simp] theorem State.modTeam_bins (s : State) (k : Nat) (x : Team → Team) : (s.modTeam k x).bins = s.bins := by
  unfold State.modTeam; split <;> rfl
@[simp] theorem State.modTeam_launches (s : State) (k : Nat) (x : Team → Team) : (s.modTeam k x).launches = s.launches := by
  unfold State.modTeam; split <;> rfl
@[simp] theorem State.modTeam_nextLaunch (s : State) (k : Nat) (x : Team → Team) : (s.modTeam k x).nextLaunch = s.nextLaunch := by
  unfold State.modTeam; split <;> rfl
@[simp] theorem State.modTeam_poolSeq (s : State) (k : Nat) (x : Team → Team) : (s.modTeam k x).poolSeq = s.poolSeq := by
  unfold State.modTeam; split <;> rfl
@[simp] theorem State.modTeam_rays (s : State) (k : Nat) (x : Team → Team) : (s.modTeam k x).rays = s.rays := by
  unfold State.modTeam; split <;> rfl
@[simp] theorem State.modTeam_monitors (s : State) (k : Nat) (x : Team → Team) : (s.modTeam k x).monitors = s.monitors := by
  unfold State.modTeam; split <;> rfl
@[simp] theorem State.modTeam_drains (s : State) (k : Nat) (x : Team → Team) : (s.modTeam k x).drains = s.drains := by
  unfold State.modTeam; split <;> rfl
@[simp] theorem State.modTeam_sequences (s : State) (k : Nat) (x : Team → Team) : (s.modTeam k x).sequences = s.sequences := by
  unfold State.modTeam; split <;> rfl
@[simp] theorem State.modTeam_nextDrain (s : State) (k : Nat) (x : Team → Team) : (s.modTeam k x).nextDrain = s.nextDrain := by
  unfold State.modTeam; split <;> rfl
@[simp] theorem State.modTeam_images (s : State) (k : Nat) (x : Team → Team) : (s.modTeam k x).images = s.images := by
  unfold State.modTeam; split <;> rfl
@[simp] theorem State.modTeam_capLvl (s : State) (k : Nat) (x : Team → Team) : (s.modTeam k x).capLvl = s.capLvl := by
  unfold State.modTeam; split <;> rfl
@[simp] theorem State.modTeam_capAt (s : State) (k : Nat) (x : Team → Team) : (s.modTeam k x).capAt = s.capAt := by
  unfold State.modTeam; split <;> rfl
@[simp] theorem State.modTeam_trimAt (s : State) (k : Nat) (x : Team → Team) : (s.modTeam k x).trimAt = s.trimAt := by
  unfold State.modTeam; split <;> rfl
@[simp] theorem State.modTeam_eolAt (s : State) (k : Nat) (x : Team → Team) : (s.modTeam k x).eolAt = s.eolAt := by
  unfold State.modTeam; split <;> rfl
@[simp] theorem State.modTeam_sramHold (s : State) (k : Nat) (x : Team → Team) : (s.modTeam k x).sramHold = s.sramHold := by
  unfold State.modTeam; split <;> rfl
@[simp] theorem State.modTeam_ports (s : State) (k : Nat) (x : Team → Team) : (s.modTeam k x).ports = s.ports := by
  unfold State.modTeam; split <;> rfl
@[simp] theorem State.modTeam_linkLost (s : State) (k : Nat) (x : Team → Team) : (s.modTeam k x).linkLost = s.linkLost := by
  unfold State.modTeam; split <;> rfl
@[simp] theorem State.modTeam_boot (s : State) (k : Nat) (x : Team → Team) : (s.modTeam k x).boot = s.boot := by
  unfold State.modTeam; split <;> rfl
@[simp] theorem State.modTeam_svn (s : State) (k : Nat) (x : Team → Team) : (s.modTeam k x).svn = s.svn := by
  unfold State.modTeam; split <;> rfl
@[simp] theorem State.modTeam_measurement (s : State) (k : Nat) (x : Team → Team) : (s.modTeam k x).measurement = s.measurement := by
  unfold State.modTeam; split <;> rfl
@[simp] theorem State.modTeam_minSvn (s : State) (k : Nat) (x : Team → Team) : (s.modTeam k x).minSvn = s.minSvn := by
  unfold State.modTeam; split <;> rfl
@[simp] theorem State.modTeam_fwload (s : State) (k : Nat) (x : Team → Team) : (s.modTeam k x).fwload = s.fwload := by
  unfold State.modTeam; split <;> rfl
@[simp] theorem State.modTeam_attreq (s : State) (k : Nat) (x : Team → Team) : (s.modTeam k x).attreq = s.attreq := by
  unfold State.modTeam; split <;> rfl
@[simp] theorem State.modTeam_hostReply (s : State) (k : Nat) (x : Team → Team) : (s.modTeam k x).hostReply = s.hostReply := by
  unfold State.modTeam; split <;> rfl
@[simp] theorem State.modTeam_timestamps (s : State) (k : Nat) (x : Team → Team) : (s.modTeam k x).timestamps = s.timestamps := by
  unfold State.modTeam; split <;> rfl
@[simp] theorem State.modTeam_forwarded (s : State) (k : Nat) (x : Team → Team) : (s.modTeam k x).forwarded = s.forwarded := by
  unfold State.modTeam; split <;> rfl
@[simp] theorem State.modTeam_agenda (s : State) (k : Nat) (x : Team → Team) : (s.modTeam k x).agenda = s.agenda := by
  unfold State.modTeam; split <;> rfl
@[simp] theorem State.modTeam_turn (s : State) (k : Nat) (x : Team → Team) : (s.modTeam k x).turn = s.turn := by
  unfold State.modTeam; split <;> rfl
@[simp] theorem State.modTeam_issuer (s : State) (k : Nat) (x : Team → Team) : (s.modTeam k x).issuer = s.issuer := by
  unfold State.modTeam; split <;> rfl
@[simp] theorem State.modTeam_slotB (s : State) (k : Nat) (x : Team → Team) : (s.modTeam k x).slotB = s.slotB := by
  unfold State.modTeam; split <;> rfl
@[simp] theorem State.modTeam_fresh (s : State) (k : Nat) (x : Team → Team) : (s.modTeam k x).fresh = s.fresh := by
  unfold State.modTeam; split <;> rfl
@[simp] theorem State.modTeam_badData (s : State) (k : Nat) (x : Team → Team) : (s.modTeam k x).badData = s.badData := by
  unfold State.modTeam; split <;> rfl

/-! ## State.modCore -/

@[simp] theorem State.modCore_mem (s : State) (k : Nat) (x : Core → Core) : (s.modCore k x).mem = s.mem := rfl
@[simp] theorem State.modCore_routes (s : State) (k : Nat) (x : Core → Core) : (s.modCore k x).routes = s.routes := rfl
@[simp] theorem State.modCore_groups (s : State) (k : Nat) (x : Core → Core) : (s.modCore k x).groups = s.groups := rfl
@[simp] theorem State.modCore_teams (s : State) (k : Nat) (x : Core → Core) : (s.modCore k x).teams = s.teams := rfl
@[simp] theorem State.modCore_strands (s : State) (k : Nat) (x : Core → Core) : (s.modCore k x).strands = s.strands := rfl
@[simp] theorem State.modCore_idleCycles (s : State) (k : Nat) (x : Core → Core) : (s.modCore k x).idleCycles = s.idleCycles := rfl
@[simp] theorem State.modCore_idlePhase (s : State) (k : Nat) (x : Core → Core) : (s.modCore k x).idlePhase = s.idlePhase := rfl
@[simp] theorem State.modCore_time (s : State) (k : Nat) (x : Core → Core) : (s.modCore k x).time = s.time := rfl
@[simp] theorem State.modCore_uptime (s : State) (k : Nat) (x : Core → Core) : (s.modCore k x).uptime = s.uptime := rfl
@[simp] theorem State.modCore_timeFrac (s : State) (k : Nat) (x : Core → Core) : (s.modCore k x).timeFrac = s.timeFrac := rfl
@[simp] theorem State.modCore_timerate (s : State) (k : Nat) (x : Core → Core) : (s.modCore k x).timerate = s.timerate := rfl
@[simp] theorem State.modCore_csr (s : State) (k : Nat) (x : Core → Core) : (s.modCore k x).csr = s.csr := rfl
@[simp] theorem State.modCore_perfceil (s : State) (k : Nat) (x : Core → Core) : (s.modCore k x).perfceil = s.perfceil := rfl
@[simp] theorem State.modCore_tlb2 (s : State) (k : Nat) (x : Core → Core) : (s.modCore k x).tlb2 = s.tlb2 := rfl
@[simp] theorem State.modCore_l2 (s : State) (k : Nat) (x : Core → Core) : (s.modCore k x).l2 = s.l2 := rfl
@[simp] theorem State.modCore_resident (s : State) (k : Nat) (x : Core → Core) : (s.modCore k x).resident = s.resident := rfl
@[simp] theorem State.modCore_retired (s : State) (k : Nat) (x : Core → Core) : (s.modCore k x).retired = s.retired := rfl
@[simp] theorem State.modCore_progressRead (s : State) (k : Nat) (x : Core → Core) : (s.modCore k x).progressRead = s.progressRead := rfl
@[simp] theorem State.modCore_grids (s : State) (k : Nat) (x : Core → Core) : (s.modCore k x).grids = s.grids := rfl
@[simp] theorem State.modCore_ahead (s : State) (k : Nat) (x : Core → Core) : (s.modCore k x).ahead = s.ahead := rfl
@[simp] theorem State.modCore_pending (s : State) (k : Nat) (x : Core → Core) : (s.modCore k x).pending = s.pending := rfl
@[simp] theorem State.modCore_kept (s : State) (k : Nat) (x : Core → Core) : (s.modCore k x).kept = s.kept := rfl
@[simp] theorem State.modCore_rrSwitch (s : State) (k : Nat) (x : Core → Core) : (s.modCore k x).rrSwitch = s.rrSwitch := rfl
@[simp] theorem State.modCore_rrDeal (s : State) (k : Nat) (x : Core → Core) : (s.modCore k x).rrDeal = s.rrDeal := rfl
@[simp] theorem State.modCore_nextTeam (s : State) (k : Nat) (x : Core → Core) : (s.modCore k x).nextTeam = s.nextTeam := rfl
@[simp] theorem State.modCore_sheet (s : State) (k : Nat) (x : Core → Core) : (s.modCore k x).sheet = s.sheet := rfl
@[simp] theorem State.modCore_sheetChange (s : State) (k : Nat) (x : Core → Core) : (s.modCore k x).sheetChange = s.sheetChange := rfl
@[simp] theorem State.modCore_deferred (s : State) (k : Nat) (x : Core → Core) : (s.modCore k x).deferred = s.deferred := rfl
@[simp] theorem State.modCore_urgentCards (s : State) (k : Nat) (x : Core → Core) : (s.modCore k x).urgentCards = s.urgentCards := rfl
@[simp] theorem State.modCore_views (s : State) (k : Nat) (x : Core → Core) : (s.modCore k x).views = s.views := rfl
@[simp] theorem State.modCore_nextView (s : State) (k : Nat) (x : Core → Core) : (s.modCore k x).nextView = s.nextView := rfl
@[simp] theorem State.modCore_bins (s : State) (k : Nat) (x : Core → Core) : (s.modCore k x).bins = s.bins := rfl
@[simp] theorem State.modCore_launches (s : State) (k : Nat) (x : Core → Core) : (s.modCore k x).launches = s.launches := rfl
@[simp] theorem State.modCore_nextLaunch (s : State) (k : Nat) (x : Core → Core) : (s.modCore k x).nextLaunch = s.nextLaunch := rfl
@[simp] theorem State.modCore_poolSeq (s : State) (k : Nat) (x : Core → Core) : (s.modCore k x).poolSeq = s.poolSeq := rfl
@[simp] theorem State.modCore_rays (s : State) (k : Nat) (x : Core → Core) : (s.modCore k x).rays = s.rays := rfl
@[simp] theorem State.modCore_monitors (s : State) (k : Nat) (x : Core → Core) : (s.modCore k x).monitors = s.monitors := rfl
@[simp] theorem State.modCore_drains (s : State) (k : Nat) (x : Core → Core) : (s.modCore k x).drains = s.drains := rfl
@[simp] theorem State.modCore_sequences (s : State) (k : Nat) (x : Core → Core) : (s.modCore k x).sequences = s.sequences := rfl
@[simp] theorem State.modCore_nextDrain (s : State) (k : Nat) (x : Core → Core) : (s.modCore k x).nextDrain = s.nextDrain := rfl
@[simp] theorem State.modCore_images (s : State) (k : Nat) (x : Core → Core) : (s.modCore k x).images = s.images := rfl
@[simp] theorem State.modCore_capLvl (s : State) (k : Nat) (x : Core → Core) : (s.modCore k x).capLvl = s.capLvl := rfl
@[simp] theorem State.modCore_capAt (s : State) (k : Nat) (x : Core → Core) : (s.modCore k x).capAt = s.capAt := rfl
@[simp] theorem State.modCore_trimAt (s : State) (k : Nat) (x : Core → Core) : (s.modCore k x).trimAt = s.trimAt := rfl
@[simp] theorem State.modCore_eolAt (s : State) (k : Nat) (x : Core → Core) : (s.modCore k x).eolAt = s.eolAt := rfl
@[simp] theorem State.modCore_sramHold (s : State) (k : Nat) (x : Core → Core) : (s.modCore k x).sramHold = s.sramHold := rfl
@[simp] theorem State.modCore_ports (s : State) (k : Nat) (x : Core → Core) : (s.modCore k x).ports = s.ports := rfl
@[simp] theorem State.modCore_linkLost (s : State) (k : Nat) (x : Core → Core) : (s.modCore k x).linkLost = s.linkLost := rfl
@[simp] theorem State.modCore_boot (s : State) (k : Nat) (x : Core → Core) : (s.modCore k x).boot = s.boot := rfl
@[simp] theorem State.modCore_svn (s : State) (k : Nat) (x : Core → Core) : (s.modCore k x).svn = s.svn := rfl
@[simp] theorem State.modCore_measurement (s : State) (k : Nat) (x : Core → Core) : (s.modCore k x).measurement = s.measurement := rfl
@[simp] theorem State.modCore_minSvn (s : State) (k : Nat) (x : Core → Core) : (s.modCore k x).minSvn = s.minSvn := rfl
@[simp] theorem State.modCore_fwload (s : State) (k : Nat) (x : Core → Core) : (s.modCore k x).fwload = s.fwload := rfl
@[simp] theorem State.modCore_attreq (s : State) (k : Nat) (x : Core → Core) : (s.modCore k x).attreq = s.attreq := rfl
@[simp] theorem State.modCore_hostReply (s : State) (k : Nat) (x : Core → Core) : (s.modCore k x).hostReply = s.hostReply := rfl
@[simp] theorem State.modCore_timestamps (s : State) (k : Nat) (x : Core → Core) : (s.modCore k x).timestamps = s.timestamps := rfl
@[simp] theorem State.modCore_forwarded (s : State) (k : Nat) (x : Core → Core) : (s.modCore k x).forwarded = s.forwarded := rfl
@[simp] theorem State.modCore_agenda (s : State) (k : Nat) (x : Core → Core) : (s.modCore k x).agenda = s.agenda := rfl
@[simp] theorem State.modCore_turn (s : State) (k : Nat) (x : Core → Core) : (s.modCore k x).turn = s.turn := rfl
@[simp] theorem State.modCore_issuer (s : State) (k : Nat) (x : Core → Core) : (s.modCore k x).issuer = s.issuer := rfl
@[simp] theorem State.modCore_slotB (s : State) (k : Nat) (x : Core → Core) : (s.modCore k x).slotB = s.slotB := rfl
@[simp] theorem State.modCore_fresh (s : State) (k : Nat) (x : Core → Core) : (s.modCore k x).fresh = s.fresh := rfl
@[simp] theorem State.modCore_badData (s : State) (k : Nat) (x : Core → Core) : (s.modCore k x).badData = s.badData := rfl

/-! ## State.modStrand -/

@[simp] theorem State.modStrand_mem (s : State) (k : Nat) (x : Strand → Strand) : (s.modStrand k x).mem = s.mem := rfl
@[simp] theorem State.modStrand_routes (s : State) (k : Nat) (x : Strand → Strand) : (s.modStrand k x).routes = s.routes := rfl
@[simp] theorem State.modStrand_groups (s : State) (k : Nat) (x : Strand → Strand) : (s.modStrand k x).groups = s.groups := rfl
@[simp] theorem State.modStrand_teams (s : State) (k : Nat) (x : Strand → Strand) : (s.modStrand k x).teams = s.teams := rfl
@[simp] theorem State.modStrand_cores (s : State) (k : Nat) (x : Strand → Strand) : (s.modStrand k x).cores = s.cores := rfl
@[simp] theorem State.modStrand_idleCycles (s : State) (k : Nat) (x : Strand → Strand) : (s.modStrand k x).idleCycles = s.idleCycles := rfl
@[simp] theorem State.modStrand_idlePhase (s : State) (k : Nat) (x : Strand → Strand) : (s.modStrand k x).idlePhase = s.idlePhase := rfl
@[simp] theorem State.modStrand_time (s : State) (k : Nat) (x : Strand → Strand) : (s.modStrand k x).time = s.time := rfl
@[simp] theorem State.modStrand_uptime (s : State) (k : Nat) (x : Strand → Strand) : (s.modStrand k x).uptime = s.uptime := rfl
@[simp] theorem State.modStrand_timeFrac (s : State) (k : Nat) (x : Strand → Strand) : (s.modStrand k x).timeFrac = s.timeFrac := rfl
@[simp] theorem State.modStrand_timerate (s : State) (k : Nat) (x : Strand → Strand) : (s.modStrand k x).timerate = s.timerate := rfl
@[simp] theorem State.modStrand_csr (s : State) (k : Nat) (x : Strand → Strand) : (s.modStrand k x).csr = s.csr := rfl
@[simp] theorem State.modStrand_perfceil (s : State) (k : Nat) (x : Strand → Strand) : (s.modStrand k x).perfceil = s.perfceil := rfl
@[simp] theorem State.modStrand_tlb2 (s : State) (k : Nat) (x : Strand → Strand) : (s.modStrand k x).tlb2 = s.tlb2 := rfl
@[simp] theorem State.modStrand_l2 (s : State) (k : Nat) (x : Strand → Strand) : (s.modStrand k x).l2 = s.l2 := rfl
@[simp] theorem State.modStrand_resident (s : State) (k : Nat) (x : Strand → Strand) : (s.modStrand k x).resident = s.resident := rfl
@[simp] theorem State.modStrand_retired (s : State) (k : Nat) (x : Strand → Strand) : (s.modStrand k x).retired = s.retired := rfl
@[simp] theorem State.modStrand_progressRead (s : State) (k : Nat) (x : Strand → Strand) : (s.modStrand k x).progressRead = s.progressRead := rfl
@[simp] theorem State.modStrand_grids (s : State) (k : Nat) (x : Strand → Strand) : (s.modStrand k x).grids = s.grids := rfl
@[simp] theorem State.modStrand_ahead (s : State) (k : Nat) (x : Strand → Strand) : (s.modStrand k x).ahead = s.ahead := rfl
@[simp] theorem State.modStrand_pending (s : State) (k : Nat) (x : Strand → Strand) : (s.modStrand k x).pending = s.pending := rfl
@[simp] theorem State.modStrand_kept (s : State) (k : Nat) (x : Strand → Strand) : (s.modStrand k x).kept = s.kept := rfl
@[simp] theorem State.modStrand_rrSwitch (s : State) (k : Nat) (x : Strand → Strand) : (s.modStrand k x).rrSwitch = s.rrSwitch := rfl
@[simp] theorem State.modStrand_rrDeal (s : State) (k : Nat) (x : Strand → Strand) : (s.modStrand k x).rrDeal = s.rrDeal := rfl
@[simp] theorem State.modStrand_nextTeam (s : State) (k : Nat) (x : Strand → Strand) : (s.modStrand k x).nextTeam = s.nextTeam := rfl
@[simp] theorem State.modStrand_sheet (s : State) (k : Nat) (x : Strand → Strand) : (s.modStrand k x).sheet = s.sheet := rfl
@[simp] theorem State.modStrand_sheetChange (s : State) (k : Nat) (x : Strand → Strand) : (s.modStrand k x).sheetChange = s.sheetChange := rfl
@[simp] theorem State.modStrand_deferred (s : State) (k : Nat) (x : Strand → Strand) : (s.modStrand k x).deferred = s.deferred := rfl
@[simp] theorem State.modStrand_urgentCards (s : State) (k : Nat) (x : Strand → Strand) : (s.modStrand k x).urgentCards = s.urgentCards := rfl
@[simp] theorem State.modStrand_views (s : State) (k : Nat) (x : Strand → Strand) : (s.modStrand k x).views = s.views := rfl
@[simp] theorem State.modStrand_nextView (s : State) (k : Nat) (x : Strand → Strand) : (s.modStrand k x).nextView = s.nextView := rfl
@[simp] theorem State.modStrand_bins (s : State) (k : Nat) (x : Strand → Strand) : (s.modStrand k x).bins = s.bins := rfl
@[simp] theorem State.modStrand_launches (s : State) (k : Nat) (x : Strand → Strand) : (s.modStrand k x).launches = s.launches := rfl
@[simp] theorem State.modStrand_nextLaunch (s : State) (k : Nat) (x : Strand → Strand) : (s.modStrand k x).nextLaunch = s.nextLaunch := rfl
@[simp] theorem State.modStrand_poolSeq (s : State) (k : Nat) (x : Strand → Strand) : (s.modStrand k x).poolSeq = s.poolSeq := rfl
@[simp] theorem State.modStrand_rays (s : State) (k : Nat) (x : Strand → Strand) : (s.modStrand k x).rays = s.rays := rfl
@[simp] theorem State.modStrand_monitors (s : State) (k : Nat) (x : Strand → Strand) : (s.modStrand k x).monitors = s.monitors := rfl
@[simp] theorem State.modStrand_drains (s : State) (k : Nat) (x : Strand → Strand) : (s.modStrand k x).drains = s.drains := rfl
@[simp] theorem State.modStrand_sequences (s : State) (k : Nat) (x : Strand → Strand) : (s.modStrand k x).sequences = s.sequences := rfl
@[simp] theorem State.modStrand_nextDrain (s : State) (k : Nat) (x : Strand → Strand) : (s.modStrand k x).nextDrain = s.nextDrain := rfl
@[simp] theorem State.modStrand_images (s : State) (k : Nat) (x : Strand → Strand) : (s.modStrand k x).images = s.images := rfl
@[simp] theorem State.modStrand_capLvl (s : State) (k : Nat) (x : Strand → Strand) : (s.modStrand k x).capLvl = s.capLvl := rfl
@[simp] theorem State.modStrand_capAt (s : State) (k : Nat) (x : Strand → Strand) : (s.modStrand k x).capAt = s.capAt := rfl
@[simp] theorem State.modStrand_trimAt (s : State) (k : Nat) (x : Strand → Strand) : (s.modStrand k x).trimAt = s.trimAt := rfl
@[simp] theorem State.modStrand_eolAt (s : State) (k : Nat) (x : Strand → Strand) : (s.modStrand k x).eolAt = s.eolAt := rfl
@[simp] theorem State.modStrand_sramHold (s : State) (k : Nat) (x : Strand → Strand) : (s.modStrand k x).sramHold = s.sramHold := rfl
@[simp] theorem State.modStrand_ports (s : State) (k : Nat) (x : Strand → Strand) : (s.modStrand k x).ports = s.ports := rfl
@[simp] theorem State.modStrand_linkLost (s : State) (k : Nat) (x : Strand → Strand) : (s.modStrand k x).linkLost = s.linkLost := rfl
@[simp] theorem State.modStrand_boot (s : State) (k : Nat) (x : Strand → Strand) : (s.modStrand k x).boot = s.boot := rfl
@[simp] theorem State.modStrand_svn (s : State) (k : Nat) (x : Strand → Strand) : (s.modStrand k x).svn = s.svn := rfl
@[simp] theorem State.modStrand_measurement (s : State) (k : Nat) (x : Strand → Strand) : (s.modStrand k x).measurement = s.measurement := rfl
@[simp] theorem State.modStrand_minSvn (s : State) (k : Nat) (x : Strand → Strand) : (s.modStrand k x).minSvn = s.minSvn := rfl
@[simp] theorem State.modStrand_fwload (s : State) (k : Nat) (x : Strand → Strand) : (s.modStrand k x).fwload = s.fwload := rfl
@[simp] theorem State.modStrand_attreq (s : State) (k : Nat) (x : Strand → Strand) : (s.modStrand k x).attreq = s.attreq := rfl
@[simp] theorem State.modStrand_hostReply (s : State) (k : Nat) (x : Strand → Strand) : (s.modStrand k x).hostReply = s.hostReply := rfl
@[simp] theorem State.modStrand_timestamps (s : State) (k : Nat) (x : Strand → Strand) : (s.modStrand k x).timestamps = s.timestamps := rfl
@[simp] theorem State.modStrand_forwarded (s : State) (k : Nat) (x : Strand → Strand) : (s.modStrand k x).forwarded = s.forwarded := rfl
@[simp] theorem State.modStrand_agenda (s : State) (k : Nat) (x : Strand → Strand) : (s.modStrand k x).agenda = s.agenda := rfl
@[simp] theorem State.modStrand_turn (s : State) (k : Nat) (x : Strand → Strand) : (s.modStrand k x).turn = s.turn := rfl
@[simp] theorem State.modStrand_issuer (s : State) (k : Nat) (x : Strand → Strand) : (s.modStrand k x).issuer = s.issuer := rfl
@[simp] theorem State.modStrand_slotB (s : State) (k : Nat) (x : Strand → Strand) : (s.modStrand k x).slotB = s.slotB := rfl
@[simp] theorem State.modStrand_fresh (s : State) (k : Nat) (x : Strand → Strand) : (s.modStrand k x).fresh = s.fresh := rfl
@[simp] theorem State.modStrand_badData (s : State) (k : Nat) (x : Strand → Strand) : (s.modStrand k x).badData = s.badData := rfl

/-! ## Group.setSlot, Group.setS, Group.setPred -/

@[simp] theorem Group.setSlot_team (g : Group) (b : Bool) (p : Option Part) : (g.setSlot b p).team = g.team := by cases b <;> rfl
@[simp] theorem Group.setSlot_gidx (g : Group) (b : Bool) (p : Option Part) : (g.setSlot b p).gidx = g.gidx := by cases b <;> rfl
@[simp] theorem Group.setSlot_role (g : Group) (b : Bool) (p : Option Part) : (g.setSlot b p).role = g.role := by cases b <;> rfl
@[simp] theorem Group.setSlot_rgroup (g : Group) (b : Bool) (p : Option Part) : (g.setSlot b p).rgroup = g.rgroup := by cases b <;> rfl
@[simp] theorem Group.setSlot_quarter (g : Group) (b : Bool) (p : Option Part) : (g.setSlot b p).quarter = g.quarter := by cases b <;> rfl
@[simp] theorem Group.setSlot_quad (g : Group) (b : Bool) (p : Option Part) : (g.setSlot b p).quad = g.quad := by cases b <;> rfl
@[simp] theorem Group.setSlot_stack (g : Group) (b : Bool) (p : Option Part) : (g.setSlot b p).stack = g.stack := by cases b <;> rfl
@[simp] theorem Group.setSlot_vregs (g : Group) (b : Bool) (p : Option Part) : (g.setSlot b p).vregs = g.vregs := by cases b <;> rfl
@[simp] theorem Group.setSlot_sregs (g : Group) (b : Bool) (p : Option Part) : (g.setSlot b p).sregs = g.sregs := by cases b <;> rfl
@[simp] theorem Group.setSlot_preds (g : Group) (b : Bool) (p : Option Part) : (g.setSlot b p).preds = g.preds := by cases b <;> rfl
@[simp] theorem Group.setSlot_lorigin (g : Group) (b : Bool) (p : Option Part) : (g.setSlot b p).lorigin = g.lorigin := by cases b <;> rfl
@[simp] theorem Group.setSlot_helper (g : Group) (b : Bool) (p : Option Part) : (g.setSlot b p).helper = g.helper := by cases b <;> rfl
@[simp] theorem Group.setSlot_vacant (g : Group) (b : Bool) (p : Option Part) : (g.setSlot b p).vacant = g.vacant := by cases b <;> rfl
@[simp] theorem Group.setSlot_mode (g : Group) (b : Bool) (p : Option Part) : (g.setSlot b p).mode = g.mode := by cases b <;> rfl
@[simp] theorem Group.setSlot_uframe (g : Group) (b : Bool) (p : Option Part) : (g.setSlot b p).uframe = g.uframe := by cases b <;> rfl
@[simp] theorem Group.setSlot_sframe (g : Group) (b : Bool) (p : Option Part) : (g.setSlot b p).sframe = g.sframe := by cases b <;> rfl
@[simp] theorem Group.setSlot_lastS (g : Group) (b : Bool) (p : Option Part) : (g.setSlot b p).lastS = g.lastS := by cases b <;> rfl
@[simp] theorem Group.setSlot_trapvec (g : Group) (b : Bool) (p : Option Part) : (g.setSlot b p).trapvec = g.trapvec := by cases b <;> rfl
@[simp] theorem Group.setSlot_taction (g : Group) (b : Bool) (p : Option Part) : (g.setSlot b p).taction = g.taction := by cases b <;> rfl
@[simp] theorem Group.setSlot_sscr0 (g : Group) (b : Bool) (p : Option Part) : (g.setSlot b p).sscr0 = g.sscr0 := by cases b <;> rfl
@[simp] theorem Group.setSlot_sscr1 (g : Group) (b : Bool) (p : Option Part) : (g.setSlot b p).sscr1 = g.sscr1 := by cases b <;> rfl
@[simp] theorem Group.setSlot_ctxid (g : Group) (b : Bool) (p : Option Part) : (g.setSlot b p).ctxid = g.ctxid := by cases b <;> rfl
@[simp] theorem Group.setSlot_fflags (g : Group) (b : Bool) (p : Option Part) : (g.setSlot b p).fflags = g.fflags := by cases b <;> rfl
@[simp] theorem Group.setSlot_evmask (g : Group) (b : Bool) (p : Option Part) : (g.setSlot b p).evmask = g.evmask := by cases b <;> rfl
@[simp] theorem Group.setSlot_evslot (g : Group) (b : Bool) (p : Option Part) : (g.setSlot b p).evslot = g.evslot := by cases b <;> rfl
@[simp] theorem Group.setSlot_evdata (g : Group) (b : Bool) (p : Option Part) : (g.setSlot b p).evdata = g.evdata := by cases b <;> rfl
@[simp] theorem Group.setSlot_evcxl (g : Group) (b : Bool) (p : Option Part) : (g.setSlot b p).evcxl = g.evcxl := by cases b <;> rfl
@[simp] theorem Group.setSlot_events (g : Group) (b : Bool) (p : Option Part) : (g.setSlot b p).events = g.events := by cases b <;> rfl
@[simp] theorem Group.setSlot_mailbox (g : Group) (b : Bool) (p : Option Part) : (g.setSlot b p).mailbox = g.mailbox := by cases b <;> rfl
@[simp] theorem Group.setSlot_barriers (g : Group) (b : Bool) (p : Option Part) : (g.setSlot b p).barriers = g.barriers := by cases b <;> rfl
@[simp] theorem Group.setSlot_perfReq (g : Group) (b : Bool) (p : Option Part) : (g.setSlot b p).perfReq = g.perfReq := by cases b <;> rfl
@[simp] theorem Group.setSlot_stallMem (g : Group) (b : Bool) (p : Option Part) : (g.setSlot b p).stallMem = g.stallMem := by cases b <;> rfl
@[simp] theorem Group.setSlot_stallAlu (g : Group) (b : Bool) (p : Option Part) : (g.setSlot b p).stallAlu = g.stallAlu := by cases b <;> rfl
@[simp] theorem Group.setSlot_heldTraps (g : Group) (b : Bool) (p : Option Part) : (g.setSlot b p).heldTraps = g.heldTraps := by cases b <;> rfl
@[simp] theorem Group.setSlot_heldUntil (g : Group) (b : Bool) (p : Option Part) : (g.setSlot b p).heldUntil = g.heldUntil := by cases b <;> rfl
@[simp] theorem Group.setSlot_entering (g : Group) (b : Bool) (p : Option Part) : (g.setSlot b p).entering = g.entering := by cases b <;> rfl
@[simp] theorem Group.setSlot_tokens (g : Group) (b : Bool) (p : Option Part) : (g.setSlot b p).tokens = g.tokens := by cases b <;> rfl
@[simp] theorem Group.setSlot_backoff (g : Group) (b : Bool) (p : Option Part) : (g.setSlot b p).backoff = g.backoff := by cases b <;> rfl
@[simp] theorem Group.setSlot_suspended (g : Group) (b : Bool) (p : Option Part) : (g.setSlot b p).suspended = g.suspended := by cases b <;> rfl
@[simp] theorem Group.setSlot_outstanding (g : Group) (b : Bool) (p : Option Part) : (g.setSlot b p).outstanding = g.outstanding := by cases b <;> rfl
@[simp] theorem Group.setSlot_late (g : Group) (b : Bool) (p : Option Part) : (g.setSlot b p).late = g.late := by cases b <;> rfl
@[simp] theorem Group.setSlot_candA (g : Group) (b : Bool) (p : Option Part) : (g.setSlot b p).candA = g.candA := by cases b <;> rfl
@[simp] theorem Group.setSlot_candB (g : Group) (b : Bool) (p : Option Part) : (g.setSlot b p).candB = g.candB := by cases b <;> rfl
@[simp] theorem Group.setS_team (g : Group) (n : Nat) (x : Word) : (g.setS n x).team = g.team := rfl
@[simp] theorem Group.setS_gidx (g : Group) (n : Nat) (x : Word) : (g.setS n x).gidx = g.gidx := rfl
@[simp] theorem Group.setS_role (g : Group) (n : Nat) (x : Word) : (g.setS n x).role = g.role := rfl
@[simp] theorem Group.setS_rgroup (g : Group) (n : Nat) (x : Word) : (g.setS n x).rgroup = g.rgroup := rfl
@[simp] theorem Group.setS_quarter (g : Group) (n : Nat) (x : Word) : (g.setS n x).quarter = g.quarter := rfl
@[simp] theorem Group.setS_quad (g : Group) (n : Nat) (x : Word) : (g.setS n x).quad = g.quad := rfl
@[simp] theorem Group.setS_slotA (g : Group) (n : Nat) (x : Word) : (g.setS n x).slotA = g.slotA := rfl
@[simp] theorem Group.setS_slotB (g : Group) (n : Nat) (x : Word) : (g.setS n x).slotB = g.slotB := rfl
@[simp] theorem Group.setS_stack (g : Group) (n : Nat) (x : Word) : (g.setS n x).stack = g.stack := rfl
@[simp] theorem Group.setS_vregs (g : Group) (n : Nat) (x : Word) : (g.setS n x).vregs = g.vregs := rfl
@[simp] theorem Group.setS_preds (g : Group) (n : Nat) (x : Word) : (g.setS n x).preds = g.preds := rfl
@[simp] theorem Group.setS_lorigin (g : Group) (n : Nat) (x : Word) : (g.setS n x).lorigin = g.lorigin := rfl
@[simp] theorem Group.setS_helper (g : Group) (n : Nat) (x : Word) : (g.setS n x).helper = g.helper := rfl
@[simp] theorem Group.setS_vacant (g : Group) (n : Nat) (x : Word) : (g.setS n x).vacant = g.vacant := rfl
@[simp] theorem Group.setS_mode (g : Group) (n : Nat) (x : Word) : (g.setS n x).mode = g.mode := rfl
@[simp] theorem Group.setS_uframe (g : Group) (n : Nat) (x : Word) : (g.setS n x).uframe = g.uframe := rfl
@[simp] theorem Group.setS_sframe (g : Group) (n : Nat) (x : Word) : (g.setS n x).sframe = g.sframe := rfl
@[simp] theorem Group.setS_lastS (g : Group) (n : Nat) (x : Word) : (g.setS n x).lastS = g.lastS := rfl
@[simp] theorem Group.setS_trapvec (g : Group) (n : Nat) (x : Word) : (g.setS n x).trapvec = g.trapvec := rfl
@[simp] theorem Group.setS_taction (g : Group) (n : Nat) (x : Word) : (g.setS n x).taction = g.taction := rfl
@[simp] theorem Group.setS_sscr0 (g : Group) (n : Nat) (x : Word) : (g.setS n x).sscr0 = g.sscr0 := rfl
@[simp] theorem Group.setS_sscr1 (g : Group) (n : Nat) (x : Word) : (g.setS n x).sscr1 = g.sscr1 := rfl
@[simp] theorem Group.setS_ctxid (g : Group) (n : Nat) (x : Word) : (g.setS n x).ctxid = g.ctxid := rfl
@[simp] theorem Group.setS_fflags (g : Group) (n : Nat) (x : Word) : (g.setS n x).fflags = g.fflags := rfl
@[simp] theorem Group.setS_evmask (g : Group) (n : Nat) (x : Word) : (g.setS n x).evmask = g.evmask := rfl
@[simp] theorem Group.setS_evslot (g : Group) (n : Nat) (x : Word) : (g.setS n x).evslot = g.evslot := rfl
@[simp] theorem Group.setS_evdata (g : Group) (n : Nat) (x : Word) : (g.setS n x).evdata = g.evdata := rfl
@[simp] theorem Group.setS_evcxl (g : Group) (n : Nat) (x : Word) : (g.setS n x).evcxl = g.evcxl := rfl
@[simp] theorem Group.setS_events (g : Group) (n : Nat) (x : Word) : (g.setS n x).events = g.events := rfl
@[simp] theorem Group.setS_mailbox (g : Group) (n : Nat) (x : Word) : (g.setS n x).mailbox = g.mailbox := rfl
@[simp] theorem Group.setS_barriers (g : Group) (n : Nat) (x : Word) : (g.setS n x).barriers = g.barriers := rfl
@[simp] theorem Group.setS_perfReq (g : Group) (n : Nat) (x : Word) : (g.setS n x).perfReq = g.perfReq := rfl
@[simp] theorem Group.setS_stallMem (g : Group) (n : Nat) (x : Word) : (g.setS n x).stallMem = g.stallMem := rfl
@[simp] theorem Group.setS_stallAlu (g : Group) (n : Nat) (x : Word) : (g.setS n x).stallAlu = g.stallAlu := rfl
@[simp] theorem Group.setS_heldTraps (g : Group) (n : Nat) (x : Word) : (g.setS n x).heldTraps = g.heldTraps := rfl
@[simp] theorem Group.setS_heldUntil (g : Group) (n : Nat) (x : Word) : (g.setS n x).heldUntil = g.heldUntil := rfl
@[simp] theorem Group.setS_entering (g : Group) (n : Nat) (x : Word) : (g.setS n x).entering = g.entering := rfl
@[simp] theorem Group.setS_tokens (g : Group) (n : Nat) (x : Word) : (g.setS n x).tokens = g.tokens := rfl
@[simp] theorem Group.setS_backoff (g : Group) (n : Nat) (x : Word) : (g.setS n x).backoff = g.backoff := rfl
@[simp] theorem Group.setS_suspended (g : Group) (n : Nat) (x : Word) : (g.setS n x).suspended = g.suspended := rfl
@[simp] theorem Group.setS_outstanding (g : Group) (n : Nat) (x : Word) : (g.setS n x).outstanding = g.outstanding := rfl
@[simp] theorem Group.setS_late (g : Group) (n : Nat) (x : Word) : (g.setS n x).late = g.late := rfl
@[simp] theorem Group.setS_candA (g : Group) (n : Nat) (x : Word) : (g.setS n x).candA = g.candA := rfl
@[simp] theorem Group.setS_candB (g : Group) (n : Nat) (x : Word) : (g.setS n x).candB = g.candB := rfl
@[simp] theorem Group.setPred_team (g : Group) (n : Nat) (x : Word) : (g.setPred n x).team = g.team := by
  unfold Group.setPred; split <;> rfl
@[simp] theorem Group.setPred_gidx (g : Group) (n : Nat) (x : Word) : (g.setPred n x).gidx = g.gidx := by
  unfold Group.setPred; split <;> rfl
@[simp] theorem Group.setPred_role (g : Group) (n : Nat) (x : Word) : (g.setPred n x).role = g.role := by
  unfold Group.setPred; split <;> rfl
@[simp] theorem Group.setPred_rgroup (g : Group) (n : Nat) (x : Word) : (g.setPred n x).rgroup = g.rgroup := by
  unfold Group.setPred; split <;> rfl
@[simp] theorem Group.setPred_quarter (g : Group) (n : Nat) (x : Word) : (g.setPred n x).quarter = g.quarter := by
  unfold Group.setPred; split <;> rfl
@[simp] theorem Group.setPred_quad (g : Group) (n : Nat) (x : Word) : (g.setPred n x).quad = g.quad := by
  unfold Group.setPred; split <;> rfl
@[simp] theorem Group.setPred_slotA (g : Group) (n : Nat) (x : Word) : (g.setPred n x).slotA = g.slotA := by
  unfold Group.setPred; split <;> rfl
@[simp] theorem Group.setPred_slotB (g : Group) (n : Nat) (x : Word) : (g.setPred n x).slotB = g.slotB := by
  unfold Group.setPred; split <;> rfl
@[simp] theorem Group.setPred_stack (g : Group) (n : Nat) (x : Word) : (g.setPred n x).stack = g.stack := by
  unfold Group.setPred; split <;> rfl
@[simp] theorem Group.setPred_vregs (g : Group) (n : Nat) (x : Word) : (g.setPred n x).vregs = g.vregs := by
  unfold Group.setPred; split <;> rfl
@[simp] theorem Group.setPred_sregs (g : Group) (n : Nat) (x : Word) : (g.setPred n x).sregs = g.sregs := by
  unfold Group.setPred; split <;> rfl
@[simp] theorem Group.setPred_lorigin (g : Group) (n : Nat) (x : Word) : (g.setPred n x).lorigin = g.lorigin := by
  unfold Group.setPred; split <;> rfl
@[simp] theorem Group.setPred_helper (g : Group) (n : Nat) (x : Word) : (g.setPred n x).helper = g.helper := by
  unfold Group.setPred; split <;> rfl
@[simp] theorem Group.setPred_vacant (g : Group) (n : Nat) (x : Word) : (g.setPred n x).vacant = g.vacant := by
  unfold Group.setPred; split <;> rfl
@[simp] theorem Group.setPred_mode (g : Group) (n : Nat) (x : Word) : (g.setPred n x).mode = g.mode := by
  unfold Group.setPred; split <;> rfl
@[simp] theorem Group.setPred_uframe (g : Group) (n : Nat) (x : Word) : (g.setPred n x).uframe = g.uframe := by
  unfold Group.setPred; split <;> rfl
@[simp] theorem Group.setPred_sframe (g : Group) (n : Nat) (x : Word) : (g.setPred n x).sframe = g.sframe := by
  unfold Group.setPred; split <;> rfl
@[simp] theorem Group.setPred_lastS (g : Group) (n : Nat) (x : Word) : (g.setPred n x).lastS = g.lastS := by
  unfold Group.setPred; split <;> rfl
@[simp] theorem Group.setPred_trapvec (g : Group) (n : Nat) (x : Word) : (g.setPred n x).trapvec = g.trapvec := by
  unfold Group.setPred; split <;> rfl
@[simp] theorem Group.setPred_taction (g : Group) (n : Nat) (x : Word) : (g.setPred n x).taction = g.taction := by
  unfold Group.setPred; split <;> rfl
@[simp] theorem Group.setPred_sscr0 (g : Group) (n : Nat) (x : Word) : (g.setPred n x).sscr0 = g.sscr0 := by
  unfold Group.setPred; split <;> rfl
@[simp] theorem Group.setPred_sscr1 (g : Group) (n : Nat) (x : Word) : (g.setPred n x).sscr1 = g.sscr1 := by
  unfold Group.setPred; split <;> rfl
@[simp] theorem Group.setPred_ctxid (g : Group) (n : Nat) (x : Word) : (g.setPred n x).ctxid = g.ctxid := by
  unfold Group.setPred; split <;> rfl
@[simp] theorem Group.setPred_fflags (g : Group) (n : Nat) (x : Word) : (g.setPred n x).fflags = g.fflags := by
  unfold Group.setPred; split <;> rfl
@[simp] theorem Group.setPred_evmask (g : Group) (n : Nat) (x : Word) : (g.setPred n x).evmask = g.evmask := by
  unfold Group.setPred; split <;> rfl
@[simp] theorem Group.setPred_evslot (g : Group) (n : Nat) (x : Word) : (g.setPred n x).evslot = g.evslot := by
  unfold Group.setPred; split <;> rfl
@[simp] theorem Group.setPred_evdata (g : Group) (n : Nat) (x : Word) : (g.setPred n x).evdata = g.evdata := by
  unfold Group.setPred; split <;> rfl
@[simp] theorem Group.setPred_evcxl (g : Group) (n : Nat) (x : Word) : (g.setPred n x).evcxl = g.evcxl := by
  unfold Group.setPred; split <;> rfl
@[simp] theorem Group.setPred_events (g : Group) (n : Nat) (x : Word) : (g.setPred n x).events = g.events := by
  unfold Group.setPred; split <;> rfl
@[simp] theorem Group.setPred_mailbox (g : Group) (n : Nat) (x : Word) : (g.setPred n x).mailbox = g.mailbox := by
  unfold Group.setPred; split <;> rfl
@[simp] theorem Group.setPred_barriers (g : Group) (n : Nat) (x : Word) : (g.setPred n x).barriers = g.barriers := by
  unfold Group.setPred; split <;> rfl
@[simp] theorem Group.setPred_perfReq (g : Group) (n : Nat) (x : Word) : (g.setPred n x).perfReq = g.perfReq := by
  unfold Group.setPred; split <;> rfl
@[simp] theorem Group.setPred_stallMem (g : Group) (n : Nat) (x : Word) : (g.setPred n x).stallMem = g.stallMem := by
  unfold Group.setPred; split <;> rfl
@[simp] theorem Group.setPred_stallAlu (g : Group) (n : Nat) (x : Word) : (g.setPred n x).stallAlu = g.stallAlu := by
  unfold Group.setPred; split <;> rfl
@[simp] theorem Group.setPred_heldTraps (g : Group) (n : Nat) (x : Word) : (g.setPred n x).heldTraps = g.heldTraps := by
  unfold Group.setPred; split <;> rfl
@[simp] theorem Group.setPred_heldUntil (g : Group) (n : Nat) (x : Word) : (g.setPred n x).heldUntil = g.heldUntil := by
  unfold Group.setPred; split <;> rfl
@[simp] theorem Group.setPred_entering (g : Group) (n : Nat) (x : Word) : (g.setPred n x).entering = g.entering := by
  unfold Group.setPred; split <;> rfl
@[simp] theorem Group.setPred_tokens (g : Group) (n : Nat) (x : Word) : (g.setPred n x).tokens = g.tokens := by
  unfold Group.setPred; split <;> rfl
@[simp] theorem Group.setPred_backoff (g : Group) (n : Nat) (x : Word) : (g.setPred n x).backoff = g.backoff := by
  unfold Group.setPred; split <;> rfl
@[simp] theorem Group.setPred_suspended (g : Group) (n : Nat) (x : Word) : (g.setPred n x).suspended = g.suspended := by
  unfold Group.setPred; split <;> rfl
@[simp] theorem Group.setPred_outstanding (g : Group) (n : Nat) (x : Word) : (g.setPred n x).outstanding = g.outstanding := by
  unfold Group.setPred; split <;> rfl
@[simp] theorem Group.setPred_late (g : Group) (n : Nat) (x : Word) : (g.setPred n x).late = g.late := by
  unfold Group.setPred; split <;> rfl
@[simp] theorem Group.setPred_candA (g : Group) (n : Nat) (x : Word) : (g.setPred n x).candA = g.candA := by
  unfold Group.setPred; split <;> rfl
@[simp] theorem Group.setPred_candB (g : Group) (n : Nat) (x : Word) : (g.setPred n x).candB = g.candB := by
  unfold Group.setPred; split <;> rfl
@[simp] theorem Group.setV_team (g : Group) (n : Nat) (X : Word) (y : Nat → Word) : (g.setV n X y).team = g.team := by
  unfold Group.setV; split <;> rfl
@[simp] theorem Group.setV_gidx (g : Group) (n : Nat) (X : Word) (y : Nat → Word) : (g.setV n X y).gidx = g.gidx := by
  unfold Group.setV; split <;> rfl
@[simp] theorem Group.setV_role (g : Group) (n : Nat) (X : Word) (y : Nat → Word) : (g.setV n X y).role = g.role := by
  unfold Group.setV; split <;> rfl
@[simp] theorem Group.setV_rgroup (g : Group) (n : Nat) (X : Word) (y : Nat → Word) : (g.setV n X y).rgroup = g.rgroup := by
  unfold Group.setV; split <;> rfl
@[simp] theorem Group.setV_quarter (g : Group) (n : Nat) (X : Word) (y : Nat → Word) : (g.setV n X y).quarter = g.quarter := by
  unfold Group.setV; split <;> rfl
@[simp] theorem Group.setV_quad (g : Group) (n : Nat) (X : Word) (y : Nat → Word) : (g.setV n X y).quad = g.quad := by
  unfold Group.setV; split <;> rfl
@[simp] theorem Group.setV_slotA (g : Group) (n : Nat) (X : Word) (y : Nat → Word) : (g.setV n X y).slotA = g.slotA := by
  unfold Group.setV; split <;> rfl
@[simp] theorem Group.setV_slotB (g : Group) (n : Nat) (X : Word) (y : Nat → Word) : (g.setV n X y).slotB = g.slotB := by
  unfold Group.setV; split <;> rfl
@[simp] theorem Group.setV_stack (g : Group) (n : Nat) (X : Word) (y : Nat → Word) : (g.setV n X y).stack = g.stack := by
  unfold Group.setV; split <;> rfl
@[simp] theorem Group.setV_sregs (g : Group) (n : Nat) (X : Word) (y : Nat → Word) : (g.setV n X y).sregs = g.sregs := by
  unfold Group.setV; split <;> rfl
@[simp] theorem Group.setV_preds (g : Group) (n : Nat) (X : Word) (y : Nat → Word) : (g.setV n X y).preds = g.preds := by
  unfold Group.setV; split <;> rfl
@[simp] theorem Group.setV_lorigin (g : Group) (n : Nat) (X : Word) (y : Nat → Word) : (g.setV n X y).lorigin = g.lorigin := by
  unfold Group.setV; split <;> rfl
@[simp] theorem Group.setV_helper (g : Group) (n : Nat) (X : Word) (y : Nat → Word) : (g.setV n X y).helper = g.helper := by
  unfold Group.setV; split <;> rfl
@[simp] theorem Group.setV_vacant (g : Group) (n : Nat) (X : Word) (y : Nat → Word) : (g.setV n X y).vacant = g.vacant := by
  unfold Group.setV; split <;> rfl
@[simp] theorem Group.setV_mode (g : Group) (n : Nat) (X : Word) (y : Nat → Word) : (g.setV n X y).mode = g.mode := by
  unfold Group.setV; split <;> rfl
@[simp] theorem Group.setV_uframe (g : Group) (n : Nat) (X : Word) (y : Nat → Word) : (g.setV n X y).uframe = g.uframe := by
  unfold Group.setV; split <;> rfl
@[simp] theorem Group.setV_sframe (g : Group) (n : Nat) (X : Word) (y : Nat → Word) : (g.setV n X y).sframe = g.sframe := by
  unfold Group.setV; split <;> rfl
@[simp] theorem Group.setV_lastS (g : Group) (n : Nat) (X : Word) (y : Nat → Word) : (g.setV n X y).lastS = g.lastS := by
  unfold Group.setV; split <;> rfl
@[simp] theorem Group.setV_trapvec (g : Group) (n : Nat) (X : Word) (y : Nat → Word) : (g.setV n X y).trapvec = g.trapvec := by
  unfold Group.setV; split <;> rfl
@[simp] theorem Group.setV_taction (g : Group) (n : Nat) (X : Word) (y : Nat → Word) : (g.setV n X y).taction = g.taction := by
  unfold Group.setV; split <;> rfl
@[simp] theorem Group.setV_sscr0 (g : Group) (n : Nat) (X : Word) (y : Nat → Word) : (g.setV n X y).sscr0 = g.sscr0 := by
  unfold Group.setV; split <;> rfl
@[simp] theorem Group.setV_sscr1 (g : Group) (n : Nat) (X : Word) (y : Nat → Word) : (g.setV n X y).sscr1 = g.sscr1 := by
  unfold Group.setV; split <;> rfl
@[simp] theorem Group.setV_ctxid (g : Group) (n : Nat) (X : Word) (y : Nat → Word) : (g.setV n X y).ctxid = g.ctxid := by
  unfold Group.setV; split <;> rfl
@[simp] theorem Group.setV_fflags (g : Group) (n : Nat) (X : Word) (y : Nat → Word) : (g.setV n X y).fflags = g.fflags := by
  unfold Group.setV; split <;> rfl
@[simp] theorem Group.setV_evmask (g : Group) (n : Nat) (X : Word) (y : Nat → Word) : (g.setV n X y).evmask = g.evmask := by
  unfold Group.setV; split <;> rfl
@[simp] theorem Group.setV_evslot (g : Group) (n : Nat) (X : Word) (y : Nat → Word) : (g.setV n X y).evslot = g.evslot := by
  unfold Group.setV; split <;> rfl
@[simp] theorem Group.setV_evdata (g : Group) (n : Nat) (X : Word) (y : Nat → Word) : (g.setV n X y).evdata = g.evdata := by
  unfold Group.setV; split <;> rfl
@[simp] theorem Group.setV_evcxl (g : Group) (n : Nat) (X : Word) (y : Nat → Word) : (g.setV n X y).evcxl = g.evcxl := by
  unfold Group.setV; split <;> rfl
@[simp] theorem Group.setV_events (g : Group) (n : Nat) (X : Word) (y : Nat → Word) : (g.setV n X y).events = g.events := by
  unfold Group.setV; split <;> rfl
@[simp] theorem Group.setV_mailbox (g : Group) (n : Nat) (X : Word) (y : Nat → Word) : (g.setV n X y).mailbox = g.mailbox := by
  unfold Group.setV; split <;> rfl
@[simp] theorem Group.setV_barriers (g : Group) (n : Nat) (X : Word) (y : Nat → Word) : (g.setV n X y).barriers = g.barriers := by
  unfold Group.setV; split <;> rfl
@[simp] theorem Group.setV_perfReq (g : Group) (n : Nat) (X : Word) (y : Nat → Word) : (g.setV n X y).perfReq = g.perfReq := by
  unfold Group.setV; split <;> rfl
@[simp] theorem Group.setV_stallMem (g : Group) (n : Nat) (X : Word) (y : Nat → Word) : (g.setV n X y).stallMem = g.stallMem := by
  unfold Group.setV; split <;> rfl
@[simp] theorem Group.setV_stallAlu (g : Group) (n : Nat) (X : Word) (y : Nat → Word) : (g.setV n X y).stallAlu = g.stallAlu := by
  unfold Group.setV; split <;> rfl
@[simp] theorem Group.setV_heldTraps (g : Group) (n : Nat) (X : Word) (y : Nat → Word) : (g.setV n X y).heldTraps = g.heldTraps := by
  unfold Group.setV; split <;> rfl
@[simp] theorem Group.setV_heldUntil (g : Group) (n : Nat) (X : Word) (y : Nat → Word) : (g.setV n X y).heldUntil = g.heldUntil := by
  unfold Group.setV; split <;> rfl
@[simp] theorem Group.setV_entering (g : Group) (n : Nat) (X : Word) (y : Nat → Word) : (g.setV n X y).entering = g.entering := by
  unfold Group.setV; split <;> rfl
@[simp] theorem Group.setV_tokens (g : Group) (n : Nat) (X : Word) (y : Nat → Word) : (g.setV n X y).tokens = g.tokens := by
  unfold Group.setV; split <;> rfl
@[simp] theorem Group.setV_backoff (g : Group) (n : Nat) (X : Word) (y : Nat → Word) : (g.setV n X y).backoff = g.backoff := by
  unfold Group.setV; split <;> rfl
@[simp] theorem Group.setV_suspended (g : Group) (n : Nat) (X : Word) (y : Nat → Word) : (g.setV n X y).suspended = g.suspended := by
  unfold Group.setV; split <;> rfl
@[simp] theorem Group.setV_outstanding (g : Group) (n : Nat) (X : Word) (y : Nat → Word) : (g.setV n X y).outstanding = g.outstanding := by
  unfold Group.setV; split <;> rfl
@[simp] theorem Group.setV_late (g : Group) (n : Nat) (X : Word) (y : Nat → Word) : (g.setV n X y).late = g.late := by
  unfold Group.setV; split <;> rfl
@[simp] theorem Group.setV_candA (g : Group) (n : Nat) (X : Word) (y : Nat → Word) : (g.setV n X y).candA = g.candA := by
  unfold Group.setV; split <;> rfl
@[simp] theorem Group.setV_candB (g : Group) (n : Nat) (X : Word) (y : Nat → Word) : (g.setV n X y).candB = g.candB := by
  unfold Group.setV; split <;> rfl

end Sys2Proof.Machine
end

