-- ==== Sys2Proof/Laws/Memory.lean ====
section
/-! SUPPORT. Every operation of the machine that changes device memory keeps its canonical form; a write to a register window leaves it alone. -/

namespace Sys2Proof.Machine

/-! ## Pasted cells -/

theorem mem_cellSet {w : Nat} {m : Sparse w} {a : Nat} {b : BitVec w} {c : Nat × BitVec w} (h : c ∈ cellSet m a b) :
    c = (a, b) ∨ c ∈ m := by
  by_cases hb : b = 0
  · rw [cellSet, if_pos hb] at h; exact .inr (List.mem_filter.1 h).1
  · rw [cellSet, if_neg hb] at h; exact mem_cellInsert h

theorem cellWf_cellsNormal {w : Nat} (x : Sparse w) : cellWf (cellsNormal x) = true := by
  induction x with
  | nil => rfl
  | cons c x ih => exact cellWf_cellSet _ _ _ ih

theorem mem_cellsNormal {w : Nat} {x : Sparse w} {c : Nat × BitVec w} (h : c ∈ cellsNormal x) : c ∈ x := by
  induction x with
  | nil => exact h
  | cons d x ih =>
    rcases mem_cellSet h with rfl | h
    · exact List.mem_cons_self
    · exact List.mem_cons_of_mem _ (ih h)

theorem cellWf_append {w : Nat} {x y : Sparse w} (hx : cellWf x = true) (hy : cellWf y = true)
    (hl : ∀ c ∈ x, ∀ d ∈ y, c.1 < d.1) : cellWf (x ++ y) = true := by
  induction x with
  | nil => exact hy
  | cons p x ih =>
    obtain ⟨k, b⟩ := p
    refine cellWf_cons (cellWf_head hx) (ih (cellWf_tail hx) fun c hc => hl c (List.mem_cons_of_mem _ hc)) fun c hc => ?_
    rcases List.mem_append.1 hc with hc | hc
    · exact cellWf_lt hx c hc
    · exact hl (k, b) List.mem_cons_self c hc

theorem cellWf_shift {w : Nat} (x : Sparse w) (a : Nat) (h : cellWf x = true) :
    cellWf (x.map fun c => (c.1 + a, c.2)) = true := by
  induction x with
  | nil => rfl
  | cons p x ih =>
    obtain ⟨k, b⟩ := p
    refine cellWf_cons (cellWf_head h) (ih (cellWf_tail h)) fun c hc => ?_
    obtain ⟨d, hd, rfl⟩ := List.mem_map.1 hc
    exact Nat.add_lt_add_right (cellWf_lt h d hd) a

/-- Replacing a span of cells keeps the canonical form. -/
theorem cellWf_cellsPaste {w : Nat} (m : Sparse w) (a n : Nat) (x : Sparse w) (h : cellWf m = true) :
    cellWf (cellsPaste m a n x) = true := by
  have hn : ∀ c ∈ (cellsNormal (x.filter fun c => c.1 < n)).map (fun c => (c.1 + a, c.2)), a ≤ c.1 ∧ c.1 < a + n := by
    intro c hc
    obtain ⟨d, hd, rfl⟩ := List.mem_map.1 hc
    have : d.1 < n := by simpa using (List.mem_filter.1 (mem_cellsNormal hd)).2
    simp only; omega
  refine cellWf_append (cellWf_append (cellWf_filter m _ h) (cellWf_shift _ a (cellWf_cellsNormal _)) ?_) (cellWf_filter m _ h) ?_
  · intro c hc d hd
    have : c.1 < a := by simpa using (List.mem_filter.1 hc).2
    have := hn d hd
    omega
  · intro c hc d hd
    have hd' : a + n ≤ d.1 := by simpa using (List.mem_filter.1 hd).2
    rcases List.mem_append.1 hc with hc | hc
    · have : c.1 < a := by simpa using (List.mem_filter.1 hc).2
      omega
    · have := hn c hc
      omega

/-! ## The machine's memory operations -/

@[simp] theorem State.notify_mem (s : State) (k n : Nat) : (s.notify k n).mem = s.mem := rfl

/-- Bytes replaced by the device (a save, a retake) keep the form. -/
theorem State.putBytes_wf (s : State) (a n : Nat) (x : Sparse 8) (h : Memory.wf s.mem = true) :
    Memory.wf (s.putBytes a n x).mem = true := cellWf_cellsPaste _ _ _ _ h

theorem State.putOwn_wf (s : State) (a n : Nat) (h : Memory.wf s.mem = true) : Memory.wf (s.putOwn a n).mem = true :=
  s.putBytes_wf a n _ h

/-- A write to device DRAM keeps the form. -/
theorem State.writeLoc_dram_wf (s : State) (k : Nat) (bs : List Byte) (h : Memory.wf s.mem = true) :
    Memory.wf (s.writeLoc (.dram k) bs).mem = true := cellWf_cellsSet _ _ _ h

theorem State.writePhys_wf (s : State) (pa n x : Nat) (h : Memory.wf s.mem = true) :
    Memory.wf (s.writePhys pa n x).mem = true := s.writeLoc_dram_wf pa _ h

/-- A byte of device DRAM after a write to device DRAM. -/
theorem State.writeLoc_dram_get (s : State) (k a : Nat) (bs : List Byte) :
    cellGet (w := 8) (s.writeLoc (.dram k) bs).mem a =
      if k ≤ a ∧ a < k + bs.length then bs.getD (a - k) 0 else cellGet (w := 8) s.mem a :=
  cellGet_cellsSet _ _ _ _

@[simp] theorem State.modQuarter_mem (s : State) (t core : Nat) (f : Quarter → Quarter) : (s.modQuarter t core f).mem = s.mem := by
  simp [State.modQuarter]

theorem State.setTopkByte_mem (s : State) (core off : Nat) (b : Byte) : (s.setTopkByte core off b).mem = s.mem := by
  simp only [State.setTopkByte]
  repeat' split
  all_goals simp

/-- A write to a core's window leaves device memory alone. -/
theorem State.setWinBytes_mem (s : State) (core off : Nat) (bs : List Byte) : (s.setWinBytes core off bs).mem = s.mem := by
  have fold : ∀ (f : State → Nat → Byte → State), (∀ t o b, (f t o b).mem = t.mem) → ∀ (bs : List Byte) (t : State) (o : Nat),
      (bs.foldl (fun (acc : State × Nat) b => (f acc.1 acc.2 b, acc.2 + 1)) (t, o)).1.mem = t.mem := by
    intro f hf bs
    induction bs with
    | nil => intro t o; rfl
    | cons b bs ih => intro t o; rw [List.foldl_cons, ih, hf]
  simp only [State.setWinBytes]
  split
  · simp
  · split
    · exact fold (fun t o b => t.modCore core fun c =>
        if o < 0x240000 then
          { c with acc := cellSet c.acc ((o - 0x200000) / 4) (setWordByte (cellGet c.acc ((o - 0x200000) / 4)) (o % 4) b) }
        else
          { c with partials := cellSet c.partials ((o - 0x240000) / 4)
                     (setWordByte (cellGet c.partials ((o - 0x240000) / 4)) (o % 4) b) }) (fun t o b => by simp) bs s off
    · split
      · exact fold (fun t o b => t.setTopkByte core (o - 0x280000) b) (fun t o b => t.setTopkByte_mem _ _ _) bs s off
      · split
        · simp
        · rfl

/-- A write at any place keeps the form. -/
theorem State.writeLoc_wf (s : State) (loc : Loc) (bs : List Byte) (h : Memory.wf s.mem = true) :
    Memory.wf (s.writeLoc loc bs).mem = true := by
  cases loc with
  | dram k => exact s.writeLoc_dram_wf k bs h
  | win c o => rw [State.writeLoc, State.setWinBytes_mem]; exact h

theorem State.writeLocNat_wf (s : State) (loc : Loc) (n x : Nat) (h : Memory.wf s.mem = true) :
    Memory.wf (s.writeLocNat loc n x).mem = true := s.writeLoc_wf loc _ h

theorem State.reset_mem_wf : Memory.wf State.reset.mem = true := rfl

end Sys2Proof.Machine
end

