-- ==== Sys2Proof/Laws/WellFormed.lean ====
section
/-! SUPPORT. Well-formedness of each program word, by computation. -/

namespace Sys2Proof

namespace Instr

@[simp] theorem wf_nop (g : Guard) : (Instr.nop g).wf = (g.wf) := rfl
@[simp] theorem wf_bra (g : Guard) (x1 : BitVec 24) : (Instr.bra g x1).wf = (g.wf) := rfl
@[simp] theorem wf_brx (g : Guard) (a : Operand) : (Instr.brx g a).wf = (g.wf && a.isEvenReg) := rfl
@[simp] theorem wf_call (g : Guard) (d : Operand) (x2 : BitVec 24) : (Instr.call g d x2).wf = (g.wf && d.isEvenReg) := rfl
@[simp] theorem wf_callx (g : Guard) (d : Operand) (a : Operand) : (Instr.callx g d a).wf = (g.wf && d.isEvenReg && a.isEvenReg) := rfl
@[simp] theorem wf_ret (g : Guard) (a : Operand) : (Instr.ret g a).wf = (g.wf && a.isEvenReg) := rfl
@[simp] theorem wf_join  : (Instr.join).wf = (true) := rfl
@[simp] theorem wf_tret  : (Instr.tret).wf = (true) := rfl
@[simp] theorem wf_yield  : (Instr.yield).wf = (true) := rfl
@[simp] theorem wf_exit (g : Guard) : (Instr.exit g).wf = (g.wf) := rfl
@[simp] theorem wf_trap (x0 : BitVec 8) : (Instr.trap x0).wf = (true) := rfl
@[simp] theorem wf_brk (x0 : BitVec 16) : (Instr.brk x0).wf = (true) := rfl
@[simp] theorem wf_sleep (g : Guard) (b : Operand) : (Instr.sleep g b).wf = (g.wf && b.srcI) := rfl
@[simp] theorem wf_iadd (g : Guard) (t : IntType) (x2 : Bool) (d : Operand) (a : Operand) (b : Operand) : (Instr.iadd g t x2 d a b).wf = (g.wf && t.dst d && t.src a && t.srcI b) := rfl
@[simp] theorem wf_isub (g : Guard) (t : IntType) (x2 : Bool) (d : Operand) (a : Operand) (b : Operand) : (Instr.isub g t x2 d a b).wf = (g.wf && t.dst d && t.src a && t.srcI b) := rfl
@[simp] theorem wf_imul (g : Guard) (t : IntType) (d : Operand) (a : Operand) (b : Operand) : (Instr.imul g t d a b).wf = (g.wf && t.dst d && t.src a && t.srcI b) := rfl
@[simp] theorem wf_imulh (g : Guard) (t : IntType) (d : Operand) (a : Operand) (b : Operand) : (Instr.imulh g t d a b).wf = (g.wf && t.dst d && t.src a && t.srcI b) := rfl
@[simp] theorem wf_imin (g : Guard) (t : IntType) (d : Operand) (a : Operand) (b : Operand) : (Instr.imin g t d a b).wf = (g.wf && t.dst d && t.src a && t.srcI b) := rfl
@[simp] theorem wf_imax (g : Guard) (t : IntType) (d : Operand) (a : Operand) (b : Operand) : (Instr.imax g t d a b).wf = (g.wf && t.dst d && t.src a && t.srcI b) := rfl
@[simp] theorem wf_imad (g : Guard) (t : IntType) (d : Operand) (a : Operand) (b : Operand) (c : Operand) : (Instr.imad g t d a b c).wf = (g.wf && t.dst d && t.src a && t.src b && t.src c) := rfl
@[simp] theorem wf_imadw (g : Guard) (t : IntType) (d : Operand) (a : Operand) (b : Operand) (c : Operand) : (Instr.imadw g t d a b c).wf = (g.wf && !t.is64 && d.isEvenReg && a.src && b.src && c.src64) := rfl
@[simp] theorem wf_iabs (g : Guard) (t : IntType) (x2 : Bool) (d : Operand) (a : Operand) : (Instr.iabs g t x2 d a).wf = (g.wf && t.signed && t.dst d && t.src a) := rfl
@[simp] theorem wf_ineg (g : Guard) (t : IntType) (x2 : Bool) (d : Operand) (a : Operand) : (Instr.ineg g t x2 d a).wf = (g.wf && t.signed && t.dst d && t.src a) := rfl
@[simp] theorem wf_iaddc (g : Guard) (x1 : Bool) (n : Nat) (d : Operand) (a : Operand) (b : Operand) : (Instr.iaddc g x1 n d a b).wf = (g.wf && 1 ≤ n && n < 8 && d.isReg && a.src && b.src) := rfl
@[simp] theorem wf_idot4 (g : Guard) (x1 : Bool) (x2 : Bool) (x3 : Bool) (d : Operand) (a : Operand) (b : Operand) (c : Operand) : (Instr.idot4 g x1 x2 x3 d a b c).wf = (g.wf && d.isReg && a.src && b.src && c.src) := rfl
@[simp] theorem wf_and (g : Guard) (t : IntType) (d : Operand) (a : Operand) (b : Operand) : (Instr.and g t d a b).wf = (g.wf && t.logic && t.dst d && t.src a && t.srcI b) := rfl
@[simp] theorem wf_or (g : Guard) (t : IntType) (d : Operand) (a : Operand) (b : Operand) : (Instr.or g t d a b).wf = (g.wf && t.logic && t.dst d && t.src a && t.srcI b) := rfl
@[simp] theorem wf_xor (g : Guard) (t : IntType) (d : Operand) (a : Operand) (b : Operand) : (Instr.xor g t d a b).wf = (g.wf && t.logic && t.dst d && t.src a && t.srcI b) := rfl
@[simp] theorem wf_andn (g : Guard) (t : IntType) (d : Operand) (a : Operand) (b : Operand) : (Instr.andn g t d a b).wf = (g.wf && t.logic && t.dst d && t.src a && t.srcI b) := rfl
@[simp] theorem wf_shl (g : Guard) (t : IntType) (d : Operand) (a : Operand) (b : Operand) : (Instr.shl g t d a b).wf = (g.wf && t.logic && t.dst d && t.src a && b.srcI) := rfl
@[simp] theorem wf_shr (g : Guard) (t : IntType) (d : Operand) (a : Operand) (b : Operand) : (Instr.shr g t d a b).wf = (g.wf && t.logic && t.dst d && t.src a && b.srcI) := rfl
@[simp] theorem wf_sar (g : Guard) (t : IntType) (d : Operand) (a : Operand) (b : Operand) : (Instr.sar g t d a b).wf = (g.wf && t.signed && t.dst d && t.src a && b.srcI) := rfl
@[simp] theorem wf_rot (g : Guard) (t : IntType) (x2 : Bool) (d : Operand) (a : Operand) (b : Operand) : (Instr.rot g t x2 d a b).wf = (g.wf && t.logic && t.dst d && t.src a && b.srcI) := rfl
@[simp] theorem wf_bfx (g : Guard) (t : IntType) (d : Operand) (a : Operand) (b : Operand) : (Instr.bfx g t d a b).wf = (g.wf && !t.is64 && d.isReg && a.src && b.srcI) := rfl
@[simp] theorem wf_bfi (g : Guard) (d : Operand) (a : Operand) (b : Operand) (c : Operand) : (Instr.bfi g d a b c).wf = (g.wf && d.isReg && a.src && b.src && c.src) := rfl
@[simp] theorem wf_popc (g : Guard) (t : IntType) (d : Operand) (a : Operand) : (Instr.popc g t d a).wf = (g.wf && t.logic && d.isReg && t.src a) := rfl
@[simp] theorem wf_clz (g : Guard) (t : IntType) (d : Operand) (a : Operand) : (Instr.clz g t d a).wf = (g.wf && t.logic && d.isReg && t.src a) := rfl
@[simp] theorem wf_ctz (g : Guard) (t : IntType) (d : Operand) (a : Operand) : (Instr.ctz g t d a).wf = (g.wf && t.logic && d.isReg && t.src a) := rfl
@[simp] theorem wf_brev (g : Guard) (t : IntType) (d : Operand) (a : Operand) : (Instr.brev g t d a).wf = (g.wf && t.logic && t.dst d && t.src a) := rfl
@[simp] theorem wf_perm (g : Guard) (d : Operand) (a : Operand) (b : Operand) (c : Operand) : (Instr.perm g d a b c).wf = (g.wf && d.isReg && a.src && b.src && c.src) := rfl
@[simp] theorem wf_mov (g : Guard) (t : IntType) (d : Operand) (b : Operand) : (Instr.mov g t d b).wf = (g.wf && t.dst d && t.srcI b) := rfl
@[simp] theorem wf_movh (g : Guard) (d : Operand) (x2 : BitVec 16) : (Instr.movh g d x2).wf = (g.wf && d.isReg) := rfl
@[simp] theorem wf_sel (g : Guard) (t : IntType) (neg : Bool) (n : Nat) (d : Operand) (a : Operand) (b : Operand) : (Instr.sel g t neg n d a b).wf = (g.wf && t.logic && n < 8 && t.dst d && t.src a && t.srcI b && (!b.isImm || (!neg && n == 0))) := rfl
@[simp] theorem wf_icmp (g : Guard) (t : IntType) (c : Cond) (x3 : Comb) (n : Nat) (a : Operand) (b : Operand) : (Instr.icmp g t c x3 n a b).wf = (g.wf && c != .un && c != .ord && 1 ≤ n && n < 8 && t.src a && t.src b) := rfl
@[simp] theorem wf_lea (g : Guard) (x1 : Bool) (d : Operand) (m : MemArg) : (Instr.lea g x1 d m).wf = (g.wf && d.isEvenReg && m.wf) := rfl
@[simp] theorem wf_fadd (g : Guard) (x1 : Rnd) (d : Operand) (a : Operand) (b : Operand) : (Instr.fadd g x1 d a b).wf = (g.wf && d.isReg && a.src && b.srcI) := rfl
@[simp] theorem wf_fmul (g : Guard) (x1 : Rnd) (d : Operand) (a : Operand) (b : Operand) : (Instr.fmul g x1 d a b).wf = (g.wf && d.isReg && a.src && b.srcI) := rfl
@[simp] theorem wf_ffma (g : Guard) (x1 : Rnd) (d : Operand) (a : Operand) (b : Operand) (c : Operand) : (Instr.ffma g x1 d a b c).wf = (g.wf && d.isReg && a.src && b.src && c.src) := rfl
@[simp] theorem wf_fmin (g : Guard) (d : Operand) (a : Operand) (b : Operand) : (Instr.fmin g d a b).wf = (g.wf && d.isReg && a.src && b.srcI) := rfl
@[simp] theorem wf_fmax (g : Guard) (d : Operand) (a : Operand) (b : Operand) : (Instr.fmax g d a b).wf = (g.wf && d.isReg && a.src && b.srcI) := rfl
@[simp] theorem wf_frnd (g : Guard) (x1 : Rnd) (d : Operand) (a : Operand) : (Instr.frnd g x1 d a).wf = (g.wf && d.isReg && a.src) := rfl
@[simp] theorem wf_fscale (g : Guard) (x1 : Rnd) (d : Operand) (a : Operand) (b : Operand) : (Instr.fscale g x1 d a b).wf = (g.wf && d.isReg && a.src && b.srcI) := rfl
@[simp] theorem wf_frcp (g : Guard) (x1 : Rnd) (d : Operand) (a : Operand) : (Instr.frcp g x1 d a).wf = (g.wf && d.isReg && a.src) := rfl
@[simp] theorem wf_frsq (g : Guard) (x1 : Rnd) (d : Operand) (a : Operand) : (Instr.frsq g x1 d a).wf = (g.wf && d.isReg && a.src) := rfl
@[simp] theorem wf_fsqrt (g : Guard) (x1 : Rnd) (d : Operand) (a : Operand) : (Instr.fsqrt g x1 d a).wf = (g.wf && d.isReg && a.src) := rfl
@[simp] theorem wf_fexp2 (g : Guard) (x1 : Rnd) (d : Operand) (a : Operand) : (Instr.fexp2 g x1 d a).wf = (g.wf && d.isReg && a.src) := rfl
@[simp] theorem wf_flog2 (g : Guard) (x1 : Rnd) (d : Operand) (a : Operand) : (Instr.flog2 g x1 d a).wf = (g.wf && d.isReg && a.src) := rfl
@[simp] theorem wf_fsin (g : Guard) (x1 : Rnd) (d : Operand) (a : Operand) : (Instr.fsin g x1 d a).wf = (g.wf && d.isReg && a.src) := rfl
@[simp] theorem wf_fcos (g : Guard) (x1 : Rnd) (d : Operand) (a : Operand) : (Instr.fcos g x1 d a).wf = (g.wf && d.isReg && a.src) := rfl
@[simp] theorem wf_fcmp (g : Guard) (x1 : Cond) (x2 : Comb) (n : Nat) (a : Operand) (b : Operand) : (Instr.fcmp g x1 x2 n a b).wf = (g.wf && 1 ≤ n && n < 8 && a.src && b.src) := rfl
@[simp] theorem wf_fclass (g : Guard) (d : Operand) (a : Operand) : (Instr.fclass g d a).wf = (g.wf && d.isReg && a.src) := rfl
@[simp] theorem wf_hadd2 (g : Guard) (x1 : Bool) (x2 : Rnd) (d : Operand) (a : Operand) (b : Operand) : (Instr.hadd2 g x1 x2 d a b).wf = (g.wf && d.isReg && a.src && b.srcI) := rfl
@[simp] theorem wf_hmul2 (g : Guard) (x1 : Bool) (x2 : Rnd) (d : Operand) (a : Operand) (b : Operand) : (Instr.hmul2 g x1 x2 d a b).wf = (g.wf && d.isReg && a.src && b.srcI) := rfl
@[simp] theorem wf_hfma2 (g : Guard) (x1 : Bool) (x2 : Rnd) (d : Operand) (a : Operand) (b : Operand) (c : Operand) : (Instr.hfma2 g x1 x2 d a b c).wf = (g.wf && d.isReg && a.src && b.src && c.src) := rfl
@[simp] theorem wf_hminmax2 (g : Guard) (x1 : Bool) (x2 : Bool) (d : Operand) (a : Operand) (b : Operand) : (Instr.hminmax2 g x1 x2 d a b).wf = (g.wf && d.isReg && a.src && b.srcI) := rfl
@[simp] theorem wf_cvt (g : Guard) (dt : NumType) (sty : NumType) (x : Bool) (sat : Bool) (x5 : Rnd) (d : Operand) (a : Operand) : (Instr.cvt g dt sty x sat x5 d a).wf = (g.wf && !dt.isPacked && !sty.isPacked && (!x || sty == .s32) && (!sat || dt.satOk) && (if dt.is64 then d.isEvenReg else d.isReg) && (if !x && sty.is64 then a.src64 else a.src) && (!a.isInline || !(x || sty == .e4m3 || sty == .e5m2 || sty == .e2m1))) := rfl
@[simp] theorem wf_pack (g : Guard) (e : NumType) (k : Nat) (sat : Bool) (x4 : Rnd) (d : Operand) (a : Operand) (b : Operand) (c : Operand) : (Instr.pack g e k sat x4 d a b c).wf = (g.wf && e.packWidth != 0 && k < 8 && (2 * k + 1 < 32 / e.packWidth) && (!sat || e.packSatOk) && d.isReg && a.src && b.src && c.src) := rfl
@[simp] theorem wf_unpack (g : Guard) (e : NumType) (k : Nat) (d : Operand) (a : Operand) : (Instr.unpack g e k d a).wf = (g.wf && e.packWidth != 0 && k < 32 / e.packWidth && d.isReg && a.src) := rfl
@[simp] theorem wf_vtest (g : Guard) (c : VCond) (x2 : Comb) (step : Bool) (n : Nat) (d : Operand) (a : Operand) (b : Operand) : (Instr.vtest g c x2 step n d a b).wf = (g.wf && 1 ≤ n && n < 8 && (if step then d.isReg else d == Operand.zeroField) && a.src && (if c == .dec then b == Operand.zeroField else b.src)) := rfl
@[simp] theorem wf_vsel (g : Guard) (d : Operand) (a : Operand) (b : Operand) (c : Operand) : (Instr.vsel g d a b c).wf = (g.wf && d.isReg && a.src && b.src && c.src) := rfl
@[simp] theorem wf_pairWord (h0 : Half) (h1 : Half) : (Instr.pairWord h0 h1).wf = (h0.wf && h1.wf && pairLegal h0 h1) := rfl
@[simp] theorem wf_plop (g : Guard) (pd : Nat) (pa : Nat) (pb : Nat) (x4 : BitVec 4) : (Instr.plop g pd pa pb x4).wf = (g.wf && 1 ≤ pd && pd < 8 && pa < 8 && pb < 8) := rfl
@[simp] theorem wf_pmov (g : Guard) (dir : PmovDir) (n : Nat) (x : Operand) : (Instr.pmov g dir n x).wf = (g.wf && n < 8 && PmovDir.operandOk dir n x) := rfl
@[simp] theorem wf_vote (g : Guard) (x1 : VoteMode) (x2 : Bool) (n : Nat) (d : Operand) : (Instr.vote g x1 x2 n d).wf = (g.wf && n < 8 && d.isReg) := rfl
@[simp] theorem wf_shfl (g : Guard) (x1 : ShflMode) (w : Bool) (v : Nat) (seg : Nat) (d : Operand) (a : Operand) (b : Operand) : (Instr.shfl g x1 w v seg d a b).wf = (g.wf && v < 8 && seg ≤ 5 && (if w then d.isEvenReg && a.src64 else d.isReg && a.src) && b.srcI && (!b.isImm || (v == 0 && seg == 0))) := rfl
@[simp] theorem wf_scan (g : Guard) (op : ScanOp) (t : ScanType) (x3 : Bool) (r : Rnd) (d : Operand) (a : Operand) : (Instr.scan g op t x3 r d a).wf = (g.wf && d.isReg && a.src && (r == .rne || (t == .f32 && op == .add)) && (t != .f32 || op == .add || op == .min || op == .max)) := rfl
@[simp] theorem wf_redux (g : Guard) (op : ScanOp) (t : ScanType) (r : Rnd) (d : Operand) (a : Operand) : (Instr.redux g op t r d a).wf = (g.wf && d.isReg && a.src && (r == .rne || (t == .f32 && op == .add)) && (t != .f32 || op == .add || op == .min || op == .max)) := rfl
@[simp] theorem wf_matchLanes (g : Guard) (all : Bool) (w : Bool) (n : Nat) (d : Operand) (a : Operand) : (Instr.matchLanes g all w n d a).wf = (g.wf && n < 8 && (all || n == 0) && d.isReg && (if w then a.src64 else a.src)) := rfl
@[simp] theorem wf_lread (g : Guard) (w : Bool) (d : Operand) (a : Operand) (b : Operand) : (Instr.lread g w d a b).wf = (g.wf && (if w then d.isEvenReg && a.isEvenV else d.isReg && a.isV) && (b.isS || b.isUniformSpecial || b.isInline || b.isImm)) := rfl
@[simp] theorem wf_regroup (x0 : Bool) (d : Operand) (vF : Operand) (vL : Operand) : (Instr.regroup x0 d vF vL).wf = (d.isReg && ((vF == Operand.zeroSpecial && vL == Operand.zeroSpecial) || Operand.vRange vF vL)) := rfl
@[simp] theorem wf_ld (g : Guard) (x1 : Bool) (sz : MemSize) (acq : Bool) (sc : Scope) (d : Operand) (m : MemArg) : (Instr.ld g x1 sz acq sc d m).wf = (g.wf && sz.reg d && (acq || sc == .dflt) && m.wf) := rfl
@[simp] theorem wf_st (g : Guard) (x1 : Bool) (sz : MemSize) (rel : Bool) (sc : Scope) (d : Operand) (m : MemArg) : (Instr.st g x1 sz rel sc d m).wf = (g.wf && sz != .i8 && (sz.reg d || d == Operand.zeroSpecial || d.isInline) && (rel || sc == .dflt) && m.wf) := rfl
@[simp] theorem wf_ldb (g : Guard) (sz : Nat) (acq : Bool) (sc : Scope) (d : Operand) (m : MemArg) : (Instr.ldb g sz acq sc d m).wf = (g.wf && sz ≤ 5 && (acq || sc == .dflt) && Operand.ldbDst sz d && (m.base.isEvenS || m.base == Operand.zeroSpecial) && m.index == Operand.zeroSpecial && m.scale ≤ 4) := rfl
@[simp] theorem wf_pref (g : Guard) (x1 : PrefLevel) (m : MemArg) : (Instr.pref g x1 m).wf = (g.wf && m.wf) := rfl
@[simp] theorem wf_cacheWb (g : Guard) (m : MemArg) : (Instr.cacheWb g m).wf = (g.wf && m.wf) := rfl
@[simp] theorem wf_cacheWbinv (g : Guard) (m : MemArg) : (Instr.cacheWbinv g m).wf = (g.wf && m.wf) := rfl
@[simp] theorem wf_cacheZero (g : Guard) (m : MemArg) : (Instr.cacheZero g m).wf = (g.wf && m.wf) := rfl
@[simp] theorem wf_fence (x0 : FenceKind) (sc : Scope) : (Instr.fence x0 sc).wf = (sc != .dflt) := rfl
@[simp] theorem wf_cacheIinv (g : Guard) : (Instr.cacheIinv g).wf = (g.wf) := rfl
@[simp] theorem wf_cacheL1wb (g : Guard) : (Instr.cacheL1wb g).wf = (g.wf) := rfl
@[simp] theorem wf_atom (g : Guard) (op : AtomOp) (x2 : Ord) (x3 : Scope) (d : Operand) (m : MemArg) : (Instr.atom g op x2 x3 d m).wf = (g.wf && op.dst d && m.wf) := rfl
@[simp] theorem wf_red (g : Guard) (op : AtomOp) (x2 : Bool) (x3 : Scope) (d : Operand) (m : MemArg) : (Instr.red g op x2 x3 d m).wf = (g.wf && op.redDst d && m.wf) := rfl
@[simp] theorem wf_mwait (g : Guard) (x1 : MonCond) (w : Bool) (x3 : Bool) (x4 : Scope) (d : Operand) (m : MemArg) : (Instr.mwait g x1 w x3 x4 d m).wf = (g.wf && (if w then d.isEvenReg else d.isReg || d.isInline) && m.wf) := rfl
@[simp] theorem wf_vdrop (vF : Operand) (vL : Operand) : (Instr.vdrop vF vL).wf = (Operand.vRange vF vL) := rfl
@[simp] theorem wf_barArrive (g : Guard) (d : Operand) (a : Operand) (b : Operand) : (Instr.barArrive g d a b).wf = (g.wf && d.isReg && a.src && b.srcI) := rfl
@[simp] theorem wf_barDrop (g : Guard) (d : Operand) (a : Operand) (b : Operand) : (Instr.barDrop g d a b).wf = (g.wf && d.isReg && a.src && b.src) := rfl
@[simp] theorem wf_barExpect (g : Guard) (d : Operand) (a : Operand) (b : Operand) : (Instr.barExpect g d a b).wf = (g.wf && d.isReg && a.src && b.src) := rfl
@[simp] theorem wf_barTest (g : Guard) (d : Operand) (a : Operand) (b : Operand) : (Instr.barTest g d a b).wf = (g.wf && d.isReg && a.src && b.src) := rfl
@[simp] theorem wf_barJoin (g : Guard) (d : Operand) (a : Operand) : (Instr.barJoin g d a).wf = (g.wf && d.isReg && a.src) := rfl
@[simp] theorem wf_barWait (g : Guard) (a : Operand) (b : Operand) : (Instr.barWait g a b).wf = (g.wf && a.src && b.src) := rfl
@[simp] theorem wf_barSync (g : Guard) (a : Operand) (b : Operand) : (Instr.barSync g a b).wf = (g.wf && a.src && b.src) := rfl
@[simp] theorem wf_tbarSync (g : Guard) (t : Nat) : (Instr.tbarSync g t).wf = (g.wf && t < 8) := rfl
@[simp] theorem wf_tbarArrive (g : Guard) (t : Nat) (d : Operand) : (Instr.tbarArrive g t d).wf = (g.wf && t < 8 && d.isReg) := rfl
@[simp] theorem wf_tbarWait (g : Guard) (t : Nat) (b : Operand) : (Instr.tbarWait g t b).wf = (g.wf && t < 8 && b.srcI && (!b.isImm || t == 0)) := rfl
@[simp] theorem wf_tbarTest (g : Guard) (t : Nat) (d : Operand) (b : Operand) : (Instr.tbarTest g t d b).wf = (g.wf && t < 8 && d.isReg && b.srcI && (!b.isImm || t == 0)) := rfl
@[simp] theorem wf_evarm (g : Guard) (k : EvKind) (slot : Nat) (c : EvCond) (t : IntType) (a : Operand) (b : Operand) (h : Operand) : (Instr.evarm g k slot c t a b h).wf = (g.wf && slot < 16 && (k == .mon || (c == .eq && t == .s32)) && EvKind.objectOk k a && EvKind.targetOk k t b && (h.isReg || h.isUniformSpecial || h.isInline)) := rfl
@[simp] theorem wf_evdis (g : Guard) (d : Operand) (b : Operand) : (Instr.evdis g d b).wf = (g.wf && d.isReg && b.srcI) := rfl
@[simp] theorem wf_waitany (b : Operand) : (Instr.waitany b).wf = (b.isReg || b.isInline || b.isImm) := rfl
@[simp] theorem wf_mbox (g : Guard) (x1 : Bool) (tag : BitVec 8) (d : Operand) (a : Operand) (p : Operand) : (Instr.mbox g x1 tag d a p).wf = (g.wf && tag != 255 && d.isReg && a.src && p.isQuadReg) := rfl
@[simp] theorem wf_kick (g : Guard) (a : Operand) (b : Operand) : (Instr.kick g a b).wf = (g.wf && a.src && b.srcI) := rfl
@[simp] theorem wf_regionRing (g : Guard) (h : Nat) (d : Operand) (a : Operand) (b : Operand) : (Instr.regionRing g h d a b).wf = (g.wf && h < 16 && d.isReg && a.src && b.srcI && (!b.isImm || h == 0)) := rfl
@[simp] theorem wf_regionWindow (g : Guard) (h : Nat) (d : Operand) (a : Operand) (b : Operand) : (Instr.regionWindow g h d a b).wf = (g.wf && h < 16 && d.isReg && a.src && b.src) := rfl
@[simp] theorem wf_regionAbsent (g : Guard) (h : Nat) (d : Operand) : (Instr.regionAbsent g h d).wf = (g.wf && h < 16 && d.isReg) := rfl
@[simp] theorem wf_regionPresent (g : Guard) (h : Nat) (d : Operand) : (Instr.regionPresent g h d).wf = (g.wf && h < 16 && d.isReg) := rfl
@[simp] theorem wf_regionFree (g : Guard) (h : Nat) (d : Operand) : (Instr.regionFree g h d).wf = (g.wf && h < 16 && d.isReg) := rfl
@[simp] theorem wf_racqFill (g : Guard) (h : Nat) (x2 : Bool) (d : Operand) : (Instr.racqFill g h x2 d).wf = (g.wf && h < 16 && d.isReg) := rfl
@[simp] theorem wf_racqFree (g : Guard) (h : Nat) (x2 : Bool) (d : Operand) : (Instr.racqFree g h x2 d).wf = (g.wf && h < 16 && d.isReg) := rfl
@[simp] theorem wf_rpub (g : Guard) (h : Nat) (a : Operand) : (Instr.rpub g h a).wf = (g.wf && h < 16 && a.src) := rfl
@[simp] theorem wf_rrel (g : Guard) (h : Nat) (a : Operand) : (Instr.rrel g h a).wf = (g.wf && h < 16 && a.src) := rfl
@[simp] theorem wf_mclaim (g : Guard) (d : Operand) (a : Operand) (b : Operand) : (Instr.mclaim g d a b).wf = (g.wf && d.isReg && a.uni && b.uniI) := rfl
@[simp] theorem wf_mrel (g : Guard) (a : Operand) (b : Operand) : (Instr.mrel g a b).wf = (g.wf && a.uni && b.uniI) := rfl
@[simp] theorem wf_mstage (g : Guard) (a : Operand) (b : Operand) : (Instr.mstage g a b).wf = (g.wf && a.isV && b.uni) := rfl
@[simp] theorem wf_mread (g : Guard) (d : Operand) (a : Operand) : (Instr.mread g d a).wf = (g.wf && d.isV && a.uni) := rfl
@[simp] theorem wf_mzero (g : Guard) (b : Operand) : (Instr.mzero g b).wf = (g.wf && b.uniI) := rfl
@[simp] theorem wf_mloop (g : Guard) (ta : NumType) (tb : NumType) (sc : Bool) (x4 : Bool) (a : Operand) (b : Operand) (c : Operand) : (Instr.mloop g ta tb sc x4 a b c).wf = (g.wf && mloopTypes ta tb sc && a.uni && b.uni && c.uni) := rfl
@[simp] theorem wf_msca (g : Guard) (a : Operand) (b : Operand) (c : Operand) : (Instr.msca g a b c).wf = (g.wf && a.uni && b.isEvenV && c.isEvenV) := rfl
@[simp] theorem wf_mdrain (g : Guard) (op : DrainOp) (ord : Bool) (sc : Scope) (x4 : Bool) (a : Operand) (b : Operand) (c : Operand) : (Instr.mdrain g op ord sc x4 a b c).wf = (g.wf && (!ord || op == .add) && sc != .grp && sc != .team && a.isEvenReg && b.uni && c.uni) := rfl
@[simp] theorem wf_msyncWait (g : Guard) (d : Operand) (b : Operand) : (Instr.msyncWait g d b).wf = (g.wf && d.isReg && b.uniI) := rfl
@[simp] theorem wf_msyncStat (g : Guard) (d : Operand) : (Instr.msyncStat g d).wf = (g.wf && d.isReg) := rfl
@[simp] theorem wf_vcfg (g : Guard) (p : VPred) (audit : Bool) (reset : Bool) (a : Operand) (b : Operand) : (Instr.vcfg g p audit reset a b).wf = (g.wf && (!reset || p == .topk) && (!audit || p != .none) && a.uni && (if p == .none then b == Operand.zeroSpecial else b.uni)) := rfl
@[simp] theorem wf_topk (g : Guard) (a : Operand) (b : Operand) (c : Operand) : (Instr.topk g a b c).wf = (g.wf && a.uni && b.uni && c.uni) := rfl
@[simp] theorem wf_topkmMerge (g : Guard) (a : Operand) (b : Operand) : (Instr.topkmMerge g a b).wf = (g.wf && a.uni && b.isEvenReg) := rfl
@[simp] theorem wf_topkmStore (g : Guard) (a : Operand) (b : Operand) : (Instr.topkmStore g a b).wf = (g.wf && a.uni && b.isEvenReg) := rfl
@[simp] theorem wf_topkr (g : Guard) (d : Operand) (a : Operand) (b : Operand) : (Instr.topkr g d a b).wf = (g.wf && d.isV && a.uni && b.uniI) := rfl
@[simp] theorem wf_vthr (g : Guard) (a : Operand) (b : Operand) : (Instr.vthr g a b).wf = (g.wf && a.uni && b.uniI) := rfl
@[simp] theorem wf_trace (g : Guard) (sn : Nat) (d : Operand) (a : Operand) (b : Operand) (c : Operand) : (Instr.trace g sn d a b c).wf = (g.wf && sn < 32 && d.isV && a.pool && (b.isReg || b.isInline) && (c.isS || c.isInline)) := rfl
@[simp] theorem wf_psalloc (g : Guard) (d : Operand) (a : Operand) : (Instr.psalloc g d a).wf = (g.wf && d.isReg && a.pool) := rfl
@[simp] theorem wf_sqpop (g : Guard) (x1 : StageQ) (d : Operand) (a : Operand) : (Instr.sqpop g x1 d a).wf = (g.wf && d.isReg && a.pool) := rfl
@[simp] theorem wf_psfree (g : Guard) (d : Operand) (a : Operand) (b : Operand) : (Instr.psfree g d a b).wf = (g.wf && d.isReg && a.pool && (b.isReg || b.isInline)) := rfl
@[simp] theorem wf_sqpush (g : Guard) (x1 : StageQ) (d : Operand) (a : Operand) (b : Operand) : (Instr.sqpush g x1 d a b).wf = (g.wf && d.isReg && a.pool && (b.isReg || b.isInline)) := rfl
@[simp] theorem wf_tex (g : Guard) (m : DMode) (d : Operand) (a : Operand) (b : Operand) (c : Operand) : (Instr.tex g m d a b c).wf = (g.wf && d.isV && b.isEvenS && (c.isV || c == Operand.zeroSpecial) && DMode.coordOk m a) := rfl
@[simp] theorem wf_texg (g : Guard) (m : DMode) (ch : Nat) (d : Operand) (a : Operand) (b : Operand) (c : Operand) : (Instr.texg g m ch d a b c).wf = (g.wf && ch < 4 && d.isV && b.isEvenS && (c.isV || c == Operand.zeroSpecial) && DMode.coordOk m a) := rfl
@[simp] theorem wf_texqLod (g : Guard) (m : DMode) (d : Operand) (a : Operand) (b : Operand) : (Instr.texqLod g m d a b).wf = (g.wf && d.isV && b.isEvenS && DMode.coordOk m a) := rfl
@[simp] theorem wf_texqDims (g : Guard) (d : Operand) (a : Operand) (b : Operand) : (Instr.texqDims g d a b).wf = (g.wf && d.isV && (a.isReg || a.isInline) && b.isEvenS) := rfl
@[simp] theorem wf_attr (g : Guard) (n : Nat) (a0 : Nat) (d : Operand) (a : Operand) (b : Operand) : (Instr.attr g n a0 d a b).wf = (g.wf && 1 ≤ n && n ≤ 16 && a0 < 16 && d.isV && a.isV && b.isEvenS) := rfl
@[simp] theorem wf_fback (g : Guard) (d : Operand) (a : Operand) (b : Operand) : (Instr.fback g d a b).wf = (g.wf && d.isReg && a.isEvenS && b.isReg) := rfl
@[simp] theorem wf_csrr (g : Guard) (w : CsrWidth) (d : Operand) (x3 : BitVec 12) : (Instr.csrr g w d x3).wf = (g.wf && (if w == .d then d.isEvenReg else d.isReg)) := rfl
@[simp] theorem wf_csrw (g : Guard) (w : CsrWidth) (x2 : BitVec 12) (a : Operand) : (Instr.csrw g w x2 a).wf = (g.wf && (if w == .d then a.src64 else a.src)) := rfl
@[simp] theorem wf_csrx (g : Guard) (x1 : CsrOp) (w : CsrWidth) (d : Operand) (x4 : BitVec 12) (a : Operand) : (Instr.csrx g x1 w d x4 a).wf = (g.wf && (if w == .d then d.isEvenReg && a.src64 else d.isReg && a.src)) := rfl
@[simp] theorem wf_setperf (g : Guard) (d : Operand) (a : Operand) (b : Operand) : (Instr.setperf g d a b).wf = (g.wf && d.isReg && a.src && b.srcI) := rfl
@[simp] theorem wf_launch (g : Guard) (d : Operand) (a : Operand) (b : Operand) : (Instr.launch g d a b).wf = (g.wf && d.isReg && a.src && b.isEvenReg) := rfl
@[simp] theorem wf_tlbi (g : Guard) (m : TlbiMode) (a : Operand) : (Instr.tlbi g m a).wf = (g.wf && (if m == .page then a.isEvenReg else a == Operand.zeroField)) := rfl
@[simp] theorem wf_trapack (g : Guard) (d : Operand) (a : Operand) : (Instr.trapack g d a).wf = (g.wf && d.isReg && a.src) := rfl
@[simp] theorem wf_unassignedOpcode (w : DWord) : (Instr.unassignedOpcode w).wf = (w.toNat / 2 ^ 60 == 0 && !opAssigned (w.toNat / 2 ^ 52)) := rfl

end Instr

end Sys2Proof
end

