-- ==== Sys2Proof/Laws/Words.lean ====
section
/-! SUPPORT. Laws of the shared operations of program words: what a register write leaves, how a word ends, and what the shared word
shapes answer. -/

namespace Sys2Proof.Machine

/-! ## Registers after a write -/

theorem Group.v_of_vregs {g g' : Group} (h : g'.vregs = g.vregs) (n l : Nat) : g'.v n l = g.v n l := by simp [Group.v, h]

theorem Group.bound_of_vregs {g g' : Group} (h : g'.vregs = g.vregs) (n : Nat) : g'.bound n = g.bound n := by simp [Group.bound, h]

theorem Group.v_setV_same (g : Group) (n : Nat) (X : Word) (f : Nat → Word) (l : Nat) (hl : l < 32) :
    (g.setV n X f).v n l = if X.getLsbD l then f l else g.v n l := by
  by_cases hX : X = 0
  · subst hX; simp [Group.setV]
  · have key : (laneList.map fun l => if X.getLsbD l then f l else g.v n l).getD l 0 = if X.getLsbD l then f l else g.v n l := by
      simp [laneList, hl]
    have e : ∀ (r : VReg) (g' : Group), g'.vregs = tabSet g.vregs n r →
        r.lanes = (laneList.map fun l => if X.getLsbD l then f l else g.v n l) → g'.v n l = if X.getLsbD l then f l else g.v n l := by
      intro r g' h1 h2
      have : g'.v n l = r.lanes.getD l 0 := by simp only [Group.v, h1, tabGet?_tabSet_same]
      rw [this, h2, key]
    unfold Group.setV
    rw [if_neg hX]
    exact e _ _ rfl rfl

theorem Group.v_setV_ne (g : Group) {n m : Nat} (X : Word) (f : Nat → Word) (l : Nat) (h : m ≠ n) :
    (g.setV n X f).v m l = g.v m l := by
  unfold Group.setV
  split
  · rfl
  · simp only [Group.v, tabGet?_tabSet_ne _ _ h]

theorem Group.bound_setV_same (g : Group) (n : Nat) (X : Word) (f : Nat → Word) :
    (g.setV n X f).bound n = (g.bound n || X != 0) := by
  by_cases hX : X = 0
  · subst hX; simp [Group.setV]
  · have h' : (X != 0) = true := by simpa using hX
    unfold Group.setV
    rw [if_neg hX, h']
    simp only [Group.bound, tabGet?_tabSet_same]; simp

theorem Group.bound_setV_ne (g : Group) {n m : Nat} (X : Word) (f : Nat → Word) (h : m ≠ n) :
    (g.setV n X f).bound m = g.bound m := by
  unfold Group.setV
  split
  · rfl
  · simp only [Group.bound, tabGet?_tabSet_ne _ _ h]

theorem Group.sreg_setS_same (g : Group) (n : Nat) (x : Word) (h : n < 32) : (g.setS n x).sreg n = x := by
  simp [Group.setS, Group.sreg, h]

theorem Group.sreg_setS_ne (g : Group) {n m : Nat} (x : Word) (hm : m < 32) (h : m ≠ n) : (g.setS n x).sreg m = g.sreg m := by
  simp [Group.setS, Group.sreg, hm, h]

theorem Group.pred_setPred_same (g : Group) (n : Nat) (x : Word) (h : 0 < n) (h8 : n < 8) : (g.setPred n x).pred n = x := by
  have h0 : n ≠ 0 := by omega
  have h1 : n - 1 < 7 := by omega
  have h2 : n - 1 + 1 = n := by omega
  simp [Group.setPred, Group.pred, h0, h1, h2]

theorem Group.pred_setPred_ne (g : Group) {n m : Nat} (x : Word) (h8 : m < 8) (h : m ≠ n) : (g.setPred n x).pred m = g.pred m := by
  unfold Group.setPred
  split
  · rfl
  · by_cases hm : m = 0
    · simp [Group.pred, hm]
    · have h1 : m - 1 < 7 := by omega
      have h2 : m - 1 + 1 = m := by omega
      have e : ∀ g' : Group, g'.preds = ((List.range 7).map fun k => if k + 1 = n then x else g.pred (k + 1)) → g'.pred m = g.pred m := by
        intro g' hg; simp only [Group.pred, hm, if_false, hg]
        simp [h1, h2, h]
      exact e _ rfl

/-! ## What a destination write leaves -/

/-- What a 32-bit write can do to a group: it touches the registers alone. -/
theorem Group.put32_cases (g : Group) (d : Operand) (X : Word) (f : Nat → Word) :
    ∃ vr sr, g.put32 d X f = { g with vregs := vr, sregs := sr } := by
  unfold Group.put32
  split
  · rename_i n
    refine ⟨(g.setV n X f).vregs, g.sregs, ?_⟩
    unfold Group.setV
    split <;> rfl
  · split
    · exact ⟨g.vregs, _, rfl⟩
    · exact ⟨g.vregs, g.sregs, rfl⟩
  · exact ⟨g.vregs, g.sregs, rfl⟩

open Claim in
theorem wrote_put32 (g : Group) (d : Operand) (X : Word) (f : Nat → Word) (h : d.isReg = true) : Wrote g (g.put32 d X f) d X f := by
  cases d with
  | v n => exact ⟨fun l hl => Group.v_setV_same g n X f l hl, Group.bound_setV_same g n X f⟩
  | s n =>
    have hn : n < 32 := by simpa [Operand.isReg, Operand.isV, Operand.isS] using h
    simp only [Wrote, Group.put32]
    cases lowLane X with
    | none => rfl
    | some l => exact Group.sreg_setS_same g n (f l) hn
  | special k => simp [Operand.isReg, Operand.isV, Operand.isS] at h
  | imm k => simp [Operand.isReg, Operand.isV, Operand.isS] at h
  | inline k => simp [Operand.isReg, Operand.isV, Operand.isS] at h

open Claim in
theorem regsKept_put32 (g : Group) (d : Operand) (X : Word) (f : Nat → Word) : RegsKept g (g.put32 d X f) [d] := by
  cases d with
  | v n =>
    refine ⟨fun m hm => ?_, fun m hm _ => by simp [Group.put32, Group.sreg]⟩
    have : m ≠ n := by intro e; apply hm; simp [e]
    exact ⟨Group.bound_setV_ne g X f this, fun l => Group.v_setV_ne g X f l this⟩
  | s n =>
    simp only [RegsKept, Group.put32]
    cases lowLane X with
    | none => simp
    | some l =>
      refine ⟨fun m _ => ⟨rfl, fun l => rfl⟩, fun m hm h => ?_⟩
      have : m ≠ n := by intro e; apply h; simp [e]
      exact Group.sreg_setS_ne g (f l) hm this
  | special k => exact ⟨fun _ _ => ⟨rfl, fun _ => rfl⟩, fun _ _ _ => rfl⟩
  | imm k => exact ⟨fun _ _ => ⟨rfl, fun _ => rfl⟩, fun _ _ _ => rfl⟩
  | inline k => exact ⟨fun _ _ => ⟨rfl, fun _ => rfl⟩, fun _ _ _ => rfl⟩

open Claim in
theorem RegsKept.refl (g : Group) (ds : List Operand) : RegsKept g g ds := ⟨fun _ _ => ⟨rfl, fun _ => rfl⟩, fun _ _ _ => rfl⟩

open Claim in
theorem RegsKept.trans {g g' g'' : Group} {ds es : List Operand} (h : RegsKept g g' ds) (h' : RegsKept g' g'' es) :
    RegsKept g g'' (ds ++ es) := by
  refine ⟨fun n hn => ?_, fun n hn hm => ?_⟩
  · simp only [List.mem_append, not_or] at hn
    exact ⟨((h'.1 n hn.2).1).trans (h.1 n hn.1).1, fun l => ((h'.1 n hn.2).2 l).trans ((h.1 n hn.1).2 l)⟩
  · simp only [List.mem_append, not_or] at hm
    exact (h'.2 n hn hm.2).trans (h.2 n hn hm.1)

/-- A write of one register leaves what was written to another. -/
theorem wrote_of_kept {g g' g'' : Group} {d : Operand} {X : Word} {f : Nat → Word} {ds : List Operand} (hd : d.isReg = true)
    (h : Claim.Wrote g g' d X f) (hk : Claim.RegsKept g' g'' ds) (hn : d ∉ ds) : Claim.Wrote g g'' d X f := by
  cases d with
  | v n => exact ⟨fun l hl => ((hk.1 n hn).2 l).trans (h.1 l hl), (hk.1 n hn).1.trans h.2⟩
  | s n =>
    have hn' : n < 32 := by simpa [Operand.isReg, Operand.isV, Operand.isS] using hd
    exact (hk.2 n hn' hn).trans h
  | special k => exact h
  | imm k => exact h
  | inline k => exact h

/-- Registers of `g` may be read in `g'` instead, when it has the same. -/
theorem wrote_of_same {g g' h : Group} {d : Operand} {X : Word} {f : Nat → Word} (hd : d.isReg = true)
    (hk : Claim.RegsKept h g []) (hw : Claim.Wrote g g' d X f) : Claim.Wrote h g' d X f := by
  cases d with
  | v n =>
    have e := hk.1 n (by simp)
    exact ⟨fun l hl => by rw [hw.1 l hl, e.2 l], by rw [hw.2, e.1]⟩
  | s n =>
    have hn' : n < 32 := by simpa [Operand.isReg, Operand.isV, Operand.isS] using hd
    have e := hk.2 n hn' (by simp)
    simp only [Claim.Wrote] at hw ⊢
    rw [hw, e]
  | special k => exact hw
  | imm k => exact hw
  | inline k => exact hw

theorem evenReg_isReg {d : Operand} (h : d.isEvenReg = true) : d.isReg = true ∧ (Operand.next d 1).isReg = true ∧
    Operand.next d 1 ≠ d := by
  cases d <;> simp [Operand.isEvenReg, Operand.isReg, Operand.isV, Operand.isS, Operand.next] at h ⊢ <;> omega

/-- A write of one destination whose old value is read in an earlier group. -/
theorem wrote_put32_after {g h : Group} (d : Operand) (X : Word) (f : Nat → Word) (hd : d.isReg = true) {ds : List Operand}
    (hk : Claim.RegsKept h g ds) (hn : d ∉ ds) : Claim.Wrote h (g.put32 d X f) d X f := by
  have hw := wrote_put32 g d X f hd
  cases d with
  | v n =>
    have e := hk.1 n hn
    exact ⟨fun l hl => by rw [hw.1 l hl, e.2 l], by rw [hw.2, e.1]⟩
  | s n =>
    have hn' : n < 32 := by simpa [Operand.isReg, Operand.isV, Operand.isS] using hd
    have e := hk.2 n hn' hn
    simp only [Claim.Wrote] at hw ⊢
    rw [hw, e]
  | special k => exact hw
  | imm k => exact hw
  | inline k => exact hw

theorem wrote64_put64 (g : Group) (d : Operand) (X : Word) (f : Nat → DWord) (h : d.isEvenReg = true) :
    Claim.Wrote64 g (g.put64 d X f) d X f := by
  obtain ⟨h1, h2, h3⟩ := evenReg_isReg h
  refine ⟨wrote_of_kept h1 (wrote_put32 g d X _ h1) (regsKept_put32 _ _ X _) (by simpa using Ne.symm h3), ?_⟩
  exact wrote_put32_after _ X _ h2 (regsKept_put32 g d X _) (by simpa using h3)

theorem regsKept_put64 (g : Group) (d : Operand) (X : Word) (f : Nat → DWord) :
    Claim.RegsKept g (g.put64 d X f) [d, Operand.next d 1] :=
  RegsKept.trans (ds := [d]) (es := [Operand.next d 1]) (regsKept_put32 g d X _) (regsKept_put32 _ _ X _)

/-! ## The end of a word -/

theorem State.issuing_spec {s : State} {i : Issue} (h : s.issuing = some i) :
    s.group? i.key = some i.grp ∧ i.grp.slot i.b = some i.part ∧ s.team? i.grp.team = some i.team ∧ i.key = s.issuer ∧ i.b = s.slotB := by
  unfold State.issuing at h
  split at h
  · cases h
  · rename_i grp hg
    split at h
    · rename_i part team hp ht
      cases h
      exact ⟨hg, hp, ht, rfl, rfl⟩
    · cases h

@[simp] theorem State.group?_setGroup_same (s : State) (k : Nat) (g : Group) : (s.setGroup k g).group? k = some g := by
  simp [State.group?, State.setGroup]

theorem State.group?_setGroup_ne (s : State) {k j : Nat} (g : Group) (h : j ≠ k) : (s.setGroup k g).group? j = s.group? j := by
  simp [State.group?, State.setGroup, tabGet?_tabSet_ne _ _ h]

@[simp] theorem State.setGroup_setGroup (s : State) (k : Nat) (g g' : Group) : (s.setGroup k g).setGroup k g' = s.setGroup k g' := by
  simp [State.setGroup]

theorem State.modGroup_eq {s : State} {k : Nat} {g : Group} (h : s.group? k = some g) (f : Group → Group) :
    s.modGroup k f = s.setGroup k (f g) := by
  simp [State.modGroup, h]

theorem onIssue_eq {s : State} {i : Issue} (h : s.issuing = some i) (f : Issue → Done) :
    onIssue s f = .next (s.commit i (f i)) := by
  simp [onIssue, h]

/-- A slot that goes on: its group, as `g'` leaves it, with the slot at the next word. -/
theorem commit_next_mod {s : State} {i : Issue} (h : s.issuing = some i) (f : Group → Group) :
    s.commit i (.next (s.modGroup i.key f)) = s.setGroup i.key ((f i.grp).advance i.b) := by
  have hg := (State.issuing_spec h).1
  rw [State.modGroup_eq hg]
  simp [State.commit, State.modGroup]

/-- A word shaped by `laneWord` whose registers fit completes. -/
theorem laneWord_next {s : State} {i : Issue} {g : Guard} {ds : List Operand} {put : Issue → Word → Group → Group}
    (h : s.issuing = some i) (hb : i.budget (i.lanes g) ds = none) :
    laneWord s g ds put = .next (s.setGroup i.key ((put i (i.lanes g) i.grp).advance i.b)) := by
  rw [laneWord, onIssue_eq h]
  simp only [hb]
  rw [commit_next_mod h]

/-- A word shaped by `laneWord` whose registers do not fit takes the register-budget trap (R110). -/
theorem laneWord_trap {s : State} {i : Issue} {g : Guard} {ds : List Operand} {put : Issue → Word → Group → Group} {t : Trap}
    (h : s.issuing = some i) (hb : i.budget (i.lanes g) ds = some t) :
    laneWord s g ds put = .next (s.takeTrap s i.key i.b t) := by
  rw [laneWord, onIssue_eq h]
  simp only [hb, State.commit]

/-- A word shaped by `floatWord` without a verdict word among its operands completes. -/
theorem floatWord_next {s : State} {i : Issue} {g : Guard} {d : Operand} {os : List Operand} {f : Issue → Nat → Nat × Nat}
    (h : s.issuing = some i) (hv : i.verdictTrap (i.lanes g) (i.anyVerdict os) = none) (hb : i.budget (i.lanes g) [d] = none) :
    floatWord s g d os f = .next (s.setGroup i.key
      (((i.grp.put32 d (i.lanes g) fun l => BitVec.ofNat 32 (f i l).1).addFlags (orFlags (i.lanes g) fun l => (f i l).2)).advance i.b)) := by
  rw [floatWord, onIssue_eq h]
  simp only [hv, hb]
  rw [commit_next_mod h]

/-- No verdict trap, no verdict word in an executing lane. -/
theorem verdictTrap_none {i : Issue} {X : Word} {bad : Nat → Bool} :
    i.verdictTrap X bad = none ↔ ∀ l, X.getLsbD l = true → bad l = false := by
  unfold Issue.verdictTrap
  constructor
  · intro h l hl
    cases hf : (lanesOf X).find? bad with
    | some k => rw [hf] at h; cases h
    | none => simpa using List.find?_eq_none.1 hf l (mem_lanesOf.2 hl)
  · intro h
    have : (lanesOf X).find? bad = none := List.find?_eq_none.2 fun l hl => by simpa using h l (mem_lanesOf.1 hl)
    rw [this]

/-! ## Advancing -/

@[simp] theorem Group.slot_setSlot_same (g : Group) (b : Bool) (p : Option Part) : (g.setSlot b p).slot b = p := by cases b <;> rfl

@[simp] theorem Group.slot_setSlot_other (g : Group) (b : Bool) (p : Option Part) : (g.setSlot b p).slot (!b) = g.slot (!b) := by
  cases b <;> rfl

/-- What a word that writes registers and goes on leaves: the shared end of every completion. -/
theorem completes_of {s : State} {i : Issue} {o : Host.Outcome State Fault Refusal} {ds : List Operand} {ns : List Nat} {fl : Word}
    {res : Group → Prop} {g' : Group} (hi : s.issuing = some i) (ho : o = .next (s.setGroup i.key (g'.advance i.b)))
    (hrest : ∃ vr sr pr, g' = { i.grp with vregs := vr, sregs := sr, preds := pr, fflags := i.grp.fflags ||| fl })
    (hres : ∀ h : Group, h.vregs = g'.vregs → h.sregs = g'.sregs → h.preds = g'.preds → h.fflags = g'.fflags → res h)
    (hk : Claim.RegsKept i.grp g' ds) (hp : Claim.PredsKept i.grp g' ns) : Claim.Completes s i o ds ns fl res := by
  obtain ⟨hg, hs, -, -, -⟩ := State.issuing_spec hi
  have hsl : ∀ c, g'.slot c = i.grp.slot c := by obtain ⟨vr, sr, pr, rfl⟩ := hrest; intro c; cases c <;> rfl
  refine ⟨g'.advance i.b, ho, fun a => rfl, ?_, ?_, ?_, ?_, ⟨?_, ?_⟩, ?_⟩
  · exact hres _ (by simp [Group.advance]) (by simp [Group.advance]) (by simp [Group.advance]) (by simp [Group.advance])
  · exact ⟨fun n hn => ⟨(Group.bound_of_vregs (by simp [Group.advance]) n).trans (hk.1 n hn).1,
      fun l => (Group.v_of_vregs (by simp [Group.advance]) n l).trans ((hk.1 n hn).2 l)⟩,
      fun n hn hm => by rw [← hk.2 n hn hm]; simp [Group.advance, Group.sreg]⟩
  · intro n hn hm; rw [← hp n hn hm]; simp [Group.advance, Group.pred]
  · obtain ⟨vr, sr, pr, rfl⟩ := hrest; simp [Group.advance]
  · obtain ⟨vr, sr, pr, rfl⟩ := hrest
    unfold Group.advance
    cases i.b <;> rfl
  · rw [Group.advance, Group.slot_setSlot_other]; exact hsl _
  · rw [Claim.WentOn, Group.advance, Group.slot_setSlot_same, hsl, hs]; rfl

/-! ## How a word ends -/

/-- A word that goes on, its group being `g'` in the state it leaves. -/
theorem ends_of {s t : State} {i : Issue} {g' : Group} {f : Issue → Done} (h : s.issuing = some i) (hf : f i = .next t)
    (hg : t.group? i.key = some g') (hs : g'.slot i.b = some i.part) : Claim.Ends i (onIssue s f) t g' := by
  rw [onIssue_eq h, hf]
  simp [State.commit, State.modGroup_eq hg, Group.advance, hs, Claim.Ends]

/-- A word that changes its group by `f` and goes on. -/
theorem ends_of_mod {s : State} {i : Issue} {f : Issue → Done} {k : Group → Group} (h : s.issuing = some i)
    (hf : f i = .next (s.modGroup i.key k)) (hs : (k i.grp).slot i.b = some i.part) : Claim.Ends i (onIssue s f) s (k i.grp) := by
  have hg := (State.issuing_spec h).1
  rw [onIssue_eq h, hf]
  simp [State.commit, State.modGroup_eq hg, Group.advance, hs, Claim.Ends, State.modGroup_eq (State.group?_setGroup_same s i.key _)]

/-- A word that parks. -/
theorem parks_of {s t : State} {i : Issue} {g' : Group} {f : Issue → Done} {w : Wait} (h : s.issuing = some i) (hf : f i = .park w t)
    (hg : t.group? i.key = some g') (hs : g'.slot i.b = some i.part) : Claim.Parks i (onIssue s f) t g' w := by
  rw [onIssue_eq h, hf]
  simp [State.commit, State.modGroup_eq hg, hs, Claim.Parks]

/-- A word that traps. -/
theorem traps_of {s t : State} {i : Issue} {f : Issue → Done} {tr : Trap} (h : s.issuing = some i) (hf : f i = .trap tr t) :
    onIssue s f = .next (s.takeTrap t i.key i.b tr) := by
  rw [onIssue_eq h, hf]
  rfl

/-- A word that has set the parts of its group itself. -/
theorem moved_of {s t : State} {i : Issue} {f : Issue → Done} (h : s.issuing = some i) (hf : f i = .moved t) : onIssue s f = .next t := by
  rw [onIssue_eq h, hf]
  rfl

end Sys2Proof.Machine
end

