-- ==== Sys2Proof/Laws/Shapes.lean ====
section
/-! SUPPORT. What each shared shape of a data word leaves when it completes: one lemma for each shape. -/

namespace Sys2Proof.Machine

open Claim

theorem PredsKept.refl (g : Group) (ns : List Nat) : PredsKept g g ns := fun _ _ _ => rfl

theorem predsKept_of_preds {g g' : Group} (h : g'.preds = g.preds) (ns : List Nat) : PredsKept g g' ns :=
  fun n _ _ => by simp [Group.pred, h]

theorem Wrote.congr {g g' h : Group} {d : Operand} {X : Word} {f : Nat → Word} (hw : Wrote g g' d X f)
    (hv : h.vregs = g'.vregs) (hs : h.sregs = g'.sregs) : Wrote g h d X f := by
  cases d with
  | v n => exact ⟨fun l hl => (Group.v_of_vregs hv n l).trans (hw.1 l hl), (Group.bound_of_vregs hv n).trans hw.2⟩
  | s n => have : h.sreg n = g'.sreg n := by simp [Group.sreg, hs]
           exact this.trans hw
  | special k => exact hw
  | imm k => exact hw
  | inline k => exact hw

theorem Wrote64.congr {g g' h : Group} {d : Operand} {X : Word} {f : Nat → DWord} (hw : Wrote64 g g' d X f)
    (hv : h.vregs = g'.vregs) (hs : h.sregs = g'.sregs) : Wrote64 g h d X f := ⟨Wrote.congr hw.1 hv hs, Wrote.congr hw.2 hv hs⟩

theorem rest_put32 (g : Group) (d : Operand) (X : Word) (f : Nat → Word) :
    ∃ vr sr pr, g.put32 d X f = { g with vregs := vr, sregs := sr, preds := pr, fflags := g.fflags ||| 0 } := by
  obtain ⟨vr, sr, h⟩ := Group.put32_cases g d X f
  exact ⟨vr, sr, g.preds, by rw [h]; simp⟩

theorem rest_put64 (g : Group) (d : Operand) (X : Word) (f : Nat → DWord) :
    ∃ vr sr pr, g.put64 d X f = { g with vregs := vr, sregs := sr, preds := pr, fflags := g.fflags ||| 0 } := by
  unfold Group.put64
  obtain ⟨vr, sr, h⟩ := Group.put32_cases g d X fun l => lo32 (f l)
  rw [h]
  obtain ⟨vr', sr', h'⟩ := Group.put32_cases { g with vregs := vr, sregs := sr } (Operand.next d 1) X fun l => hi32 (f l)
  exact ⟨vr', sr', g.preds, by rw [h']; simp⟩

theorem preds_put32 (g : Group) (d : Operand) (X : Word) (f : Nat → Word) : (g.put32 d X f).preds = g.preds := by
  obtain ⟨vr, sr, h⟩ := Group.put32_cases g d X f; rw [h]

theorem preds_put64 (g : Group) (d : Operand) (X : Word) (f : Nat → DWord) : (g.put64 d X f).preds = g.preds := by
  rw [Group.put64, preds_put32, preds_put32]

/-- A word that writes one 32-bit register. -/
theorem lane32_completes {s : State} {i : Issue} {g : Guard} {d : Operand} {f : Issue → Word → Nat → Word}
    (hi : s.issuing = some i) (hd : d.isReg = true) (hb : i.budget (i.lanes g) [d] = none) :
    Completes s i (laneWord s g [d] fun i X gr => gr.put32 d X (f i X)) [d] [] 0
      fun g' => Wrote i.grp g' d (i.lanes g) (f i (i.lanes g)) :=
  completes_of hi (laneWord_next hi hb) (rest_put32 _ _ _ _)
    (fun _ hv hs _ _ => Wrote.congr (wrote_put32 i.grp d _ _ hd) hv hs) (regsKept_put32 _ _ _ _)
    (predsKept_of_preds (preds_put32 _ _ _ _) _)

/-- A word that writes one 64-bit register pair. -/
theorem lane64_completes {s : State} {i : Issue} {g : Guard} {d : Operand} {f : Issue → Word → Nat → DWord}
    (hi : s.issuing = some i) (hd : d.isEvenReg = true) (hb : i.budget (i.lanes g) (typeDests true d) = none) :
    Completes s i (laneWord s g (typeDests true d) fun i X gr => gr.put64 d X (f i X)) (typeDests true d) [] 0
      fun g' => Wrote64 i.grp g' d (i.lanes g) (f i (i.lanes g)) :=
  completes_of hi (laneWord_next hi hb) (rest_put64 _ _ _ _)
    (fun _ hv hs _ _ => Wrote64.congr (wrote64_put64 i.grp d _ _ hd) hv hs) (regsKept_put64 _ _ _ _)
    (predsKept_of_preds (preds_put64 _ _ _ _) _)

/-- A word whose result is an integer under a type. -/
theorem intWord_completes {s : State} {i : Issue} {g : Guard} {t : IntType} {d : Operand} {f : Issue → Nat → Int}
    (hi : s.issuing = some i) (hd : t.dst d = true) (hb : i.budget (i.lanes g) (typeDests t.is64 d) = none) :
    Completes s i (intWord s g t.is64 d f) (typeDests t.is64 d) [] 0 fun g' => WroteInt i.grp g' t d (i.lanes g) (f i) := by
  unfold WroteInt intWord
  cases h : t.is64 with
  | true =>
    rw [h] at hb
    simp only [IntType.dst, h, if_true] at hd
    exact lane64_completes (f := fun i _ l => BitVec.ofInt 64 (f i l)) hi hd hb
  | false =>
    rw [h] at hb
    simp only [IntType.dst, h] at hd
    exact lane32_completes (f := fun i _ l => BitVec.ofInt 32 (f i l)) hi hd hb

/-- A word whose result is 32 bits. -/
theorem wordWord_completes {s : State} {i : Issue} {g : Guard} {d : Operand} {f : Issue → Nat → Word}
    (hi : s.issuing = some i) (hd : d.isReg = true) (hb : i.budget (i.lanes g) [d] = none) :
    Completes s i (wordWord s g d f) [d] [] 0 fun g' => Wrote i.grp g' d (i.lanes g) (f i) :=
  lane32_completes (f := fun i _ => f i) hi hd hb

/-- A word whose result is a bit pattern of the type's width. -/
theorem bitWord_completes {s : State} {i : Issue} {g : Guard} {t : IntType} {d : Operand} {f : Issue → Nat → Word}
    {f' : Issue → Nat → DWord} (hi : s.issuing = some i) (hd : t.dst d = true)
    (hb : i.budget (i.lanes g) (typeDests t.is64 d) = none) :
    Completes s i (bitWord s g t d f f') (typeDests t.is64 d) [] 0
      fun g' => WroteBits i.grp g' t d (i.lanes g) (f i) (f' i) := by
  unfold WroteBits bitWord
  cases h : t.is64 with
  | true =>
    rw [h] at hb
    simp only [IntType.dst, h, if_true] at hd
    exact lane64_completes (f := fun i _ => f' i) hi hd hb
  | false =>
    rw [h] at hb
    simp only [IntType.dst, h] at hd
    exact lane32_completes (f := fun i _ => f i) hi hd hb

/-- A word that writes 32 bits and FFLAGS. -/
theorem floatWord_completes {s : State} {i : Issue} {g : Guard} {d : Operand} {os : List Operand} {f : Issue → Nat → Nat × Nat}
    (hi : s.issuing = some i) (hd : d.isReg = true)
    (hv : ∀ l, (i.lanes g).getLsbD l = true → i.anyVerdict os l = false) (hb : i.budget (i.lanes g) [d] = none) :
    Completes s i (floatWord s g d os f) [d] [] (BitVec.ofNat 32 (orFlags (i.lanes g) fun l => (f i l).2))
      fun g' => Wrote i.grp g' d (i.lanes g) fun l => BitVec.ofNat 32 (f i l).1 := by
  refine completes_of hi (floatWord_next hi (verdictTrap_none.2 hv) hb) ?_ ?_ ?_ ?_
  · obtain ⟨vr, sr, h⟩ := Group.put32_cases i.grp d (i.lanes g) fun l => BitVec.ofNat 32 (f i l).1
    exact ⟨vr, sr, i.grp.preds, by rw [h]; rfl⟩
  · intro h hv' hs _ _
    exact Wrote.congr (wrote_put32 i.grp d (i.lanes g) (fun l => BitVec.ofNat 32 (f i l).1) hd) hv' hs
  · exact regsKept_put32 i.grp d (i.lanes g) _
  · exact predsKept_of_preds (preds_put32 i.grp d (i.lanes g) _) _

/-! ## Predicates -/

theorem wrotePred_putPred (g : Group) (n : Nat) (X : Word) (f : Nat → Bool) (h : 0 < n) (h8 : n < 8) :
    WrotePred g (g.putPred n X f) n X f := by
  intro l hl
  rw [Group.putPred, Group.pred_setPred_same _ _ _ h h8]
  simp only [BitVec.getLsbD_or, BitVec.getLsbD_and, BitVec.getLsbD_not, getLsbD_maskOf, hl, decide_true, Bool.true_and]
  cases X.getLsbD l <;> simp

theorem putPred_cases (g : Group) (n : Nat) (X : Word) (f : Nat → Bool) :
    ∃ pr, g.putPred n X f = { g with preds := pr } := by
  unfold Group.putPred Group.setPred
  split
  · exact ⟨g.preds, rfl⟩
  · exact ⟨_, rfl⟩

theorem predsKept_putPred (g : Group) (n : Nat) (X : Word) (f : Nat → Bool) : PredsKept g (g.putPred n X f) [n] := by
  intro m hm hn
  exact Group.pred_setPred_ne g _ hm (by simpa using hn)

/-- A word that writes one predicate and, as `fl` says, FFLAGS. -/
theorem predWord_completes {s : State} {i : Issue} {g : Guard} {n : Nat} {f : Issue → Word → Nat → Bool} {fl : Issue → Word → Nat}
    (hi : s.issuing = some i) (h : 0 < n) (h8 : n < 8) (hb : i.budget (i.lanes g) [] = none) :
    Completes s i (laneWord s g [] fun i X gr => (gr.putPred n X (f i X)).addFlags (fl i X)) [] [n]
      (BitVec.ofNat 32 (fl i (i.lanes g))) fun g' => WrotePred i.grp g' n (i.lanes g) (f i (i.lanes g)) := by
  refine completes_of hi (laneWord_next hi hb) ?_ ?_ ?_ ?_
  · obtain ⟨pr, e⟩ := putPred_cases i.grp n (i.lanes g) (f i (i.lanes g))
    exact ⟨i.grp.vregs, i.grp.sregs, pr, by rw [e]; rfl⟩
  · intro k _ _ hp _ l hl
    have := wrotePred_putPred i.grp n (i.lanes g) (f i (i.lanes g)) h h8 l hl
    simpa [Group.pred, hp, Group.addFlags] using this
  · obtain ⟨pr, e⟩ := putPred_cases i.grp n (i.lanes g) (f i (i.lanes g))
    rw [e]; exact ⟨fun _ _ => ⟨rfl, fun _ => rfl⟩, fun _ _ _ => rfl⟩
  · exact predsKept_putPred i.grp n (i.lanes g) (f i (i.lanes g))

/-- With no vector register to bind there is no budget trap (R110). -/
theorem budget_nil (i : Issue) (X : Word) : i.budget X [] = none := by simp [Issue.budget, Issue.vdests]

/-! ## The shapes with the case that their registers do not fit -/

theorem fits_lane {s : State} {i : Issue} {g : Guard} {ds : List Operand} {put : Issue → Word → Group → Group} {P : Prop}
    (hi : s.issuing = some i) (h : i.budget (i.lanes g) ds = none → P) : Fits s i g ds (laneWord s g ds put) P :=
  ⟨h, fun _ hb => laneWord_trap hi hb⟩

theorem doesInt_of {s : State} {i : Issue} {g : Guard} {t : IntType} {d : Operand} {f : Issue → Nat → Int} {f' : Nat → Int}
    (hi : s.issuing = some i) (hd : t.dst d = true) (he : f i = f') : DoesInt s i g t d (intWord s g t.is64 d f) f' := by
  subst he
  exact fits_lane hi fun hb => intWord_completes hi hd hb

theorem doesBits_of {s : State} {i : Issue} {g : Guard} {t : IntType} {d : Operand} {f : Issue → Nat → Word} {f' : Issue → Nat → DWord}
    {h : Nat → Word} {h' : Nat → DWord} (hi : s.issuing = some i) (hd : t.dst d = true) (he : f i = h) (he' : f' i = h') :
    DoesBits s i g t d (bitWord s g t d f f') h h' := by
  subst he he'
  exact fits_lane hi fun hb => bitWord_completes hi hd hb

theorem doesWord_of {s : State} {i : Issue} {g : Guard} {d : Operand} {f : Issue → Nat → Word} {f' : Nat → Word}
    (hi : s.issuing = some i) (hd : d.isReg = true) (he : f i = f') : DoesWord s i g d (wordWord s g d f) f' := by
  subst he
  exact fits_lane hi fun hb => wordWord_completes hi hd hb

theorem doesFloat_of {s : State} {i : Issue} {g : Guard} {d : Operand} {os : List Operand} {f : Issue → Nat → Nat × Nat}
    {f' : Nat → Nat × Nat} (hi : s.issuing = some i) (hd : d.isReg = true) (he : f i = f') :
    DoesFloat s i g d os (floatWord s g d os f) f' := by
  subst he
  refine ⟨fun t ht => ?_, fun hv => ⟨fun hb => floatWord_completes hi hd (verdictTrap_none.1 hv) hb, fun t hb => ?_⟩⟩
  · rw [Traps, floatWord, onIssue_eq hi]; simp only [ht, State.commit]
  · rw [Traps, floatWord, onIssue_eq hi]; simp only [hv, hb, State.commit]

theorem doesPred_of {s : State} {i : Issue} {g : Guard} {n : Nat} {f : Issue → Nat → Bool} {fl : Issue → Nat → Nat}
    (hi : s.issuing = some i) (h : 0 < n) (h8 : n < 8) :
    DoesPred s i g n (laneWord s g [] fun i X gr => (gr.putPred n X (f i)).addFlags (orFlags X (fl i))) (fl i) (f i) :=
  predWord_completes (f := fun i _ => f i) (fl := fun i X => orFlags X (fl i)) hi h h8 (budget_nil _ _)

theorem orFlags_zero (X : Word) : orFlags X (fun _ => 0) = 0 := by
  unfold orFlags
  induction lanesOf X with
  | nil => rfl
  | cons a l ih => simpa using ih

theorem addFlags_zero (g : Group) : g.addFlags 0 = g := by simp [Group.addFlags]

end Sys2Proof.Machine
end

