-- ==== Sys2Proof/Tests/Slice0.lean ====
section
/-! SUPPORT. Tests: words written out from the encodings, terms that WellFormed refuses, effects that the spec works out, and for every statement
states and operands that meet its hypotheses. -/

set_option Elab.async false

namespace Sys2Proof.Tests
open Sys2Proof.Machine Claim

/-- The word decodes to the instruction. -/
def decodesTo (w : DWord) (i : Instr) : Bool :=
  match decode w with
  | .ok j => j == i
  | .error _ => false

/-- A register whose lane `l` holds `k * l + c`. -/
def ramp (k c : Nat) : VReg := { lanes := laneList.map fun l => BitVec.ofNat 32 (k * l + c) }

/-- One running part at 0x1000 with the lanes of `m`. -/
def part (m : Word) : Part := { pc := 0x1000, mask := m }

/-- A group with a few registers bound. -/
def grp : Group :=
  { slotA := some (part 0xFFFFFFFF), vregs := [(0, ramp 1 0), (1, ramp 2 5), (2, ramp 0 3)], lorigin := laneList.map (BitVec.ofNat 32),
    sregs := (List.range 32).map fun n => BitVec.ofNat 32 n }

/-- As `grp`, with lane 0 alone. -/
def one : Group := { grp with slotA := some (part 1) }

/-- The one-group team of `probeCard`, with events, tags, tiles and operand slots. -/
def card : List DWord := [0x1000, 0, 0x0000000100010000, 0, 0x0002020480010000, 0, 0x0000000120000000, 0, 0, 0, 0, 0, 0, 0, 0, 0]

def team : Team :=
  { id := 7, ctx := 0, card, phase := .running, fates := [.live], tags := [{}, {}], blocks := [(0x1000, [0, 0, 0, 0, 0, 0, 0, 0])],
    quarters := [{ core := 0, base := 0, kib := 4, reserve := [3, 4], claims := [(0, 1), (1, 2)], tiles := [0, 1], vconf := [{}, {}],
                   lists := [{}, {}], steps := [0, 0] }] }

/-- A leaf for the first 512 KiB, readable, writable, executable, at physical address 0 (R222). -/
def page : TlbEntry := { asid := 0, shift := 19, vpn := 0, leaf := 0x73 }

def core0 : Core := { scratchWays := 1, tlb := [page], svec := 0x2000 }

/-- `g` at position 0 of core 0, in team 0, about to issue. -/
def st (g : Group) (t : Team := team) (c : Core := core0) : State :=
  { State.reset with groups := [(0, g)], teams := [(0, t)], cores := [(0, c)], boot := .run, tlb2 := [page] }

def iss (g : Group) (t : Team := team) : Issue := { key := 0, b := false, grp := g, part := g.slotA.getD (part 0), team := t }

/-- The group after a word. -/
def after (o : Host.Outcome State Fault Refusal) (key : Nat := 0) : Option Group :=
  match o with
  | .next t => t.group? key
  | _ => none

/-- The state after a word or event. -/
def next (o : Host.Outcome State Fault Refusal) : State :=
  match o with
  | .next t => t
  | _ => State.reset

/-- Lane `l` of v`n` after a word. -/
def vAfter (i : Instr) (g : Group) (n l : Nat) : Option Word := (after (exec i (st g))).map fun g => g.v n l

/-- The cause, TINFO and TADDR with which the group stands in a handler. -/
def trapped (o : Host.Outcome State Fault Refusal) : Option (Word × Word × DWord) :=
  (after o).map fun g => let f := if g.mode = .user then g.uframe else g.sframe; (f.tcause, f.tinfo, f.taddr)

theorem lane_of_one {l : Nat} (h : (1 : Word).getLsbD l = true) : l = 0 := by
  have : (1 : Word).toNat.testBit l = true := h
  simpa [Nat.testBit_one_eq_true_iff_self_eq_zero] using this

/-! ## Words written out from the layouts of R127 to R139 and the instruction entries -/

theorem test_decodeControl : ([
    (0x0003000000000000, .nop ⟨false, 3⟩),
    (0x001A000000FFFFFD, .bra ⟨true, 2⟩ 0xFFFFFD),
    (0x002000C200000000, .brx .always (.s 2)),
    (0x0030C40000000003, .call .always (.s 4) 3),
    (0x004006C200000000, .callx .always (.v 6) (.s 2)),
    (0x005000C400000000, .ret .always (.s 4)),
    (0x0060000000000000, .join),
    (0x0071000000000000, .exit ⟨false, 1⟩),
    (0x008000000000009C, .trap 0x9C),
    (0x0090000000000000, .tret),
    (0x00A0000000000000, .yield),
    (0x00B00000EF03E801, .sleep .always (.imm 1000)),
    (0x00C0000000001234, .brk 0x1234),
    (0x0C70050607000008, .unassignedOpcode 0x0C70050607000008)] : List (DWord × Instr)).all (fun p => decodesTo p.1 p.2) = true := by decide

theorem test_decodeInteger : ([
    (0x0100040406000042, .iadd .always .s64 true (.v 4) (.v 4) (.v 6)),
    (0x011004C1EF800001, .isub .always .n32 false (.v 4) (.s 1) (.imm 0x8000)),
    (0x0120040506000000, .imul .always .s32 (.v 4) (.v 5) (.v 6)),
    (0x0130040507000001, .imulh .always .n32 (.v 4) (.v 5) (.v 7)),
    (0x0140040506F30000, .imad .always .s32 (.v 4) (.v 5) (.v 6) (.inline 3)),
    (0x0150040506C80001, .imadw .always .n32 (.v 4) (.v 5) (.v 6) (.s 8)),
    (0x0160C405FB000000, .imin .always .s32 (.s 4) (.v 5) (.inline 11)),
    (0x0170040608000003, .imax .always .n64 (.v 4) (.v 6) (.v 8)),
    (0x0180040500000040, .iabs .always .s32 true (.v 4) (.v 5)),
    (0x0190040600000002, .ineg .always .s64 false (.v 4) (.v 6)),
    (0x02D0040506000B01, .iaddc .always true 3 (.v 4) (.v 5) (.v 6)),
    (0x02F0040506070140, .idot4 .always true false true (.v 4) (.v 5) (.v 6) (.v 7))] : List (DWord × Instr)).all (fun p => decodesTo p.1 p.2) = true := by decide

theorem test_decodeLogic : ([
    (0x01A00102C3000001, .and .always .n32 (.v 1) (.v 2) (.s 3)),
    (0x01B00102C3000001, .or .always .n32 (.v 1) (.v 2) (.s 3)),
    (0x01C00102C3000001, .xor .always .n32 (.v 1) (.v 2) (.s 3)),
    (0x01D00102C3000001, .andn .always .n32 (.v 1) (.v 2) (.s 3)),
    (0x01E00102C3000001, .shl .always .n32 (.v 1) (.v 2) (.s 3)),
    (0x01F00102C3000001, .shr .always .n32 (.v 1) (.v 2) (.s 3)),
    (0x02000204EF002802, .sar .always .s64 (.v 2) (.v 4) (.imm 40)),
    (0x0210010203000041, .rot .always .n32 true (.v 1) (.v 2) (.v 3)),
    (0x02200102EF080500, .bfx .always .s32 (.v 1) (.v 2) (.imm 0x805)),
    (0x0230010203040001, .bfi .always (.v 1) (.v 2) (.v 3) (.v 4)),
    (0x0240010200000003, .popc .always .n64 (.v 1) (.v 2)),
    (0x0250010200000003, .clz .always .n64 (.v 1) (.v 2)),
    (0x0260010200000003, .ctz .always .n64 (.v 1) (.v 2)),
    (0x0270020400000003, .brev .always .n64 (.v 2) (.v 4)),
    (0x02E0010203C40001, .perm .always (.v 1) (.v 2) (.v 3) (.s 4)),
    (0x02B00100EF567801, .mov .always .n32 (.v 1) (.imm 0x5678)),
    (0x02C0010000001234, .movh .always (.v 1) 0x1234),
    (0x02A0010203000A01, .sel .always .n32 true 2 (.v 1) (.v 2) (.v 3)),
    (0x02900005F0004300, .icmp .always .s32 .lt .set 3 (.v 5) (.inline 0)),
    (0x028004C205FF8401, .lea .always true (.v 4) ⟨.s 2, .v 5, 2, 0xFF8⟩)] : List (DWord × Instr)).all (fun p => decodesTo p.1 p.2) = true := by decide

theorem test_decodeFloat : ([
    (0x0300010203000014, .fadd .always .rz (.v 1) (.v 2) (.v 3)),
    (0x03100102EF3F8024, .fmul .always .rdn (.v 1) (.v 2) (.imm 0x3F80)),
    (0x0320080003090034, .ffma .always .rup (.v 8) (.v 0) (.v 3) (.v 9)),
    (0x0330010203000004, .fmin .always (.v 1) (.v 2) (.v 3)),
    (0x0340010203000004, .fmax .always (.v 1) (.v 2) (.v 3)),
    (0x0370010200000004, .frnd .always .rne (.v 1) (.v 2)),
    (0x0380010200000014, .frcp .always .rz (.v 1) (.v 2)),
    (0x0390010200000014, .frsq .always .rz (.v 1) (.v 2)),
    (0x03A0010200000014, .fsqrt .always .rz (.v 1) (.v 2)),
    (0x03B0010200000014, .fexp2 .always .rz (.v 1) (.v 2)),
    (0x03C0010200000014, .flog2 .always .rz (.v 1) (.v 2)),
    (0x03D0010200000014, .fsin .always .rz (.v 1) (.v 2)),
    (0x03E0010200000014, .fcos .always .rz (.v 1) (.v 2)),
    (0x03F0010203000004, .fscale .always .rne (.v 1) (.v 2) (.v 3)),
    (0x035000020300D304, .fcmp .always .un .or 3 (.v 2) (.v 3)),
    (0x0360010200000004, .fclass .always (.v 1) (.v 2)),
    (0x0400010203000017, .hadd2 .always false .rz (.v 1) (.v 2) (.v 3)),
    (0x0410010203000008, .hmul2 .always true .rne (.v 1) (.v 2) (.v 3)),
    (0x0420010203040007, .hfma2 .always false .rne (.v 1) (.v 2) (.v 3) (.v 4)),
    (0x0430010203000048, .hminmax2 .always true true (.v 1) (.v 2) (.v 3))] : List (DWord × Instr)).all (fun p => decodesTo p.1 p.2) = true := by decide

theorem test_decodeConvert : ([
    (0x044002070000100F, .cvt .always .bs20 .s32 true false .rne (.v 2) (.v 7)),
    (0x044002070000045A, .cvt .always .e5m2 .f32 false true .rz (.v 2) (.v 7)),
    (0x0450010203040109, .pack .always .e4m3 1 false .rne (.v 1) (.v 2) (.v 3) (.v 4)),
    (0x0460010200000F0E, .unpack .always .t2 15 (.v 1) (.v 2)),
    (0x0470090200000244, .vtest .always .dec .set true 2 (.v 9) (.v 2) (.v 0)),
    (0x0480050206070004, .vsel .always (.v 5) (.v 2) (.v 6) (.v 7)),
    (0x4330203FD171031F, .pairWord ⟨.movi8, .notP1, .v 1, .v 0, 0xFF⟩ ⟨.sari, .p1, .s 2, .v 3, 31⟩)] : List (DWord × Instr)).all (fun p => decodesTo p.1 p.2) = true := by decide

theorem test_decodeLanes : ([
    (0x05000000EF654000, .plop .always 3 1 2 8),
    (0x0510040000000300, .pmov .always .tomask 3 (.v 4)),
    (0x051000C400000340, .pmov .always .frommask 3 (.s 4)),
    (0x0510040000000380, .pmov .always .tobool 3 (.v 4)),
    (0x05100004000003C0, .pmov .always .frombool 3 (.v 4)),
    (0x05200400000009C1, .vote .always .uni true 1 (.v 4)),
    (0x05300406C1002383, .shfl .always .down true 2 3 (.v 4) (.v 6) (.s 1)),
    (0x0540030600000040, .scan .always .add .s32 true .rne (.v 3) (.v 6)),
    (0x0550030600000201, .redux .always .max .n32 .rne (.v 3) (.v 6)),
    (0x0560030600000243, .matchLanes .always true true 2 (.v 3) (.v 6)),
    (0x05800306C2000001, .lread .always false (.v 3) (.v 6) (.s 2)),
    (0x0570C30409000041, .regroup true (.s 3) (.v 4) (.v 9))] : List (DWord × Instr)).all (fun p => decodesTo p.1 p.2) = true := by decide

theorem test_decodeMemory : ([
    (0x060004C2010008DD, .ld .always true .x4 true .dev (.v 4) ⟨.s 2, .v 1, 4, 0⟩),
    (0x0610F1C2E07FF162, .st .always false .h16 true .sys (.inline 1) ⟨.s 2, .special .zero, 0, 0x7FF⟩),
    (0x0620C8C2E0000003, .ldb .always 3 false .dflt (.s 8) ⟨.s 2, .special .zero, 0, 0⟩),
    (0x063000C201000002, .pref .always .l1x ⟨.s 2, .v 1, 0, 0⟩),
    (0x0640000000000380, .fence .rel .dev),
    (0x065000C201000200, .cacheWb .always ⟨.s 2, .v 1, 1, 0⟩),
    (0x065000C201000201, .cacheWbinv .always ⟨.s 2, .v 1, 1, 0⟩),
    (0x065000C201000202, .cacheZero .always ⟨.s 2, .v 1, 1, 0⟩),
    (0x065000E0E0000003, .cacheIinv .always),
    (0x065000E0E0000004, .cacheL1wb .always),
    (0x066004C201000110, .atom .always .add32 .acq .pod (.v 4) ⟨.s 2, .v 1, 0, 0⟩),
    (0x066004C201000111, .atom .always .add64 .acq .pod (.v 4) ⟨.s 2, .v 1, 0, 0⟩),
    (0x066004C201000112, .atom .always .addF32 .acq .pod (.v 4) ⟨.s 2, .v 1, 0, 0⟩),
    (0x066004C201000113, .atom .always .minS .acq .pod (.v 4) ⟨.s 2, .v 1, 0, 0⟩),
    (0x066004C201000114, .atom .always .minN .acq .pod (.v 4) ⟨.s 2, .v 1, 0, 0⟩),
    (0x066004C201000115, .atom .always .maxS .acq .pod (.v 4) ⟨.s 2, .v 1, 0, 0⟩),
    (0x066004C201000116, .atom .always .maxN .acq .pod (.v 4) ⟨.s 2, .v 1, 0, 0⟩),
    (0x066004C201000117, .atom .always .and .acq .pod (.v 4) ⟨.s 2, .v 1, 0, 0⟩),
    (0x066004C201000118, .atom .always .or .acq .pod (.v 4) ⟨.s 2, .v 1, 0, 0⟩),
    (0x066004C201000119, .atom .always .xor .acq .pod (.v 4) ⟨.s 2, .v 1, 0, 0⟩),
    (0x066004C20100011A, .atom .always .maxF32 .acq .pod (.v 4) ⟨.s 2, .v 1, 0, 0⟩),
    (0x066004C20100011B, .atom .always .exch32 .acq .pod (.v 4) ⟨.s 2, .v 1, 0, 0⟩),
    (0x066004C20100011C, .atom .always .exch64 .acq .pod (.v 4) ⟨.s 2, .v 1, 0, 0⟩),
    (0x066004C20100011D, .atom .always .cas32 .acq .pod (.v 4) ⟨.s 2, .v 1, 0, 0⟩),
    (0x066004C20100011E, .atom .always .cas64 .acq .pod (.v 4) ⟨.s 2, .v 1, 0, 0⟩),
    (0x066004C20100011F, .atom .always .minF32 .acq .pod (.v 4) ⟨.s 2, .v 1, 0, 0⟩),
    (0x0670F1C2E0000021, .red .always .add64 true .dflt (.inline 1) ⟨.s 2, .special .zero, 0, 0⟩),
    (0x0680C6C2E00000D8, .mwait .always .eq true true .dev (.s 6) ⟨.s 2, .special .zero, 0, 0⟩),
    (0x0680C6C2E00000D9, .mwait .always .ne true true .dev (.s 6) ⟨.s 2, .special .zero, 0, 0⟩),
    (0x0680C6C2E00000DA, .mwait .always .geU true true .dev (.s 6) ⟨.s 2, .special .zero, 0, 0⟩),
    (0x0680C6C2E00000DB, .mwait .always .geS true true .dev (.s 6) ⟨.s 2, .special .zero, 0, 0⟩),
    (0x0680C6C2E00000DC, .mwait .always .gtU true true .dev (.s 6) ⟨.s 2, .special .zero, 0, 0⟩),
    (0x0680C6C2E00000DD, .mwait .always .gtS true true .dev (.s 6) ⟨.s 2, .special .zero, 0, 0⟩),
    (0x06900004BF000000, .vdrop (.v 4) (.v 191))] : List (DWord × Instr)).all (fun p => decodesTo p.1 p.2) = true := by decide

theorem test_decodeBarrier : ([
    (0x070001CAE0000000, .barArrive .always (.v 1) (.s 10) (.special .zero)),
    (0x070001CAE0000100, .barDrop .always (.v 1) (.s 10) (.special .zero)),
    (0x070001CA00000200, .barJoin .always (.v 1) (.s 10)),
    (0x070001CAE0000300, .barExpect .always (.v 1) (.s 10) (.special .zero)),
    (0x070000CA03000400, .barWait .always (.s 10) (.v 3)),
    (0x070000CAE0000500, .barSync .always (.s 10) (.special .zero)),
    (0x070001CA03000600, .barTest .always (.v 1) (.s 10) (.v 3)),
    (0x0710000000000700, .tbarSync .always 7),
    (0x0710010000000740, .tbarArrive .always 7 (.v 1)),
    (0x0710000003000780, .tbarWait .always 7 (.v 3)),
    (0x07100100030007C0, .tbarTest .always 7 (.v 1) (.v 3)),
    (0x072000C403E20500, .evarm .always .bar 5 .eq .s32 (.s 4) (.v 3) (.special .group)),
    (0x072000C406E21500, .evarm .always .cnt 5 .eq .s32 (.s 4) (.v 6) (.special .group)),
    (0x072000C406E225C2, .evarm .always .mon 5 .gt .s64 (.s 4) (.v 6) (.special .group)),
    (0x072000C400E23500, .evarm .always .mbx 5 .eq .s32 (.s 4) (.v 0) (.special .group)),
    (0x072000C400E24500, .evarm .always .rfill 5 .eq .s32 (.s 4) (.v 0) (.special .group)),
    (0x072000C400E25500, .evarm .always .rfree 5 .eq .s32 (.s 4) (.v 0) (.special .group)),
    (0x072000C400E26500, .evarm .always .pipe 5 .eq .s32 (.s 4) (.v 0) (.special .group)),
    (0x072000C400E27500, .evarm .always .time 5 .eq .s32 (.s 4) (.v 0) (.special .group)),
    (0x072000C400E28500, .evarm .always .peer 5 .eq .s32 (.s 4) (.v 0) (.special .group)),
    (0x07300100EFFFFF00, .evdis .always (.v 1) (.imm 0xFFFF)),
    (0x07400000C3000000, .waitany (.s 3)),
    (0x075001C2BC00FE80, .mbox .always true 0xFE (.v 1) (.s 2) (.v 188))] : List (DWord × Instr)).all (fun p => decodesTo p.1 p.2) = true := by decide

theorem test_decodeEngine : ([
    (0x080000C4F1000000, .kick .always (.s 4) (.inline 1)),
    (0x081001C4C5000900, .regionRing .always 9 (.v 1) (.s 4) (.s 5)),
    (0x081001C4C5001900, .regionWindow .always 9 (.v 1) (.s 4) (.s 5)),
    (0x0810010000002900, .regionAbsent .always 9 (.v 1)),
    (0x0810010000003900, .regionPresent .always 9 (.v 1)),
    (0x0810010000004900, .regionFree .always 9 (.v 1)),
    (0x0820010000000980, .racqFill .always 9 true (.v 1)),
    (0x0820010000000940, .racqFree .always 9 false (.v 1)),
    (0x0840000200000900, .rpub .always 9 (.v 2)),
    (0x0830000200000900, .rrel .always 9 (.v 2))] : List (DWord × Instr)).all (fun p => decodesTo p.1 p.2) = true := by decide

theorem test_decodeMatrix : ([
    (0x090001C2EF000800, .mclaim .always (.v 1) (.s 2) (.imm 8)),
    (0x091000C2F4000000, .mrel .always (.s 2) (.inline 4)),
    (0x09200008C3000001, .mstage .always (.v 8) (.s 3)),
    (0x095008C300000001, .mread .always (.v 8) (.s 3)),
    (0x09600000EFFFFF00, .mzero .always (.imm 0xFFFF)),
    (0x093000C4C5C60606, .mloop .always .bf16 .bf16 false false (.s 4) (.s 5) (.s 6)),
    (0x093000C4C5C60505, .mloop .always .f16 .f16 false false (.s 4) (.s 5) (.s 6)),
    (0x093000C4C5C60E0C, .mloop .always .i8 .t2 false false (.s 4) (.s 5) (.s 6)),
    (0x093000C4C5C60A09, .mloop .always .e4m3 .e5m2 false false (.s 4) (.s 5) (.s 6)),
    (0x093000C4C5C60B0B, .mloop .always .e2m1 .e2m1 false false (.s 4) (.s 5) (.s 6)),
    (0x094000C40206000F, .msca .always (.s 4) (.v 2) (.v 6)),
    (0x097000C4C6C72500, .mdrain .always .add true .pod false (.s 4) (.s 6) (.s 7)),
    (0x09800100C2000000, .msyncWait .always (.v 1) (.s 2)),
    (0x0980010000000040, .msyncStat .always (.v 1)),
    (0x099000F1E0000000, .vcfg .always .none false false (.inline 1) (.special .zero)),
    (0x099000F1C6002000, .vcfg .always .sign false false (.inline 1) (.s 6)),
    (0x099000F1C6005000, .vcfg .always .rowthr true false (.inline 1) (.s 6)),
    (0x099000F1C6006000, .vcfg .always .colthr false false (.inline 1) (.s 6)),
    (0x099000F1C6008000, .vcfg .always .topk false false (.inline 1) (.s 6)),
    (0x0A0000F0C7C80000, .topk .always (.inline 0) (.s 7) (.s 8)),
    (0x0A1000F0C8000000, .topkmMerge .always (.inline 0) (.s 8)),
    (0x0A1000F0C8000040, .topkmStore .always (.inline 0) (.s 8)),
    (0x0A2009F0C8000000, .topkr .always (.v 9) (.inline 0) (.s 8)),
    (0x0A3000F0EF000300, .vthr .always (.inline 0) (.imm 3))] : List (DWord × Instr)).all (fun p => decodesTo p.1 p.2) = true := by decide

theorem test_decodeShading : ([
    (0x0B0014C104F70601, .trace .always 6 (.v 20) (.s 1) (.v 4) (.inline 7)),
    (0x0B1001C100000001, .psalloc .always (.v 1) (.s 1)),
    (0x0B2001C104000001, .psfree .always (.v 1) (.s 1) (.v 4)),
    (0x0B3001C104000041, .sqpush .always .miss (.v 1) (.s 1) (.v 4)),
    (0x0B4001C100000081, .sqpop .always .depth (.v 1) (.s 1)),
    (0x0B500800C4E00004, .tex .always .grad (.v 8) (.v 0) (.s 4) (.special .zero)),
    (0x0B500800C4090044, .tex .always .quad (.v 8) (.v 0) (.s 4) (.v 9)),
    (0x0B500800C4090084, .tex .always .lod (.v 8) (.v 0) (.s 4) (.v 9)),
    (0x0B600800C4E00304, .texg .always .grad 3 (.v 8) (.v 0) (.s 4) (.special .zero)),
    (0x0B700800C4000084, .texqLod .always .lod (.v 8) (.v 0) (.s 4)),
    (0x0B7008F2C4000104, .texqDims .always (.v 8) (.inline 2) (.s 4)),
    (0x0B800800C400F004, .attr .always 16 0 (.v 8) (.v 0) (.s 4)),
    (0x0B9008C402000001, .fback .always (.v 8) (.s 4) (.v 2))] : List (DWord × Instr)).all (fun p => decodesTo p.1 p.2) = true := by decide

theorem test_decodeSystem : ([
    (0x0C00040000001821, .csrr .always .hi (.v 4) 0x821),
    (0x0C1000C400002020, .csrw .always .d 0x020 (.s 4)),
    (0x0C20040500004060, .csrx .always .set .lo (.v 4) 0x060 (.v 5)),
    (0x0C2004060000A020, .csrx .always .clr .d (.v 4) 0x020 (.v 6)),
    (0x0C3003C6EF000200, .setperf .always (.v 3) (.s 6) (.imm 2)),
    (0x0C4003C6C8000000, .launch .always (.v 3) (.s 6) (.s 8)),
    (0x0C5000C800000000, .tlbi .always .page (.s 8)),
    (0x0C50000000000040, .tlbi .always .ctx (.v 0)),
    (0x0C50000000000080, .tlbi .always .all (.v 0)),
    (0x0C6002C300000000, .trapack .always (.v 2) (.s 3))] : List (DWord × Instr)).all (fun p => decodesTo p.1 p.2) = true := by decide

/-! ## Ill-formed terms, one for each check of WellFormed, and the neighbours that it accepts -/

/-- A memory operand that is well formed. -/
def mOk : MemArg := ⟨.s 2, .v 5, 2, 0⟩

theorem test_refusesGuardsAndControl :
    ([.nop ⟨true, 0⟩, .bra ⟨false, 8⟩ 0, .brx .always (.s 3), .call .always (.v 5) 0, .callx .always (.v 6) (.imm 0), .callx .always (.inline 0) (.s 2),
      .ret .always (.special .zero), .exit ⟨true, 0⟩, .sleep .always (.inline 16), .sleep .always (.v 192), .sleep .always (.s 32)] : List Instr).all (fun i => !i.wf) = true := by
  decide +kernel

theorem test_refusesInteger :
    ([.iadd .always .s64 false (.v 5) (.v 4) (.v 6), .iadd .always .s64 false (.v 4) (.v 5) (.v 6), .isub .always .n64 false (.v 4) (.v 4) (.s 7),
      .iadd .always .s32 false (.special .lane) (.v 4) (.v 6), .iadd .always .s32 false (.v 4) (.imm 1) (.v 6), .imul .always .s32 (.v 4) (.v 5) (.inline 16),
      .imulh .always .s64 (.inline 0) (.v 4) (.v 6), .imin .always .s32 (.v 1) (.imm 0) (.v 1), .imax .always .n64 (.v 1) (.v 2) (.v 4),
      .imad .always .s32 (.v 4) (.v 5) (.imm 3) (.v 6), .imad .always .s32 (.v 4) (.v 5) (.v 6) (.imm 0), .imadw .always .s64 (.v 4) (.v 5) (.v 6) (.s 8),
      .imadw .always .s32 (.v 5) (.v 5) (.v 6) (.s 8), .imadw .always .s32 (.v 4) (.v 5) (.v 6) (.s 9), .iabs .always .n32 false (.v 4) (.v 5),
      .ineg .always .n64 false (.v 4) (.v 6), .ineg .always .s64 false (.v 4) (.v 7), .iaddc .always false 0 (.v 4) (.v 5) (.v 6),
      .iaddc .always false 8 (.v 4) (.v 5) (.v 6), .iaddc .always false 1 (.v 4) (.v 5) (.imm 6), .idot4 .always false false false (.v 4) (.v 5) (.imm 6) (.v 7)] :
      List Instr).all (fun i => !i.wf) = true := by decide +kernel

theorem test_refusesLogic :
    ([.and .always .s32 (.v 1) (.v 2) (.s 3), .or .always .n64 (.v 1) (.v 2) (.s 4), .xor .always .n32 (.v 1) (.imm 0) (.s 3), .andn .always .s64 (.v 2) (.v 2) (.s 4),
      .shl .always .s32 (.v 1) (.v 2) (.s 3), .shr .always .n64 (.v 2) (.v 3) (.s 3), .sar .always .n32 (.v 2) (.v 4) (.s 3), .rot .always .s32 true (.v 1) (.v 2) (.s 3),
      .bfx .always .s64 (.v 2) (.v 4) (.s 3), .bfi .always (.v 1) (.v 2) (.imm 1) (.v 4), .popc .always .s32 (.v 1) (.v 2), .clz .always .n64 (.v 1) (.v 3),
      .ctz .always .n32 (.inline 0) (.v 3), .brev .always .n64 (.v 1) (.v 4), .perm .always (.v 1) (.v 2) (.imm 0) (.v 3), .mov .always .n64 (.v 1) (.v 2),
      .mov .always .n64 (.v 2) (.v 3), .movh .always (.special .zero) 1, .sel .always .s32 false 1 (.v 1) (.v 2) (.v 3), .sel .always .n32 false 8 (.v 1) (.v 2) (.v 3),
      .sel .always .n32 false 1 (.v 1) (.v 2) (.imm 3), .sel .always .n32 true 0 (.v 1) (.v 2) (.imm 3), .icmp .always .s32 .un .set 1 (.v 1) (.v 2),
      .icmp .always .s32 .ord .set 1 (.v 1) (.v 2), .icmp .always .s32 .eq .set 0 (.v 1) (.v 2), .icmp .always .s32 .eq .set 8 (.v 1) (.v 2), .icmp .always .s64 .eq .set 1 (.v 1) (.v 2),
      .icmp .always .s32 .eq .set 1 (.v 1) (.imm 2), .lea .always false (.v 5) mOk, .lea .always false (.v 4) ⟨.s 3, .v 5, 2, 0⟩, .lea .always false (.v 4) ⟨.s 2, .s 5, 2, 0⟩,
      .lea .always false (.v 4) ⟨.s 2, .v 5, 5, 0⟩] : List Instr).all (fun i => !i.wf) = true := by decide +kernel

theorem test_refusesFloat :
    ([.fadd .always .rne (.inline 0) (.v 1) (.v 2), .fmul .always .rne (.v 1) (.imm 0) (.v 2), .ffma .always .rne (.v 1) (.v 1) (.imm 0) (.v 2), .ffma .always .rne (.v 1) (.v 1) (.v 2) (.imm 0),
      .fmin .always (.special .zero) (.v 1) (.v 2), .frnd .always .rne (.v 1) (.imm 0), .fscale .always .rne (.v 1) (.imm 0) (.v 1), .frcp .always .rne (.v 1) (.imm 0),
      .fcmp .always .un .set 0 (.v 1) (.v 2), .fcmp .always .un .set 1 (.v 1) (.imm 2), .fclass .always (.inline 1) (.v 1), .hadd2 .always false .rne (.inline 1) (.v 1) (.v 2),
      .hfma2 .always false .rne (.v 1) (.v 1) (.imm 2) (.v 3), .hminmax2 .always false false (.v 1) (.imm 2) (.v 3), .cvt .always .f16x2 .f32 false false .rne (.v 1) (.v 2),
      .cvt .always .f32 .bf16x2 false false .rne (.v 1) (.v 2), .cvt .always .f32 .n32 true false .rne (.v 1) (.v 2), .cvt .always .s32 .f32 false true .rne (.v 1) (.v 2),
      .cvt .always .s64 .f32 false false .rne (.v 1) (.v 2), .cvt .always .f32 .s64 false false .rne (.v 1) (.v 3), .cvt .always .f32 .e4m3 false false .rne (.v 1) (.inline 2),
      .pack .always .f32 0 false .rne (.v 1) (.v 2) (.v 3) (.v 4), .pack .always .f16x2 1 false .rne (.v 1) (.v 2) (.v 3) (.v 4), .pack .always .e4m3 0 true .rne (.v 1) (.v 2) (.v 3) (.v 4),
      .pack .always .t2 8 false .rne (.v 1) (.v 2) (.v 3) (.v 4), .unpack .always .e2m1 8 (.v 1) (.v 2), .vtest .always .above .set false 1 (.v 3) (.v 1) (.v 2),
      .vtest .always .dec .set false 1 (.v 0) (.v 1) (.v 2), .vtest .always .above .set true 1 (.inline 0) (.v 1) (.v 2), .vtest .always .above .set false 0 (.v 0) (.v 1) (.v 2),
      .vsel .always (.v 1) (.v 2) (.imm 3) (.v 4)] : List Instr).all (fun i => !i.wf) = true := by decide +kernel

theorem test_refusesPairsAndLanes :
    ([.pairWord ⟨.iadd, .always, .v 20, .v 21, 0⟩ ⟨.and, .always, .v 24, .v 15, 0⟩, .pairWord ⟨.iadd, .always, .v 96, .v 21, 0⟩ ⟨.and, .always, .v 10, .v 15, 0⟩,
      .pairWord ⟨.iadd, .always, .v 20, .v 21, 1⟩ ⟨.and, .always, .v 10, .v 15, 0⟩, .pairWord ⟨.shli, .always, .v 20, .v 21, 32⟩ ⟨.and, .always, .v 10, .v 15, 0⟩,
      .pairWord ⟨.iadd, .always, .v 20, .v 21, 0⟩ ⟨.fadd, .always, .v 10, .v 15, 0⟩, .pairWord ⟨.movi8, .always, .v 20, .v 21, 0⟩ ⟨.and, .always, .v 10, .v 15, 0⟩,
      .pairWord ⟨.iadd, .always, .v 20, .v 24, 0⟩ ⟨.and, .always, .v 9, .v 28, 0⟩, .pairWord ⟨.iadd, .always, .s 4, .v 24, 0⟩ ⟨.and, .always, .s 4, .v 29, 0⟩,
      .plop .always 0 1 2 8, .plop .always 1 8 2 8, .plop .always 1 1 8 8, .pmov .always .tomask 8 (.v 1), .pmov .always .frommask 0 (.v 1), .pmov .always .tobool 1 (.inline 1),
      .vote .always .all false 8 (.v 1), .vote .always .all false 1 (.inline 1), .shfl .always .idx false 8 0 (.v 1) (.v 2) (.v 3), .shfl .always .idx false 0 6 (.v 1) (.v 2) (.v 3),
      .shfl .always .idx true 0 0 (.v 1) (.v 2) (.v 3), .shfl .always .idx true 0 0 (.v 2) (.v 3) (.v 3), .shfl .always .idx false 1 0 (.v 1) (.v 2) (.imm 3),
      .scan .always .and .f32 false .rne (.v 1) (.v 2), .scan .always .add .s32 false .rz (.v 1) (.v 2), .redux .always .min .f32 .rup (.v 1) (.v 2),
      .matchLanes .always false false 1 (.v 1) (.v 2), .matchLanes .always true true 1 (.v 1) (.v 3), .lread .always false (.v 1) (.s 2) (.s 3), .lread .always true (.v 2) (.v 3) (.s 3),
      .lread .always false (.v 1) (.v 2) (.special .lane), .lread .always false (.v 1) (.v 2) (.v 3), .regroup false (.s 1) (.v 3) (.v 2), .regroup false (.s 1) (.v 3) (.v 192),
      .regroup true (.inline 0) (.v 1) (.v 2)] : List Instr).all (fun i => !i.wf) = true := by decide +kernel

theorem test_refusesMemory :
    ([.ld .always false .w64 false .dflt (.v 5) mOk, .ld .always false .x4 false .dflt (.v 6) mOk, .ld .always false .w32 false .dev (.v 5) mOk, .st .always false .i8 false .dflt (.v 5) mOk,
      .st .always false .w32 false .dflt (.imm 5) mOk, .st .always false .w32 false .dev (.v 5) mOk, .ldb .always 2 false .dflt (.s 2) ⟨.s 4, .special .zero, 0, 0⟩,
      .ldb .always 6 false .dflt (.s 0) ⟨.s 4, .special .zero, 0, 0⟩, .ldb .always 1 false .dflt (.s 2) ⟨.s 4, .v 1, 0, 0⟩, .ldb .always 1 false .dflt (.s 2) ⟨.v 4, .special .zero, 0, 0⟩,
      .ldb .always 1 false .dev (.s 2) ⟨.s 4, .special .zero, 0, 0⟩, .pref .always .l1 ⟨.imm 2, .v 5, 2, 0⟩, .cacheWb .always ⟨.s 2, .v 192, 2, 0⟩, .fence .ar .dflt,
      .atom .always .add64 .ar .dev (.s 5) mOk, .atom .always .cas64 .ar .dev (.s 6) mOk, .red .always .exch32 false .dev (.s 6) mOk, .red .always .add64 false .dev (.s 5) mOk,
      .mwait .always .eq true false .dev (.v 5) mOk, .mwait .always .eq false false .dev (.imm 5) mOk, .vdrop (.v 5) (.v 4), .vdrop (.s 5) (.v 6)] : List Instr).all (fun i => !i.wf) = true := by
  decide +kernel

theorem test_refusesSynchronising :
    ([.barArrive .always (.inline 0) (.s 1) (.s 2), .barArrive .always (.v 1) (.imm 1) (.s 2), .barExpect .always (.v 1) (.s 1) (.imm 2), .barJoin .always (.v 1) (.imm 1), .barWait .always (.s 1) (.imm 0),
      .tbarSync .always 8, .tbarArrive .always 1 (.inline 0), .tbarWait .always 1 (.imm 0), .tbarTest .always 1 (.v 2) (.imm 0), .tbarTest .always 8 (.v 2) (.s 0),
      .evarm .always .bar 16 .eq .s32 (.s 0) (.s 1) (.inline 1), .evarm .always .bar 0 .ne .s32 (.s 0) (.s 1) (.inline 1), .evarm .always .bar 0 .eq .n32 (.s 0) (.s 1) (.inline 1),
      .evarm .always .cnt 0 .eq .s32 (.s 1) (.s 2) (.inline 1), .evarm .always .cnt 0 .eq .s32 (.s 2) (.s 1) (.inline 1), .evarm .always .time 0 .eq .s32 (.s 2) (.s 1) (.inline 1),
      .evarm .always .mon 0 .gt .s64 (.s 2) (.s 1) (.inline 1), .evarm .always .bar 0 .eq .s32 (.s 0) (.s 1) (.special .lane), .evdis .always (.special .zero) (.imm 1), .waitany (.special .zero),
      .mbox .always true 255 (.v 4) (.s 1) (.s 8), .mbox .always true 1 (.v 4) (.s 1) (.s 9), .kick .always (.imm 1) (.s 1), .regionRing .always 16 (.v 1) (.s 1) (.s 2),
      .regionRing .always 1 (.v 1) (.s 1) (.imm 2), .regionWindow .always 1 (.v 1) (.s 1) (.imm 2), .regionFree .always 16 (.v 1), .racqFill .always 1 true (.inline 0), .rpub .always 16 (.s 1),
      .rrel .always 1 (.imm 1)] : List Instr).all (fun i => !i.wf) = true := by decide +kernel

theorem test_refusesMatrixAndPicture :
    ([.mclaim .always (.v 1) (.v 2) (.s 1), .mclaim .always (.v 1) (.s 2) (.v 1), .mrel .always (.v 1) (.s 1), .mstage .always (.s 1) (.s 2), .mread .always (.s 1) (.s 2), .mzero .always (.v 1),
      .mloop .always .e4m3 .e2m1 true false (.s 1) (.s 2) (.s 3), .mloop .always .bf16 .bf16 true false (.s 1) (.s 2) (.s 3), .mloop .always .bf16 .bf16 false false (.v 1) (.s 2) (.s 3),
      .msca .always (.s 1) (.v 3) (.v 4), .msca .always (.s 1) (.v 2) (.s 4), .mdrain .always .st true .dev false (.s 2) (.s 1) (.s 3), .mdrain .always .add true .grp false (.s 2) (.s 1) (.s 3),
      .mdrain .always .add true .dev false (.s 3) (.s 1) (.s 3), .msyncWait .always (.v 1) (.v 2), .msyncStat .always (.inline 1), .vcfg .always .sign false true (.s 1) (.s 2),
      .vcfg .always .none true false (.s 1) (.special .zero), .vcfg .always .none false false (.s 1) (.s 2), .topk .always (.v 1) (.s 2) (.s 3), .topkmMerge .always (.s 1) (.s 3),
      .topkr .always (.s 1) (.s 2) (.s 3), .vthr .always (.v 1) (.s 2), .trace .always 32 (.v 20) (.s 1) (.v 4) (.inline 7), .trace .always 1 (.s 20) (.s 1) (.v 4) (.inline 7),
      .trace .always 1 (.v 20) (.v 1) (.v 4) (.inline 7), .trace .always 1 (.v 20) (.s 1) (.v 4) (.v 7), .psalloc .always (.v 1) (.special .lane), .psfree .always (.v 1) (.s 1) (.imm 1),
      .tex .always .grad (.v 8) (.v 187) (.s 4) (.special .zero), .tex .always .quad (.v 8) (.v 0) (.s 5) (.special .zero), .tex .always .quad (.v 8) (.v 0) (.s 4) (.s 1),
      .texg .always .quad 4 (.v 8) (.v 0) (.s 4) (.special .zero), .texqLod .always .grad (.v 8) (.v 0) (.v 4), .texqDims .always (.s 8) (.inline 0) (.s 4), .attr .always 0 0 (.v 8) (.v 0) (.s 4),
      .attr .always 17 0 (.v 8) (.v 0) (.s 4), .attr .always 1 16 (.v 8) (.v 0) (.s 4), .attr .always 1 0 (.v 8) (.v 0) (.s 5), .fback .always (.v 1) (.s 3) (.v 2), .fback .always (.v 1) (.s 2) (.inline 2)] :
      List Instr).all (fun i => !i.wf) = true := by decide +kernel

theorem test_refusesSystem :
    ([.csrr .always .d (.v 5) 0, .csrr .always .lo (.inline 0) 0, .csrw .always .d 0 (.v 5), .csrw .always .lo 0 (.imm 5), .csrx .always .swap .d (.v 4) 0 (.v 5), .csrx .always .set .lo (.inline 0) 0 (.v 5),
      .setperf .always (.v 1) (.imm 1) (.s 2), .launch .always (.v 4) (.s 4) (.s 3), .tlbi .always .page (.s 3), .tlbi .always .ctx (.s 2), .trapack .always (.inline 0) (.s 1),
      .unassignedOpcode 0x0100000000000000, .unassignedOpcode 0x10D0000000000000] : List Instr).all (fun i => !i.wf) = true := by decide +kernel

/-- Words with a reserved or non-zero `zero` field, an illegal operand or an illegal pair do not decode (R127, R139, R142). -/
theorem test_refusedWords :
    ([0x0010000100000001, 0x0018000000000000, 0x0100080203000070, 0x010008EF03000000, 0x01F0080203100001, 0x0290010500004000, 0x0290000500000000, 0x07000000F2C54110, 0x5002854004061F00] : List DWord).all (fun w => (decode w).toOption.isNone) = true := by decide +kernel

/-! ## Witnesses: states and operands that meet the hypotheses of the statements, clause by clause -/

/-- R110: v2 with code 0b10 makes a verdict word; the other lanes are ordinary. -/
def verdictGrp : Group := { grp with vregs := [(0, ramp 1 0), (1, { lanes := laneList.map fun l => if l = 3 then 0xFFA00052 else 0x3F800000 })] }

/-- A group with as many registers bound as its role has. -/
def fullGrp : Group := { grp with vregs := (List.range 32).map fun n => (n, ramp n 0) }

theorem witness_issuing : (st grp).issuing = some (iss grp) ∧ (st one).issuing = some (iss one) ∧ (st verdictGrp).issuing = some (iss verdictGrp) := by
  decide

/-- The budget holds with room, and not for a new register of a full group. -/
theorem witness_budget : (iss grp).budget 0xFFFFFFFF [.v 4, .v 5] = none ∧ ((iss fullGrp).budget 0xFFFFFFFF [.v 40]).isSome = true := by decide

theorem witness_integerWords :
    ([.iadd .always .s32 false (.v 4) (.v 0) (.v 1), .isub .always .n64 true (.v 4) (.v 0) (.s 2), .imul .always .s32 (.v 4) (.v 0) (.imm 3),
      .imulh .always .n64 (.v 4) (.v 0) (.v 2), .imad .always .s32 (.v 4) (.v 0) (.v 1) (.inline 2), .imadw .always .n32 (.v 4) (.v 0) (.v 1) (.v 2),
      .imin .always .s64 (.v 4) (.v 0) (.v 2), .imax .always .n32 (.s 4) (.v 0) (.v 2), .iabs .always .s64 true (.v 4) (.v 0),
      .ineg .always .s32 false (.v 4) (.special .lane), .mov .always .n64 (.v 4) (.imm 7), .iaddc .always true 7 (.v 4) (.v 0) (.v 1),
      .idot4 .always true false true (.v 4) (.v 0) (.v 1) (.v 2)] : List Instr).all Instr.wf = true := by decide

theorem witness_logicWords :
    ([.and .always .n32 (.v 4) (.v 0) (.v 1), .or .always .n64 (.v 4) (.v 0) (.v 2), .xor .always .n32 (.v 4) (.v 0) (.imm 1),
      .andn .always .n32 (.v 4) (.v 0) (.v 1), .shl .always .n32 (.v 4) (.v 0) (.imm 31), .shr .always .n64 (.v 4) (.v 0) (.imm 63),
      .sar .always .s64 (.v 4) (.v 0) (.v 1), .rot .always .n32 true (.v 4) (.v 0) (.v 1), .sel .always .n32 true 7 (.v 4) (.v 0) (.v 1),
      .bfx .always .s32 (.v 4) (.v 0) (.imm 0x2000), .bfi .always (.v 4) (.v 0) (.v 1) (.v 2), .perm .always (.v 4) (.v 0) (.v 1) (.s 2),
      .popc .always .n64 (.v 4) (.v 0), .clz .always .n32 (.v 4) (.v 0), .ctz .always .n32 (.v 4) (.v 0), .brev .always .n64 (.v 4) (.v 0),
      .movh .always (.s 4) 0x8000] : List Instr).all Instr.wf = true := by decide

theorem witness_comparisonWords :
    ([.icmp .always .s64 .lt .and 7 (.v 0) (.v 2), .fcmp .always .un .or 1 (.v 0) (.v 1), .lea .always true (.v 4) ⟨.s 2, .v 0, 4, 0x800⟩]
      : List Instr).all Instr.wf = true := by decide

theorem witness_bitFieldFunctions : (0x80000001 : Word).getLsbD 31 = true ∧ (0x80000001 : Word).getLsbD 30 = false ∧ (31 < 32 ∧ 3 < 4) := by decide

theorem witness_fp32Words :
    ([.fadd .always .rz (.v 4) (.v 0) (.imm 1), .fmul .always .rne (.v 4) (.v 0) (.v 1), .ffma .always .rup (.v 4) (.v 0) (.v 1) (.v 2),
      .fmin .always (.v 4) (.v 0) (.v 1), .fmax .always (.v 4) (.v 0) (.v 1), .frnd .always .rdn (.v 4) (.v 0), .fscale .always .rne (.v 4) (.v 0) (.v 1),
      .frcp .always .rne (.v 4) (.v 0), .frsq .always .rne (.v 4) (.v 0), .fsqrt .always .rne (.v 4) (.v 0), .fexp2 .always .rne (.v 4) (.v 0),
      .flog2 .always .rne (.v 4) (.v 0), .fsin .always .rne (.v 4) (.v 0), .fcos .always .rne (.v 4) (.v 0), .fclass .always (.v 4) (.v 0),
      .hadd2 .always true .rne (.v 4) (.v 0) (.imm 1), .hmul2 .always false .rne (.v 4) (.v 0) (.v 1), .hfma2 .always true .rz (.v 4) (.v 0) (.v 1) (.v 2),
      .hminmax2 .always true true (.v 4) (.v 0) (.v 1), .vsel .always (.v 4) (.v 0) (.v 1) (.v 2)] : List Instr).all Instr.wf = true ∧
    ((iss verdictGrp).verdictTrap 0xFFFFFFFF ((iss verdictGrp).anyVerdict [.v 1])).isSome = true ∧
    (iss verdictGrp).verdictTrap 0xFFFFFFFF ((iss verdictGrp).anyVerdict [.v 0]) = none := by decide

/-- NaNs of both kinds, a number, and a negative number: the operands of the special cases. -/
theorem witness_fpSpecialOperands : nan32 0x7F800001 = true ∧ snan32 0x7F800001 = true ∧ nan32 0x7FC00000 = true ∧ snan32 0x7FC00000 = false ∧
    nan32 0x3F800000 = false ∧ nan32 0x7F7FFFFF = false ∧ (2 ^ 31 < 0x80000001 ∧ 0xFF7FFFFF < 0xFF800000) := by decide

theorem witness_conversionWords :
    ([.cvt .always .s64 .f32 false false .rz (.v 4) (.v 0), .cvt .always .f32 .s32 true false .rne (.v 4) (.v 0), .pack .always .e4m3 1 false .rne (.v 4) (.v 0) (.v 1) (.v 2),
      .pack .always .i8 0 false .rne (.v 4) (.v 0) (.v 1) (.v 2), .unpack .always .t2 15 (.v 4) (.v 0), .vtest .always .dec .set true 1 (.v 4) (.v 0) (.v 0),
      .vtest .always .above .or false 7 (.v 0) (.v 1) (.v 2)] : List Instr).all Instr.wf = true := by decide

theorem witness_pairWord :
    let h0 : Half := ⟨.fadd, .always, .v 1, .v 2, 0⟩; let h1 : Half := ⟨.mov, .p1, .v 0, .v 1, 0⟩
    (Instr.pairWord h0 h1).wf = true ∧ (iss grp).budget ((iss grp).halfLanes h0 ||| (iss grp).halfLanes h1) [.v 1, .v 0] = none ∧
    ((iss verdictGrp).verdictTrap 0xFFFFFFFF fun l => (iss verdictGrp).halfBad h0 l).isSome = true := by decide

theorem witness_laneWords :
    ([.plop .always 7 0 1 8, .pmov .always .tomask 0 (.v 4), .pmov .always .tobool 7 (.s 4), .pmov .always .frommask 1 (.s 4), .pmov .always .frombool 1 (.v 0),
      .vote .always .uni true 1 (.v 4), .matchLanes .always false true 0 (.v 4) (.v 0), .matchLanes .always true false 7 (.v 4) (.v 0),
      .lread .always false (.v 4) (.v 0) (.s 2), .lread .always true (.v 4) (.v 0) (.imm 31), .shfl .always .up true 3 5 (.v 4) (.v 0) (.v 1),
      .shfl .always .idx false 0 0 (.v 4) (.v 0) (.imm 1), .scan .always .add .f32 true .rz (.v 4) (.v 0), .redux .always .xor .s32 .rne (.v 4) (.v 0)]
      : List Instr).all Instr.wf = true := by decide

/-- Two lanes that go on and thirty that branch. -/
def splitGrp : Group := { grp with preds := [0xFFFFFFFC, 0, 0, 0, 0, 0, 0] }

/-- A branch all of whose lanes agree, one that splits, and a computed target that R120 refuses. -/
theorem witness_transfers :
    ([.bra .always 3, .brx .always (.s 2), .call .always (.s 4) 3, .callx .always (.v 4) (.v 0), .ret .always (.s 4)] : List Instr).all Instr.wf = true ∧
    (iss splitGrp).lanes ⟨false, 1⟩ = 0xFFFFFFFC ∧ (iss grp).lanes .always = 0xFFFFFFFF ∧ (iss grp).src64 false (.s 2) 0 = 0x300000002 ∧
    ((iss grp).src64 false (.s 2) 0).toNat % 64 ≠ 0 ∧ (iss splitGrp).grp.stack.length + 1 ≤ 32 := by decide

/-- A part of depth 1 at a JOIN, alone, and with the other slot's part parked there, elsewhere, running below and running above. -/
def joinGrp (b : Option Part) : Group := { grp with slotA := some { part 0xFFFF with depth := 1 }, slotB := b }

theorem witness_join :
    (st (joinGrp none)).issuing = some (iss (joinGrp none)) ∧ (iss (joinGrp none)).grp.slot true = none ∧
    ([{ part 0xFFFF0000 with depth := 1, park := some 0x1000 }, { part 0xFFFF0000 with depth := 1 }, { part 0xFFFF0000 with depth := 0 },
      { part 0xFFFF0000 with depth := 1, park := some 0x2000 }] : List Part).all
      (fun y => (st (joinGrp (some y))).issuing = some (iss (joinGrp (some y))) && (iss (joinGrp (some y))).grp.slot true == some y) = true := by decide

/-- EXIT with no lane, in a handler, with lanes that stay, with the other slot live, and with the last part. -/
theorem witness_exit :
    (Instr.exit ⟨false, 1⟩).wf = true ∧ (iss grp).lanes ⟨false, 1⟩ = 0 ∧ (iss { grp with mode := .user }).grp.mode ≠ .normal ∧
    (iss splitGrp).lanes ⟨false, 1⟩ ≠ 0 ∧ (iss splitGrp).part.mask &&& ~~~(iss splitGrp).lanes ⟨false, 1⟩ ≠ 0 ∧
    (iss grp).part.mask &&& ~~~(iss grp).lanes .always = 0 ∧ (iss (joinGrp (some (part 0xFFFF0000)))).grp.slot true = some (part 0xFFFF0000) ∧
    (iss grp).grp.barriers = [] := by decide

theorem witness_wordsRaiseTheirCauses :
    (Instr.unassignedOpcode 0x0C70050607000008).wf = true ∧ (iss { grp with slotA := some { part 1 with pc := 0x100000 } }).team.heldWord 0x100000 = none ∧
    ((st one).fetchBlock 0 one team 0x100000).toOption.isNone = true ∧ (0x7F : BitVec 8).toNat < 128 ∧ ¬ (0x80 : BitVec 8).toNat < 128 := by decide

/-- Handlers: a user vector in place, none, and a misaligned one; user handler mode; supervisor handler mode. -/
def vec (v : DWord) (m : Mode := .normal) : Group := { grp with trapvec := v, mode := m }

theorem witness_trapEntry :
    (st (vec 0x3000)).group? 0 = some (vec 0x3000) ∧ (vec 0x3000).slot false = some (part 0xFFFFFFFF) ∧ 0x03 ∈ userCauses ∧ 0x10 ∈ userCauses ∧
    (0x3000 : DWord).toNat % 64 = 0 ∧ (0x3000 : DWord).toNat < 2 ^ 49 ∧ (0x3008 : DWord).toNat % 64 ≠ 0 ∧
    (vec 0x3000 .user).mode = .user ∧ (vec 0).trapvec = 0 ∧ 0x11 ∉ userCauses ∧ 0x11 ∉ reportedCauses ∧ 0x11 < 0x100 ∧
    ((st (vec 0)).core (keyCore 0)).svec = 0x2000 ∧ (0x2000 : DWord).toNat % 64 = 0 := by decide

theorem witness_contextFatal :
    let s := st (vec 0 .supervisor); s.team? (vec 0 .supervisor).team = some team ∧ team.ctx < 4096 ∧ s.csr.frbase.toNat = 0 := by decide

/-- A fault ring of 2^11 reports at 0x40000 (R406). -/
def ringMem : Memory := writeNat [] 0x40010 8 11

def ringSt (g : Group) (c : Core := core0) : State := { st g (c := c) with mem := ringMem, csr := { State.reset.csr with frbase := 0x40000 } }

theorem witness_reportedCause :
    0x1A ∈ reportedCauses ∧ (ringSt grp).ringLog = some 11 ∧ (ringSt grp).ringRoom = true ∧ (st grp).ringLog = none ∧
    (ringSt { grp with backoff := 4096 } { core0 with permits := [true, true, true, true, false] }).ringLog = some 11 ∧
    ({ core0 with permits := [true, true, false, true, false] } : Core).permits.getD 2 false = false ∧
    ({ ringSt grp with mem := writeNat ringMem 0x40000 8 2048 }).ringRoom = false ∧
    ({ ringSt grp with mem := writeNat ringMem 0x40000 8 2048 }).ringLog = some 11 := by decide

theorem witness_faultReport :
    (ringSt grp).ringLog = some 11 ∧ 0xFF < 256 ∧ 15 < 16 ∧ 0xFFFF < 65536 ∧ 4096 ≤ 4096 := by decide

/-- In a user handler: a frame of slot A, one rewritten to a good and one to a bad target. -/
def frame (pc : DWord) (re : Bool) : Frame := { slotA := some (part 0xFF), tepc := pc, rewritten := re, tcause := 0x06, exmask := 0xFF, tmask := 0x0F }

theorem witness_tret :
    let g : Group := { grp with mode := .user, uframe := frame 0x1000 false }
    (st g).issuing = some (iss g) ∧ (iss g).grp.parts.length ≤ 1 ∧ (iss grp).grp.mode = .normal ∧ badTarget 0x1008 ∧ ¬ badTarget 0x1040 ∧
    (let h : Group := { grp with mode := .supervisor, sframe := frame 0x1000 false, taction := 1 }
     h.taction.toNat % 4 = 1 ∧ (iss h).team.live (iss h).grp.gidx = true ∧ (iss h).grp.parts.length ≤ 1) ∧
    (let m : Group := { grp with mode := .supervisor, vregs := (List.range 33).map fun n => (n, ramp n 0) }
     (iss m).team.vregs m.role < m.vregs.length ∧ m.taction.toNat % 4 = 0) := by
  simp only [badTarget]; decide

theorem witness_heldTraps :
    let g : Group := { grp with heldTraps := [{ code := 0x0D }] }
    (ringSt g).group? 0 = some g ∧ g.slot false = some (part 0xFFFFFFFF) ∧ false = g.slotA.isNone ∧ g.mode = .normal ∧ g.suspended = false ∧ g.entering = none ∧
    ((ringSt g).core (keyCore 0)).permits.getD 0 false = false ∧
    (let p : Part := { part 1 with wait := some (.permit 0) }
     (st { grp with slotA := some p }).group? 0 = some { grp with slotA := some p } ∧ 0 ≤ ((st grp).core (keyCore 0)).cycle) := by decide

/-- R206: a number outside the maps, a privileged one, a read-only one, TIMEOFS, and a plain one, in every width. -/
theorem witness_csrWords :
    ([.csrr .always .d (.v 4) 0x800, .csrw .always .d 0x800 (.s 4), .csrx .always .clr .d (.v 4) 0x800 (.s 4), .csrr .always .lo (.v 4) 0x060,
      .csrw .always .hi 0x060 (.v 0), .csrx .always .set .lo (.s 4) 0x060 (.v 1)] : List Instr).all Instr.wf = true ∧
    csrInfo 0x7FF = none ∧ (csrInfo 0x800).isSome = true ∧ (iss grp).grp.mode ≠ .supervisor ∧ (iss (vec 0 .supervisor)).grp.mode = .supervisor ∧
    (csrInfo 0x000).map Prod.snd = some .ro ∧ (csrInfo 0x810).isSome = true ∧ (csrInfo 0x060).map Prod.fst = some false ∧
    (iss one).lanes .always = 1 ∧ (iss one).lanes ⟨false, 1⟩ = 0 ∧ (iss one).budget 1 [.v 4] = none := by decide

theorem witness_csrStores :
    (grp.pnd &&& 0xFFFF &&& 0xFFFF &&& ~~~grp.evmask = 0) ∧ keyCore 0 < 216 ∧ team.ctx ≤ 4096 ∧ (0 : Nat) < 256 ∧ (st grp).team? grp.team = some team ∧
    (vec 0 .supervisor).mode = .supervisor := by decide

/-- R208: level 15 and ratio 2 are the last that are accepted; 16 and 3 trap. The guard p1 names no lane. -/
theorem witness_setperf :
    (Instr.setperf .always (.v 4) (.inline 6) (.imm 3)).wf = true ∧ (iss one).srcN (.inline 6) 0 = 16 ∧ (iss one).srcN (.imm 3) 0 = 3 ∧
    (iss one).srcN (.s 15) 0 = 15 ∧ (iss one).srcN (.inline 2) 0 = 2 ∧ (iss one).lanes ⟨false, 1⟩ = 0 := by decide

theorem witness_tlbi :
    ([.tlbi .always .page (.s 2), .tlbi .always .ctx (.v 0), .tlbi .always .all (.v 0), .trapack .always (.v 4) (.s 2)] : List Instr).all Instr.wf = true ∧
    (iss grp).grp.mode ≠ .supervisor ∧ (iss { one with mode := .supervisor }).lanes .always = 1 ∧
    ((iss grp).srcN (.imm 0xFFFF) 0).toNat / 8 ≥ 216 ∧ ((iss grp).srcN (.s 4) 0).toNat % 8 ≤ 4 ∧ 4 < ((iss grp).srcN (.s 5) 0).toNat % 8 := by decide

/-- [s2] of `one`: s2 = 2 and s3 = 3 name no page; with these it is 0x100. -/
def mem1 : Group := { one with sregs := [0, 0, 0x100, 0, 0x103, 0, 0, 2, 0x40, 0x1FF00] ++ List.replicate 22 0 }

/-- The operand [s2], and [s4], which is not aligned, [s6 + 0x800], and [s8], in the aperture. -/
def at2 : MemArg := ⟨.s 2, .special .zero, 0, 0⟩
def at4 : MemArg := ⟨.s 4, .special .zero, 0, 0⟩
def at6 : MemArg := ⟨.s 6, .special .zero, 0, 0⟩
def at8 : MemArg := ⟨.s 8, .special .zero, 0, 0⟩

theorem witness_loads :
    (Instr.ld .always false .w32 false .dflt (.v 4) at2).wf = true ∧ (Instr.ldb .always 1 false .dflt (.s 8) at2).wf = true ∧
    (iss mem1).lanes .always = 1 ∧ (iss mem1).lanes ⟨false, 1⟩ = 0 ∧ (iss mem1).budget 1 [.v 4] = none ∧
    allPass (st mem1) (iss mem1) (accessOf (iss mem1) 4 false) 1 (laneAddr (iss mem1) at2) (fun _ => .dram 0x100) ∧
    (st mem1).check (iss mem1) (accessOf (iss mem1) 8 false) (laneAddr (iss mem1) at2 0) = .ok (.dram 0x100) := by
  refine ⟨by decide, by decide, by decide, by decide, by decide, fun l h => ?_, rfl⟩
  obtain rfl := lane_of_one h
  rfl

theorem witness_stores :
    (Instr.st .always false .x4 true .dev (.v 4) at2).wf = true ∧ plainPlace (st mem1) 16 (.dram 0x100) ∧
    allPass (st mem1) (iss mem1) (accessOf (iss mem1) 16 true) 1 (laneAddr (iss mem1) at2) (fun _ => .dram 0x100) ∧
    (iss { mem1 with outstanding := [{ atomic := false, dst := .v 9, words := 1, mask := 1, values := [[0]] }] }).grp.outstanding ≠ [] := by
  refine ⟨by decide, trivial, fun l h => ?_, by decide⟩
  obtain rfl := lane_of_one h
  rfl

/-- A lane in the aperture passes too, and its place is plain. -/
theorem witness_storeInScratch :
    (st mem1).check (iss mem1) (accessOf (iss mem1) 4 true) (laneAddr (iss mem1) at8 0) = .ok (.win 0 0x40) ∧ plainPlace (st mem1) 4 (.win 0 0x40) := by
  refine ⟨rfl, Or.inl (by decide)⟩

/-- Bits [63:49], misalignment, the aperture beyond the allocation, no page, no permission, a hole and a demand of R4: each failing check. -/
theorem witness_failedAccess :
    let a := accessOf (iss mem1) 4 false
    (st mem1).check (iss mem1) a (2 ^ 49) = .error { order := 1, code := 0x19 } ∧
    (st mem1).check (iss mem1) a (laneAddr (iss mem1) at4 0) = .error { order := 2, code := 0x06 } ∧
    (st mem1).check (iss mem1) a (0x1FF0000001000) = .error { order := 3, code := 0x19 } ∧
    (st mem1).check (iss mem1) a (0x80000) = .error { order := 4, code := 0x1A, level := 0 } ∧
    (st mem1 team { core0 with tlb := [{ page with leaf := 0x63 }] }).check (iss mem1) a 0x100 = .error { order := 5, code := 0x1C, level := 3 } ∧
    (st mem1 team { core0 with tlb := [{ page with leaf := 0x73 + 2 ^ 38 }] }).check (iss mem1) a 0x100 = .error { order := 6, code := 0x19, level := 3 } := by
  refine ⟨rfl, rfl, rfl, rfl, rfl, rfl⟩

theorem witness_accessCheckOrder : 0 < (accessOf (iss mem1) 4 false).align ∧ Config.scrBase < 2 ^ 49 ∧
    (st mem1).leafOf (some 0) 0 0x100 = .ok (0x73, 19) ∧ team.quarterOn 0 = team.quarters.head? := ⟨by decide, by decide, rfl, rfl⟩

/-- Tables at 0x10000, 0x20000, 0x30000 and 0x40000 below a CTXTAB at 0, for virtual address 0x8_0000. -/
def tables (e0 e1 e2 e3 : Nat) : Memory :=
  writeNat (writeNat (writeNat (writeNat (writeNat [] 0 8 0x10000) 0x10000 8 e0) 0x20000 8 e1) 0x30000 8 e2) 0x40008 8 e3

def walkSt (e0 e1 e2 e3 : Nat) : State :=
  { st mem1 with mem := tables e0 e1 e2 e3, csr := { State.reset.csr with ctxtabSet := true }, cores := [] }

theorem witness_pageWalk :
    (walkSt 0 0 0 0).leafOf none 0 0x80000 = .error (0x1A, 0) ∧ (walkSt 0x20001 0 0 0).leafOf none 0 0x80000 = .error (0x1A, 1) ∧
    (walkSt 0x20001 0x30001 0 0).leafOf none 0 0x80000 = .error (0x1A, 2) ∧ (walkSt 0x20001 0x30001 0x40001 0).leafOf none 0 0x80000 = .error (0x1A, 3) ∧
    (walkSt 0x20001 0x30001 0x40001 0x80001).leafOf none 0 0x80000 = .error (0x1B, 3) ∧
    (walkSt 0x20001 0x30001 0x40001 0x80073).leafOf none 0 0x80000 = .ok (0x80073, 19) := ⟨rfl, rfl, rfl, rfl, rfl, rfl⟩

/-- An outstanding load to v1. -/
def pend1 : Pending := { atomic := false, dst := .v 1, words := 1, mask := 1, values := [[0]] }

theorem witness_cacheWords :
    (Instr.vdrop (.v 0) (.v 2)).wf = true ∧ (st mem1).writesPending 0 mem1 0 2 = false ∧
    (st { mem1 with outstanding := [pend1] }).writesPending 0 { mem1 with outstanding := [pend1] } 0 2 = true ∧
    (st mem1).check (iss mem1) { accessOf (iss mem1) 128 true with align := 1 } (laneAddr (iss mem1) at2 0 &&& ~~~0x7F) = .ok (.dram 0x100) :=
  ⟨by decide, by decide, by decide, rfl⟩

/-- An atomic with plain data, one with a verdict word, one that waits. -/
theorem witness_atomics :
    (Instr.atom .always .cas32 .ar .dflt (.v 4) at2).wf = true ∧ (Instr.red .always .add32 true .dev (.inline 1) at2).wf = true ∧
    (iss mem1).verdictTrap 1 (fun l => isVerdict (BitVec.ofNat 32 ((iss mem1).atomData .addF32 (.v 0) l))) = none ∧
    ((iss { mem1 with vregs := [(1, ramp 0 0xFFA00052)] }).verdictTrap 1 fun l =>
      isVerdict (BitVec.ofNat 32 ((iss { mem1 with vregs := [(1, ramp 0 0xFFA00052)] }).atomData .addF32 (.v 1) l))).isSome = true ∧
    (st mem1).check (iss mem1) { size := 4, align := 4, need := { r := true, w := true }, acc := 2, store := true, windows := false }
      (laneAddr (iss mem1) at2 0) = .ok (.dram 0x100) := ⟨by decide, by decide, by decide, by decide, rfl⟩

theorem witness_atomicOperations : (0xFFFFFFFF : Nat) < 2 ^ 32 ∧ (0xFFFFFFFFFFFFFFFF : Nat) < 2 ^ 64 := by decide

theorem witness_mwait :
    (Instr.mwait .always .geU true true .dev (.s 6) at2).wf = true ∧ (Instr.mwait .always .eq false false .dflt (.inline 1) at2).wf = true ∧
    (st mem1).check (iss mem1) { size := 8, align := 8, need := { r := true }, acc := 7, plain := false, aperture := false, windows := false }
      (laneAddr (iss mem1) at2 0) = .ok (.dram 0x100) ∧
    (st mem1).check (iss mem1) { size := 8, align := 8, need := { r := true }, acc := 7, plain := false, aperture := false, windows := false }
      (laneAddr (iss mem1) at4 0) = .error { order := 2, code := 0x06 } := ⟨by decide, by decide, rfl, rfl⟩

theorem witness_arrivals :
    let p : Pending := { atomic := true, dst := .v 4, words := 2, mask := 1, values := [[7], [8]] }
    let q : Pending := { atomic := false, dst := .s 4, words := 1, mask := 1, values := [[7]] }
    let g : Group := { mem1 with suspended := true, outstanding := [q, p], vregs := [(3, { ramp 1 0 with spill := .memory })] }
    (st g).group? 0 = some g ∧ (0 : Nat) < 216 * 64 ∧ (∀ x ∈ [q], x.atomic ≠ p.atomic) ∧ p.dst.isReg = true ∧ p.words ≤ 32 ∧
    (∀ k, k < p.words → (Operand.next p.dst k).isReg = true) ∧ (tabGet? g.vregs 3).map VReg.spill = some .memory := by decide

/-- A check that passes gives a place. -/
theorem ok_of_isSome {α : Type} {r : Except CheckFail α} (h : r.toOption.isSome = true) : ∃ p, r = .ok p := by
  cases r with
  | ok p => exact ⟨p, rfl⟩
  | error e => cases h

/-- Barrier objects: one short of a flip, full, with EXPECTED 0, at the ends of EXPECTED and DELTA. -/
theorem witness_barrierObject :
    ([⟨4, 3, 0, 7, 0⟩, ⟨4, 4, 0, 7, 0⟩, ⟨0, 0, 0, 7, 0⟩, ⟨65535, 0, 0, 0, 5⟩, ⟨65535, 0, -32768, 0, 0⟩, ⟨32768, 0, 32767, 65535, 1⟩] : List BarObj).all
      (fun o => decide (-32768 ≤ o.delta ∧ o.delta ≤ 32767 ∧ 0 ≤ (o.expected : Int) + o.delta ∧ (o.expected : Int) + o.delta < 65536)) = true := by decide

/-- A barrier object of two arrivals at offset 0x40: s8 holds 0x40, s2 a misaligned offset, s5 one beyond the allocation. -/
def barGrp : Group := { one with sregs := (List.range 32).map fun n => if n = 8 then 0x40 else if n = 5 then 0x1000 else BitVec.ofNat 32 n }

def barSt : State := (st barGrp).writeLoc (.win 0 0x40) [0, 0, 2, 0]

theorem witness_barrierWords :
    barPasses barSt (iss barGrp) true (.s 8) 0 (team.quarters.headD { core := 0, base := 0, kib := 0 }) ∧
    barPasses barSt (iss barGrp) false (.s 8) 0 (team.quarters.headD { core := 0, base := 0, kib := 0 }) ∧
    ([.barArrive .always (.v 4) (.s 8) (.imm 1), .barDrop .always (.v 4) (.s 8) (.s 0), .barJoin .always (.v 4) (.s 8), .barExpect .always (.v 4) (.s 8) (.s 1),
      .barWait .always (.s 8) (.s 0), .barSync .always (.s 8) (.s 0), .barTest .always (.v 4) (.s 8) (.s 0)] : List Instr).all Instr.wf = true ∧
    (barSt.barGet (team.quarters.headD { core := 0, base := 0, kib := 0 }) 0x40).expected = 2 ∧
    (barSt.barGet (team.quarters.headD { core := 0, base := 0, kib := 0 }) 0x40).phase = (barGrp.sreg 0).toNat % 65536 ∧
    (barGrp.sreg 2).toNat % 16 ≠ 0 ∧ (barGrp.sreg 5).toNat % 16 = 0 ∧ team.allocBytes 0 < (barGrp.sreg 5).toNat + 16 := by
  refine ⟨⟨by decide, by decide, rfl, by decide, ok_of_isSome (by decide)⟩, ⟨by decide, by decide, rfl, by decide, ok_of_isSome (by decide)⟩, by decide⟩

theorem witness_participation :
    let l : List (Nat × Option Nat) := [(0, some 1), (16, none), (32, none), (48, some 2)]
    l.length ≤ 4 ∧ (l.map Prod.fst).Nodup ∧ l = (0, some 1) :: l.tail ∧ l.length = 4 ∧ 64 ∉ l.map Prod.fst := by decide

/-- A tag as the team starts with it. -/
def noTag : Tag := { phase := 0, arrived := [], due := none }

/-- Tag 1 of the team, not yet reached by the group, reached by it, absent, and due. -/
theorem witness_routeTags :
    let due : Team := { team with tags := [{ phase := 3, arrived := [0], due := some 0 }, {}] }
    (Instr.tbarArrive .always 1 (.v 4)).wf = true ∧ (Instr.tbarTest .always 1 (.v 4) (.s 1)).wf = true ∧ team.tags[1]? = some noTag ∧ team.tags[2]? = none ∧
    (iss one).grp.outstanding = [] ∧ (iss one).grp.gidx ∉ noTag.arrived ∧ (iss one).grp.gidx ∈ ({ arrived := [0] } : Tag).arrived ∧
    noTag.phase ≠ ((iss one).srcN (.s 1) 0).toNat ∧ noTag.phase = ((iss one).srcN (.s 0) 0).toNat ∧
    (st one due).team? 0 = some due ∧ due.tags[0]? = some { phase := 3, arrived := [0], due := some 0 } ∧ due.quarters.length = 1 ∧
    0 ≤ ((st one due).core 0).cycle := by decide

/-- A ring of the team on handle 1. -/
def ring : Ring := { base := 0, slotSz := 128, n := 4, owner := 0, free := 4 }
def ringTeam (r : Ring) : Team := { team with regions := [{ handle := 1, core := 0, entry := 0, body := .ring r }] }

/-- R378 to R380: slot 15 is the last of EVENTS = 16; a handler offset of 2^24 is too large; tag 255 is the last; handle 2 is no ring. -/
theorem witness_evarm :
    (([.evarm .always .bar 15 .eq .s32 (.s 0) (.s 1) (.inline 1), .evarm .always .time 0 .eq .s32 (.s 2) (.v 0) (.s 3), .evarm .always .mbx 1 .eq .s32 (.inline 10) (.v 0) (.s 3),
      .evarm .always .rfill 1 .eq .s32 (.inline 1) (.v 0) (.s 3), .evarm .always .cnt 2 .eq .s32 (.s 2) (.s 6) (.inline 0),
      .evarm .always .mon 2 .gt .s64 (.s 2) (.s 6) (.inline 0)] : List Instr).all Instr.wf = true ∧
    mem1.events.length = 16 ∧ (iss mem1).part.wait = none ∧ 15 < cardEvents team.card ∧ (mem1.sreg 9).toNat < 2 ^ 24 ∧
    ¬ ((iss mem1).srcN (.inline 15) 0).toNat < 2 ^ 24 ∧ ((iss mem1).srcN (.inline 10) 0).toNat ≤ 255 ∧
    (ringTeam ring).ring? 1 = some ring ∧ (ringTeam ring).ring? 2 = none ∧ (0x40 : Nat) % 16 = 0 ∧ 0x40 + 16 ≤ team.allocBytes 0) ∧
    (st mem1).check (iss mem1) { size := 8, align := 8, need := { r := true }, acc := 7, plain := false, aperture := false, windows := false } 0x100 =
      .ok (.dram 0x100) := ⟨by decide, rfl⟩

theorem witness_evdis : (Instr.evdis .always (.v 4) (.imm 0x8001)).wf = true ∧ one.events.length = 16 ∧ (iss one).budget 1 [.v 4] = none := by decide

/-- Slot 3 pending and slot 5 armed. -/
def evGrp (pend : Bool) : Group :=
  { one with events := (List.range 16).map fun n =>
      if n = 3 then { armed := true, pend, kind := .time, hofs := 2, data := [1, 2] } else if n = 5 then { armed := true, kind := .bar } else {} }

theorem witness_waitany :
    (Instr.waitany (.imm 0x28)).wf = true ∧ (iss (evGrp true)).part.reissue = none ∧ (iss (evGrp true)).part.mask = 1 ∧ (evGrp true).mode = .normal ∧
    (evGrp true).parts.length ≤ 1 ∧ ((evGrp true).ev 3).pend = true ∧ ((evGrp false).ev 3).pend = false ∧ ((evGrp false).ev 5).armed = true ∧
    ((iss (evGrp true)).srcN (.imm 0x28) 0).getLsbD 3 = true ∧ (BitVec.ofNat 64 (cardEntry team.card + 2 * 64) : DWord).toNat % 64 = 0 := by decide

/-- A team of two groups, of which the second has four tokens, one, or has exited. -/
def duoCard : List DWord := [0x1000, 0, 0x0000000100010000, 0, 0x0002020480010000, 0, 0x0000000220000000, 0, 0, 0, 0, 0, 0, 0, 0, 0]
def duo (f : Fate) : Team := { team with card := duoCard, fates := [.live, f] }
def duoSt (mail : List MailToken) (f : Fate := .live) : State :=
  { st one (duo f) with groups := [(0, one), (4, { one with gidx := 1, rgroup := 1, mailbox := mail })] }

theorem witness_mbox :
    (Instr.mbox .always true 254 (.v 4) (.s 1) (.s 8)).wf = true ∧ (duoSt []).issuing = some (iss one (duo .live)) ∧ (duo .live).live 1 = true ∧
    (duo .exited).live 1 = false ∧ (duo .live).fates.length ≤ 2 ∧ (duoSt []).groupKey 0 1 = some 4 ∧ ((iss one).srcN (.s 1) 0).toNat = 1 ∧
    ((duoSt (List.replicate 4 ⟨1, 0, [], none⟩)).group? 4).map (fun g => g.mailbox.length) = some 4 ∧ (4 : Nat) ≠ 0 ∧
    one.outstanding = [] ∧ ({ one with outstanding := [{ atomic := false, dst := .v 0, words := 1, mask := 1, values := [] }] } : Group).quiet = false := by
  decide

theorem witness_sleep :
    (iss one).srcN (.s 0) 0 = 0 ∧ (iss one).srcN (.s 1) 0 = 1 ∧
    (let p : Part := { part 1 with wait := some (.sleep 0) }
     (st { grp with slotA := some p }).group? 0 = some { grp with slotA := some p } ∧ 0 ≤ (st one).time.toNat) ∧
    (let g : Group := { one with events := List.replicate 16 { armed := true, kind := .time } }
     g.events.length = 16 ∧ (g.ev 15).armed = true ∧ (g.ev 15).object.toNat ≤ (st g).time.toNat) := by decide

/-- A group of the team that has waited at a REGROUP since front cycle 5, its lanes 16 to 31 active. -/
def waiting (buddy : Bool) (m : Word) : Group :=
  { one with gidx := 1, rgroup := 1, slotA := some { part m with wait := some (.regroup buddy (.s 8) (.v 0) (.v 1) 5) } }
def regSt (x : Group) (m : Word) : State :=
  { st { grp with slotA := some (part m) } (duo .live) { core0 with cycle := 261 } with groups := [(0, { grp with slotA := some (part m) }), (4, x)] }

theorem witness_regroup :
    AtRegroup (waiting false 0xFFFF0000) false ((waiting false 0xFFFF0000).slotA.getD (part 0)) false (.s 8) (.v 0) (.v 1) 5 ∧
    (Instr.regroup false (.s 8) (.v 0) (.v 1)).wf = true ∧ (regSt (waiting false 0xFFFF0000) 0xFFFF).issuing.isSome = true ∧
    (lanesOf 0xFFFF).length + (lanesOf 0xFFFF0000).length ≤ 32 ∧ 32 < (lanesOf 0xFFFF).length + (lanesOf 0xFFFF8000).length ∧
    (0 ^^^ 1) < cardGroups duoCard 0 ∧ (regSt (waiting true 0xFFFF0000) 0xFFFF).groupKey 0 1 = some 4 ∧ 5 + 256 ≤ 261 ∧
    1 + 1 - 0 ≤ team.vregs 0 ∧ team.vregs 0 < 191 + 1 - 0 ∧ (waiting false 1).role = grp.role ∧
    (waiting false 1).barriers = [] ∧ grp.barriers = [] := by
  refine ⟨⟨rfl, rfl, rfl⟩, by decide⟩

/-- A legal walk record: 16 elements of 4 bytes from 0x1000 to scratch offset 0x200 (R243). -/
def rec16 : List DWord :=
  [0x8800000000001000, 0x200, 0, 0, 0, 0x0400100401000000, 0, 0x0400100401000000]

/-- The bytes of doublewords. -/
def bytesOf (ws : List DWord) : List Byte := ws.flatMap fun w => toBytes 8 w.toNat

/-- The record at scratch offset 0x40. -/
def kickSt (c : Core := core0) : State := (st barGrp team c).writeLoc (.win 0 0x40) (bytesOf rec16)

def quarter0 : Quarter := team.quarters.headD { core := 0, base := 0, kib := 0 }

theorem witness_kick :
    (Instr.kick .always (.s 8) (.inline 1)).wf = true ∧ kickSt.issuing = some (iss barGrp) ∧ team.quarterOn (keyCore 0) = some quarter0 ∧
    kickSt.readRecord quarter0 0x40 = rec16 ∧ recordBad kickSt (iss barGrp) rec16 = false ∧ recordBad kickSt (iss barGrp) (rec16.set 0 0xA800000000001000) = true ∧
    ((iss barGrp).srcN (.inline 0) 0).toNat = 0 ∧ ((iss barGrp).srcN (.inline 7) 0).toNat = 32 ∧ 32 < ((iss barGrp).srcN (.imm 33) 0).toNat ∧
    (barGrp.sreg 8).toNat % 64 = 0 ∧ (barGrp.sreg 2).toNat % 64 ≠ 0 ∧ team.allocBytes 0 < (barGrp.sreg 5).toNat + 64 ∧
    (kickSt.core 0).requests.length + 1 ≤ 256 ∧ (kickSt.core 0).locks.length + 1 ≤ 64 ∧ 64 < (List.replicate 64 (⟨.request 0, []⟩ : Lock)).length + 1 := by decide

/-- R110, R197: a full group that leaves its REGROUP unpaired with a d that its budget refuses, at a position that may take a trap. -/
theorem witness_unpairedBudget :
    let f : Group := { fullGrp with slotA := some { part 1 with wait := some (.regroup false (.v 40) (.v 0) (.v 1) 0) } }
    ((st f).unpairTrap 0 f { b := false, part := f.slotA.getD (part 0), buddy := false, dst := .v 40, vF := .v 0, vL := .v 1, since := 0 }).isSome = true ∧
    (st f).permitAllows 0 = true ∧ f.late = [] ∧
    (let r : Request := { id := 0, num := 0, team := 0, gidx := 3, recOff := 0, record := [0x9800000000001000, 0, 0, 0, 0, 0, 0, 0] }
     recDkind r.record = 3 ∧ recDst r.record % 64 = f.gidx ∧ r.window = none) := by decide

theorem witness_tile : recElement rec16 15 = some (0x1000 + 60) ∧ recElement (rec16.set 7 0x03C0100401000000) 15 = none := by decide

/-- A request with its whole tile to move, one that has moved it into a window, one for the ring, one stopped. -/
def req (d : List DWord) : Request := { id := 5, num := 5, team := 0, gidx := 0, recOff := 0x40, record := d }
def reqSt (r : Request) (t : Team := team) : State := st mem1 t { core0 with requests := [r] }

theorem witness_requestEvents :
    ((reqSt (req rec16)).core 0).requests.find? (fun x => x.id == 5) = some (req rec16) ∧ recBytes rec16 = 64 ∧ recDkind rec16 = 1 ∧ recMc rec16 = false ∧
    recCkind rec16 = 0 ∧ ((reqSt (req rec16)).elements 0 team rec16 0 16).toOption.isSome = true ∧
    (let r := req (rec16.set 0 0xA000000000001000)
     recDkind r.record = 4 ∧ recDst (r.record.set 1 1) % 16 = 1 ∧
     (ringTeam { ring with waiters := [.request 0 5] }).ring? 1 = some { ring with waiters := [.request 0 5] } ∧ 0 < ring.free ∧ ring.state = .opened ∧
     (ringTeam { ring with state := .closed }).ring? 1 = some { ring with state := .closed }) ∧
    (let w : Window := { base := 0x200, size := 64, advance := 64, record := rec16, state := .copying }
     let t : Team := { team with regions := [{ handle := 2, core := 0, entry := 0, body := .window w }] }
     let r : Request := { req rec16 with window := some 2, done := 64 }
     t.window? 2 = some w ∧ recBytes r.record ≤ r.done ∧ ((reqSt r t).core 0).requests.find? (fun x => x.id == 5) = some r) ∧
    (let r : Request := { req rec16 with phase := .stopped 0x80000 0x500 }
     r.phase = .stopped 0x80000 0x500 ∧ r ∈ ((reqSt r).core 0).requests ∧ r.num < 256 ∧ r.team = mem1.team ∧
     ∀ x ∈ ((reqSt r).core 0).requests, x.num = r.num → x.isStopped = true → x = r) := by decide

/-- R259: a legal ring word (NSLOT 64, SLOTSZ 128, OWNER 0 is beyond the allocation; NSLOT 1 fits), a bad one, a template, a busy window. -/
theorem witness_region :
    (Instr.regionAbsent .always 1 (.v 4)).wf = true ∧ (Instr.regionRing .always 1 (.v 4) (.s 8) (.s 5)).wf = true ∧ team.region? 1 = none ∧
    (ringTeam ring).region? 1 = some { handle := 1, core := 0, entry := 0, body := .ring ring } ∧
    (let x : Word := 0x00008001; 0 < bits x 6 0 ∧ bits x 6 0 ≤ 64 ∧ bits x 23 8 = 128 ∧ bits x 27 24 < cardRoles team.card ∧ 0x80 % 128 = 0 ∧
      0x80 + bits x 6 0 * bits x 23 8 ≤ team.allocBytes 0) ∧
    (let x : Word := 0x00008040; bits x 6 0 = 64 ∧ team.allocBytes 0 < 0x80 + bits x 6 0 * bits x 23 8 ∧ 0x80 < team.allocBytes 0) ∧
    bits (0x01008001 : Word) 27 24 = cardRoles team.card ∧ bits (0x00008041 : Word) 6 0 = 65 ∧
    (recordBad kickSt (iss barGrp) (kickSt.readRecord quarter0 0x40) = false ∧ recDkind (kickSt.readRecord quarter0 0x40) = 1 ∧ 0x40 + 64 ≤ team.allocBytes 0) ∧
    (∀ x ∈ (st one).teams, ∀ r ∈ x.2.regions, ¬ (r.core = 0 ∧ r.entry = 0)) ∧ (iss one).budget 1 [.v 4] = none := by decide

theorem witness_ring : 0 < (64 : Nat) ∧ (64 : Nat) ≤ 64 ∧ 63 < 64 := by decide

/-- Rings with a filled slot, none, a waiter ahead, none free, closed, broken, and slots held for writing and reading. -/
theorem witness_ringWords :
    (Instr.racqFill .always 1 true (.v 4)).wf = true ∧ (ringTeam ring).ring? 1 = some ring ∧ team.ring? 1 = none ∧ (iss one).budget 1 [.v 4] = none ∧
    0 < ({ ring with filled := 1 } : Ring).filled ∧ ring.filled = 0 ∧ ring.state = .opened ∧ 0 < ring.free ∧ ring.waiters = [] ∧
    ({ ring with free := 0 } : Ring).free = 0 ∧ ({ ring with waiters := [.group 1] } : Ring).waiters.head? ≠ some (.group one.gidx) ∧
    ({ ring with state := .closed } : Ring).state = .closed ∧ ({ ring with state := .broken } : Ring).state = .broken ∧
    ((iss one).srcN (.s 1) 0).toNat = 1 ∧ (1, Acquirer.group 0) ∈ ({ ring with writing := [(1, .group 0)] } : Ring).writing ∧
    1 ∈ ({ ring with reading := [1] } : Ring).reading ∧ team.roleExited 0 = false := by decide

/-! ### The matrix engine -/

/-- s2 = 1 and s3 = 1; s5 holds a stage descriptor of 32 words, s6 one of 33, s7 a mask beyond ACCT. -/
def matGrp : Group :=
  { one with sregs := (List.range 32).map fun n => if n = 5 then 0x00200000 else if n = 6 then 0x00210000 else if n = 7 then 4 else if n = 8 then 64 else BitVec.ofNat 32 n }

theorem witness_matrixStorage :
    Engine (st matGrp) (iss matGrp) quarter0 ∧ Lowest ((iss matGrp).lanes .always) 0 ∧
    ([.mclaim .always (.v 4) (.s 2) (.imm 2), .mrel .always (.s 0) (.imm 2), .mstage .always (.v 0) (.s 5), .mread .always (.v 8) (.s 5), .mzero .always (.imm 3)]
      : List Instr).all Instr.wf = true ∧
    (quarter0.claims = [(0, 1), (1, 2)] ∧ quarter0.reserve.length = 2 ∧ quarter0.slot? 0 = some 1 ∧ 62 + 2 ≤ 64 ∧ 64 < 63 + 2) ∧
    (let B := matGrp.sreg 5; bits B 31 25 = 0 ∧ bits B 23 22 = 0 ∧ bits B 15 13 = 0 ∧ bits B 7 6 = 0 ∧ bits B 21 16 = 32 ∧ bits B 12 8 + bits B 21 16 ≤ 32 ∧ 160 + bits B 21 16 ≤ 192) ∧
    32 < bits (matGrp.sreg 6) 12 8 + bits (matGrp.sreg 6) 21 16 ∧ ((st matGrp).core 0).loopReads 0 [0] = false ∧ ((st matGrp).core 0).slotsFilling 0 [0, 1] = false ∧
    (st matGrp).drains = [] ∧ ((st matGrp).core 0).loops = [] ∧ (3 : Word).toNat < 2 ^ quarter0.tiles.length ∧ 2 ^ quarter0.tiles.length ≤ (matGrp.sreg 7).toNat ∧
    (let p : Part := part 2; ({ matGrp with slotB := some p } : Group).slot true = some p ∧ p.park = none ∧ p.wait = none ∧ (part 1).turn = false) := by
  refine ⟨⟨by decide, by decide, by decide⟩, ⟨by decide, fun j h => absurd h (Nat.not_lt_zero j)⟩, by decide⟩

/-- A loop of two steps over claimed slots on tile 1, one on the same tile already there, and one with scales whose first step stands. -/
def loop1 (sc : Bool) (done : Nat) : Loop := loopOf (iss matGrp) .e4m3 .e4m3 sc false 0x00010001 2 0 3 |> fun L => { L with done }

theorem witness_matrixLoops :
    (let A : Word := 0x00010001; bits A 31 22 = 0 ∧ bits A 15 14 = 0 ∧ bits A 7 4 = 0 ∧ bits A 3 0 < quarter0.tiles.length ∧ bits (0x1FFFF : Word) 31 17 = 0 ∧
      bits (0x1FFFF : Word) 16 0 = 131071 ∧ bits (0 : Word) 16 0 = 0 ∧ bits (2 : Word) 3 0 = quarter0.tiles.length) ∧
    ((loop1 false 0).blocks = 2 ∧ (loop1 false 0).slotsAt 0 = [0, 1] ∧ ∀ u, u < 2 → ∀ j ∈ (loop1 false 0).slotsAt u, j < 64 ∧ j ∈ quarter0.claims.map Prod.fst) ∧
    (quarter0.vconf.getD 1 {}).pred = .none ∧ ((st matGrp).core 0).loops.length < 8 ∧
    ({ core0 with loops := [loop1 true 1] } : Core).scaleLoop 0 0 1 = some (loop1 true 1) ∧ (loop1 true 1).scaled < (loop1 true 1).done ∧
    (loop1 true 0).done ≤ (loop1 true 0).scaled ∧ core0.scaleLoop 0 0 1 = none ∧ (iss matGrp).verdictTrap 1 (fun _ => false) = none ∧
    (Instr.msyncWait .always (.v 4) (.imm 3)).wf = true ∧ (Instr.msyncStat .always (.v 4)).wf = true ∧ core0.missingScales 0 0 3 = 0 ∧
    ({ core0 with loops := [loop1 true 0] } : Core).missingScales 0 0 3 ≠ 0 := by decide

/-- MDRAIN of one row from tile 0 to [s2], with every element on a page. -/
theorem witness_mdrain :
    let B : Word := 0x00010000
    bits B 31 23 = 0 ∧ bits B 15 14 = 0 ∧ bits B 7 4 = 0 ∧ bits B 22 16 = 1 ∧ bits B 3 0 < quarter0.tiles.length ∧ bits B 13 8 + bits B 22 16 ≤ 64 ∧
    64 ≤ bits (matGrp.sreg 8) 15 0 ∧ (iss mem1).part.rows = 0 ∧ 
    (∀ j, j < 64 → (match (st mem1).check (iss mem1) { size := 4, align := 4, need := { w := true }, acc := 6, plain := false, aperture := false, windows := false }
        (BitVec.ofNat 64 (0x100 + 4 * j)) with
      | .ok (.dram a) => a == 0x100 + 4 * j | _ => false) = true) := by decide

theorem witness_matrixEngine :
    let L := loop1 false 1
    (st matGrp).team? L.team = some team ∧ L.done + 1 = L.nstep ∧ L.sc = false ∧ L.nt = false ∧ (∀ x ∈ [L], x.stopReq = false) ∧
    ({ core0 with loops := [{ L with stopReq := true }] } : Core).loops.find? (fun y => y.stopReq) = some { L with stopReq := true } ∧
    (let d : Drain := { id := 0, row := 0, core := 0, team := 0, gidx := 0, tile := 0, op := .add, f32 := true, addr := 0x100, words := [(0, 1), (1, 2)], ord := some (1, 2) }
     let s : State := { st matGrp with drains := [d], sequences := [⟨0x100, 1, 2⟩] }
     s.drains[0]? = some d ∧ (d.words.map Prod.fst).Nodup ∧ (∀ y ∈ s.drains, y.addr = d.addr → y.parked = false) ∧
     ((s.sequences.find? fun y => y.addr == d.addr).map fun y => (y.next, y.count)) = some (1, 2)) := by decide

/-! ### Verdicts, lists and shading -/

/-- A row of two entries, the last of them empty, and candidates that enter it and do not. -/
theorem witness_topkRow :
    let row : List (Word × Word) := [(0x40000000, 3), (0xFF800000, 0xFFFFFFFF)]
    SortedRow row ∧ row.length = 2 ∧ better (0x3F800000, 4) (0xFF800000, 0xFFFFFFFF) = true ∧ isNanF32 0x7FC00000 = true ∧ isNanF32 0x3F800000 = false := by
  refine ⟨⟨by decide, List.forall_mem_cons.2 ⟨by decide, List.forall_mem_cons.2 ⟨by decide, List.forall_mem_nil _⟩⟩⟩, by decide⟩

/-- A verdict record at scratch offset 0x40: SAOFS 0x400, SBOFS 0x800, NENT 1, THOFS 0, KCAP 32, LIST 0. -/
def vRecord (w2 : DWord) : State := (st matGrp).writeLoc (.win 0 0x40) (bytesOf [0x0000040000000800, 0x0000000100000000, w2])
def listTeam : Team := { team with quarters := [{ quarter0 with lists := [{ kcap := 1, rows := List.replicate 64 [(0xFF800000, 0xFFFFFFFF)] }, {}] }] }

theorem witness_verdictWords :
    (∃ L, listTeam.quarters.head?.bind (fun q => q.lists[0]?) = some L ∧ L.kcap ≠ 0) ∧
    ([.vcfg .always .topk true true (.inline 1) (.s 6), .vcfg .always .none false false (.inline 1) (.special .zero), .topk .always (.inline 0) (.s 0) (.s 8),
      .topkmMerge .always (.inline 0) (.s 2), .topkmStore .always (.inline 0) (.s 2), .topkr .always (.v 8) (.inline 0) (.imm 1), .vthr .always (.inline 0) (.imm 3)]
      : List Instr).all Instr.wf = true ∧
    quarter0.vconf.length = quarter0.tiles.length ∧ quarter0.tiles.length ≤ 16 ∧ quarter0.lists.length = quarter0.tiles.length ∧
    (let w := confWord (vRecord 0x2000) quarter0 0x40
     bits (w 1) 44 32 = 1 ∧ bits (w 0) 63 32 = 0x400 ∧ bits (w 0) 31 0 = 0x800 ∧ bits (w 2) 14 8 = 32 ∧ bits (w 2) 3 0 = 0 ∧ bits (w 1) 63 45 = 0) ∧
    0x800 + 256 * 1 ≤ team.allocBytes 0 ∧ bits (confWord (vRecord 0x4100) quarter0 0x40 2) 14 8 = 65 ∧ 0x1000 - 64 + 64 ≤ team.allocBytes 0 ∧
    (quarter0.lists[1]?.map TopList.kcap) = some 0 ∧
    (0xFFFFFFBF : Word).toNat ≤ 0xFFFFFFBF ∧ 0xFFFFFFBF < (0xFFFFFFC0 : Word).toNat := by
  refine ⟨⟨_, rfl, by decide⟩, by decide⟩

/-- The texture of R341: R32F, 4 x 4 texels of 10 j + i at 0x1000, one level, bilinear, clamped; its binding at 0x100 (R336). -/
def texMem : Memory :=
  let t : List Nat := [0, 0x3F800000, 0x40000000, 0x40400000, 0x41200000, 0x41300000, 0x41400000, 0x41500000, 0x41A00000, 0x41A80000, 0x41B00000,
    0x41B80000, 0x41F00000, 0x41F80000, 0x42000000, 0x42040000]
  cellsSet (w := 8) (cellsSet (w := 8) [] 0x1000 (t.flatMap (toBytes 4)))
    0x100 (bytesOf [0x1000, 0x2100000000018003, 0x42A0000000000000, 0, 0, 0, 0, 0])

/-- u = 0.375, v = 0.5, du/dx = dv/dy = 0.25. -/
def texGrp : Group :=
  { mem1 with vregs := [0x3EC00000, 0x3F000000, 0x3E800000, 0, 0, 0x3E800000].zipIdx.map fun p => (p.2, ramp 0 p.1) }

def texSt : State := { st texGrp with mem := texMem }

/-- The binding reads and is good; a reserved format is not. v189 would pass v191. -/
theorem witness_texture :
    Lowest ((iss texGrp).lanes .always) 0 ∧ texSt.issuing = some (iss texGrp) ∧
    ((texSt.readBinding (iss texGrp) 0x100).toOption.map fun p => (p.1.bad, p.1.cmp, p.2.length)) = some (false, 0, 0) ∧
    (bindingOf [0x1000, 0x5100000000018003, 0x42A0000000000000, 0, 0, 0, 0, 0]).bad = true ∧
    (bindingOf [0x1000, 0x2100000000018003, 0x42A1000000000000, 0, 0, 0, 0, 0]).cmp = 1 ∧
    (texSt.readBinding (iss texGrp) 0x80000).toOption.isNone = true ∧ 188 + 4 ≤ 192 ∧ 192 < 189 + 4 ∧ 190 + 2 ≤ 192 ∧
    ((iss texGrp).srcN (.v 3) 0).toNat = 0 ∧ 15 + 1 ≤ 16 ∧ 16 < 15 + 2 ∧ (texSt.laneRead (iss texGrp) 8 0x100 8).toOption = some 0x1000 := by
  refine ⟨⟨by decide +kernel, fun j h => absurd h (Nat.not_lt_zero j)⟩, by decide +kernel⟩

/-- Pool 0, described at 0x200: four slots of one payload unit at 0x2000, its queues at 0x300, 0x400 and 0x500; entry 0 of FREEQ names slot 2. -/
def poolMem : Memory :=
  cellsSet (w := 8) (cellsSet (w := 8) [] 0x200 (bytesOf [0x2000, 0x0000000300010101, 0x300, 0x400, 0x500, 0, 0, 0])) 0x300
    (bytesOf [1, 0, 0, 0, 0, 0, 0, 0, 2])

def poolSt : State := { st mem1 with mem := poolMem, csr := { State.reset.csr with pooltab := 0x200 } }
def pool0 : Pool := ⟨0x2000, 3, 1, 1, 0x300, 0x400, 0x500, none, 0⟩

theorem witness_pool :
    (poolSt.readPool (poolSt.stageRead (iss mem1)) 0).toOption = some (some pool0) ∧
    (poolSt.readPool (poolSt.stageRead (iss mem1)) 1).toOption = some none ∧ 63 < ((iss mem1).srcN (.inline 8) 0).toNat ∧
    ((iss mem1).srcN (.inline 3) 0).toNat ≤ pool0.nslots ∧ pool0.nslots < ((iss mem1).srcN (.inline 4) 0).toNat ∧ (iss mem1).budget 1 [.v 4] = none ∧
    (16 ≤ 16 * pool0.size ∧ 16 % 4 = 0 ∧ 188 + 16 / 4 ≤ 192 ∧ 2 % 2 = 0) ∧ 16 * pool0.size < 32 ∧
    ((readDwords (poolSt.stageRead (iss mem1)) ((mem1.sreg 3 ++ mem1.sreg 2 : DWord) + 0x20).toNat 4).toOption = some [0, 0, 0, 0]) := by decide +kernel

/-- The queue is neither empty nor full; when RD = WR it is empty, and with four entries it is full. -/
theorem witness_stageQueue :
    readNat poolMem 0x300 8 = 1 ∧ readNat poolMem 0x308 8 = 0 ∧ readNat poolMem 0x400 8 = readNat poolMem 0x408 8 ∧ (4 + 2 ^ 64 - 0) % 2 ^ 64 = pool0.nslots + 1 ∧
    3 < 2 ^ 32 ∧ pool0.nslots < 2 ^ 16 := by decide +kernel

/-- A lane of PSALLOC takes slot 2, and its header clears; a dailies header within R82 and R343, and one with HBITS 7. -/
theorem witness_lanesAct :
    (poolSt.runLanes 1 (popLane (iss mem1) pool0 0x300 true)).fails.length = 0 ∧
    (let m := cellsSet (w := 8) [] 0x200 (bytesOf [0, 0, 0x0000000000000800, 0x300, 0x400])
     (readDailies ({ st mem1 with mem := m }.laneRead (iss mem1) 9) 0x200).toOption.map (fun h => (h.log2n, h.hbits, h.bm, h.ent)) = some (0, 8, 0x300, 0x400)) ∧
    ({ st mem1 with rays := [⟨0, 2, 0, pool0⟩] } : State).rays[0]? = some ⟨0, 2, 0, pool0⟩ := by decide +kernel

/-- Queue 3's record at 0x400C0, its ring at 0x8000, whose card 1 is `c`; the tables are set. -/
def qst (rec : List DWord) (c : List DWord := card) : State :=
  { State.reset with
    boot := .run, tlb2 := [page]
    csr := { State.reset.csr with qtbase := 0x40000, qtbaseSet := true, spillbaseSet := true, ctxtabSet := true, ctxtab := 0x60000 }
    mem := cellsSet (w := 8) (cellsSet (w := 8) [] 0x8080 (bytesOf c)) 0x400C0 (bytesOf rec) }

theorem served (rec : List DWord) (c : List DWord) : Served (qst rec c) 3 := ⟨fun h => Boot.noConfusion h, rfl, rfl, rfl, by decide⟩

/-- HEAD 1, TAIL 3, PROGRESS 1, ring of four cards; disabled, enabled, or with a ring of 2^17. -/
def qOff : List DWord := [0x8000, 0x00002, 1, 3, 1, 0, 0, 0]
def qOn : List DWord := [0x8000, 0x10002, 1, 3, 1, 0, 0, 0]
def qBad : List DWord := [0x8000, 0x00011, 1, 3, 1, 0, 0, 0]

/-- R59 and R51 where the clauses meet: 3 is TAIL, 5 the last value in the ring, 6 the first past it. -/
theorem witness_queueRegisters :
    bit ((qst qOff).queueWord 3 1) 16 = false ∧ bit ((qst qOn).queueWord 3 1) 16 = true ∧ bit ((qst qOn).queueWord 3 1) 18 = false ∧
    ((qst qOn).queueWord 3 3).toNat = 3 ∧ ((qst qOn).queueWord 3 4).toNat + 2 ^ bits ((qst qOn).queueWord 3 1) 4 0 = 5 ∧
    16 < bits ((qst qBad).queueWord 3 1) 4 0 ∧ (qst qOff).recordFails 3 = false ∧ (qst qOn).queueWord 3 4 = (qst qOn).queueWord 3 2 ∧
    (3, 1) ∉ (qst qOn).retired ∧ bit ((qst qOn).queueWord 3 7) 0 = false ∧
    ((qst [0x8000, 0x10002, 3, 3, 1, 0, 0, 0]).queueWord 3 3).toNat ≤ ((qst [0x8000, 0x10002, 3, 3, 1, 0, 0, 0]).queueWord 3 2).toNat := by decide +kernel

/-- A group of context 0 that launches the card at 0x8080 into queue 3. -/
def lst (rec : List DWord) : State := { st one with mem := (qst rec).mem, csr := (qst rec).csr }
def lGrp : Group := { one with sregs := (List.range 32).map fun n => if n = 2 then 0x8080 else if n = 3 then 0 else if n = 4 then 3 else BitVec.ofNat 32 n }

theorem witness_launch :
    (Instr.launch .always (.v 4) (.s 4) (.s 2)).wf = true ∧ (st lGrp).issuing = some (iss lGrp) ∧ (iss lGrp).lanes .always = 1 ∧
    ((iss lGrp).src64 false (.s 2) 0).toNat = 0x8080 ∧ ((iss lGrp).src64 false (.s 4) 0).toNat % 128 ≠ 0 ∧ (iss lGrp).budget 1 [.v 4] = none ∧
    (((lst qOn).check (iss lGrp) { size := 128, align := 128, need := { r := true }, acc := 10, plain := false } 0x8080).toOption = some (.dram 0x8080)) ∧
    ((lst qOn).check (iss lGrp) { size := 128, align := 128, need := { r := true }, acc := 10, plain := false } 0x80000).toOption = none ∧
    (iss lGrp).grp.quiet = true ∧
    bit ((lst qOff).queueWord 3 1) 16 = false ∧ bit ((lst [0x8000, 0x00850002, 1, 3, 1, 0, 0, 0]).queueWord 3 1) 23 = true ∧
    bit ((lst [0x8000, 0x00050002, 1, 3, 1, 0, 0, 0]).queueWord 3 1) 18 = true ∧ (4 : Nat) ≤ 5 - 1 ∧ ¬ (4 : Nat) ≤ 4 - 1 ∧
    ((lst qOn).engineWrites none 3 0x8180 (List.replicate 16 0)).toOption.map (fun u => u.group? 0) = some (some one) ∧
    ((lst qOn).engineWrites none 3 0x80000 (List.replicate 16 0)).toOption.isSome = false := by decide +kernel

/-- Cards at the checks of R14, one for each code, the good one first. -/
theorem witness_cardChecks :
    ([card, card.set 15 1, card.set 0 0x1020, card.set 1 8, card.set 2 0x0100000100010000, card.set 3 4,
      card.set 6 0x0020000000, card.set 6 0x1120000000, card.set 4 0x0002020490010000].map cardCode) = [0, 1, 2, 3, 4, 5, 6, 7, 8] := by decide +kernel

theorem witness_cardRead :
    (qst qOn).dispatches = true ∧ mayRead { qst qOn with resident := [3] } 3 ∧
    ((qst qOn).engineReads none 3 0x8080 16).toOption = some card ∧ cardCode card = 0 ∧ cardArgCount card ≠ 0 ∧
    ((qst [0x80000, 0x10002, 1, 3, 1, 0, 0, 0]).engineReads none 3 0x80080 16).toOption = none ∧
    mayRead { qst [0x80000, 0x10002, 1, 3, 1, 0, 0, 0] with resident := [3] } 3 ∧
    ((qst qOn (card.set 15 1)).engineReads none 3 0x8080 16).toOption = some (card.set 15 1) ∧ cardCode (card.set 15 1) = 1 ∧
    mayRead { qst qOn (card.set 15 1) with resident := [3] } 3 := by
  unfold mayRead; decide +kernel

/-- Queue 3 may be read and is out; resident, and not to be read. -/
theorem witness_queueSwitch :
    (qst qOn).runnable 3 = true ∧ (qst qOn).resident = [] ∧ (qst qOff).runnable 3 = false ∧ (qst qOn).dispatches = true := by decide +kernel

/-- The card with three records left to deal, and the teams of its chunks. -/
def grid : Grid := { ctx := 3, cardIdx := 0, card := card.set 2 0x0100000000030000 }
def dst : State := { qst qOn with resident := [3], grids := [grid] }

theorem witness_dealChunk :
    (∀ x, x ≠ 3 → x ∉ dst.resident) ∧ 3 ∈ dst.resident ∧ bit (dst.queueWord 3 1) 16 = true ∧ bit (dst.queueWord 3 1) 23 = false ∧ dst.undealt 3 = some grid ∧
    (dst.rooms { card := grid.card, kib := allocKib grid.card (cardArgSize grid.card * 16) }).length = 216 ∧
    ({ dst with kept := dst.kept.filter fun y => y.cause ≠ ⟨3, 0, 0⟩ } : State).kept = [] ∧ dst.rrDeal < 4105 ∧
    dst.retakenWaits 3 = false ∧ dst.teams = [] ∧ dst.bestOf grid.card (List.range 216) = some 0 := by
  refine ⟨fun x h => by simpa [dst] using h, by decide +kernel⟩

/-- A waiting team, on a core with a scratch way, and on one without. -/
def wTeam : Team := { id := 7, ctx := 3, card, home := some 5 }
def pst (ways : Nat) : State :=
  { qst qOn with teams := [(1, wTeam)], pending := [1], cores := [(5, { scratchWays := ways, spillWays := 2 })] }

theorem witness_teamPlace :
    (pst 1).team? 1 = some wTeam ∧ 1 ∈ (pst 1).pending ∧ cardCode wTeam.card = 0 ∧ (pst 1).targetOf 1 wTeam = some 5 ∧
    ((pst 1).serving wTeam.cause).fitsNow ((pst 1).shapeOf 1 wTeam) 5 = true ∧ (pst 1).yields 1 wTeam = false := by decide +kernel

theorem witness_carveConversion :
    (pst 0).waits 1 wTeam = true ∧ (pst 0).targetOf 1 wTeam = some 5 ∧ 5 ∈ coresAt wTeam.card 5 ∧
    firstFit ((pst 0).allocs 5) (((pst 0).core 5).scratchWays * 32) wTeam.kib = none ∧ 3 < ((pst 0).core 5).cacheWays ∧
    ((pst 0).core 5).spillWays ≤ ((pst 0).core 5).rsv ∧ (∀ p ∈ (pst 0).groups, keyCore p.1 = 5 → ∀ r ∈ p.2.vregs, r.2.spill ≠ .reserve 0) ∧
    (let c : Core := { scratchWays := 0, spillWays := 3 }; c.spillWays > c.rsv ∧ 1 < c.spillWays) := by decide +kernel

theorem witness_teamStart :
    let s := st one { team with phase := .placed }
    s.team? 0 = some { team with phase := .placed } ∧
    (s.engineReads (some 0) 0 0 (cardArgSize team.card * 2)).toOption.isSome = true ∧ (team.quarters.map Quarter.core).Nodup ∧
    (∀ q ∈ team.quarters, q.base * 1024 + cardArgSize team.card * 16 ≤ (s.core q.core).scratchWays * 32768) := by decide +kernel

/-- Team 0 with its group gone, and a completion counter at 0x100. -/
def doneTeam : Team := { team with ctx := 3, fates := [.exited], card := card.set 3 0x100 }
def dones : State := { qst qOn with groups := [(0, { one with slotA := none })], teams := [(0, doneTeam)], cores := [(0, core0)] }

theorem witness_teamComplete :
    dones.team? 0 = some doneTeam ∧ (∀ f ∈ doneTeam.fates, f ≠ .live) ∧ dones.drains = [] ∧ cardComplete doneTeam.card = 0x100 ∧
    (dones.engineLoc none 3 { r := true, w := true } 0x100 8).toOption = some (.dram 0x100) ∧ 0x100 + 8 ≤ dones.csr.qtbase.toNat ∧
    noneInReserve dones := by unfold noneInReserve; decide +kernel

/-- A sheet of two entries for queue 3, due at 500 ns; a second of a later queue. -/
def entry (p q : Nat) : SheetEntry := { valid := true, offset := 500, policy := p, queue := q, count := 2 }
def sheet (p : Nat) : Sheet := { period := 1000, epoch := 0, entries := [entry p 3, { entry p 4 with offset := 400 }] }

theorem witness_callSheet :
    (∀ p ∈ [0, 1, 2], 0 < (sheet p).period ∧ (sheet p).entries[0]? = some (entry p 3) ∧ 0 + 500 ≤ (600 : Nat) ∧ 0 + 400 + 1000 * 0 < (500 : Nat) ∧
      (entry p 3).fired ≤ (600 - 0 - 500) / 1000) ∧
    bit ((qst [0x8000, 0x30002, 1, 3, 1, 0, 0, 0]).queueWord 3 1) 17 = true ∧
    ((qst [0x8000, 0x30002, 1, 3, 1, 0, 2, 0]).queueWord 3 4).toNat < ((qst [0x8000, 0x30002, 1, 3, 1, 0, 2, 0]).queueWord 3 6).toNat ∧
    ¬ ((qst [0x8000, 0x30002, 1, 3, 1, 0, 1, 0]).queueWord 3 4).toNat < ((qst [0x8000, 0x30002, 1, 3, 1, 0, 1, 0]).queueWord 3 6).toNat ∧
    1000 ≤ (1000 : Nat) ∧ (qst qOn).csr.cstable.toNat % 16 = 0 ∧
    (∀ e, e < 256 → bit (read64 State.reset.mem (State.reset.csr.cstable.toNat + 16 * e)) 63 = false) ∧
    bit (read64 (cellsSet (w := 8) [] 0 (bytesOf [0x8000000000300001, 0x1000003E7])) 0) 63 = true := by decide +kernel

/-! ## The device -/

/-- A port that is up, up with eight failures, training, or down. -/
theorem witness_ports :
    let s : State := { State.reset with ports := [{}, { failures := 8 }, { state := 1 }, { state := 0 }] }
    1 < s.ports.length ∧ (s.ports.getD 1 {}).state = 2 ∧ 8 ≤ (s.ports.getD 1 {}).failures ∧ (s.ports.getD 2 {}).state = 1 ∧
    (let one : State := { State.reset with ports := [{ state := 1 }, { state := 0 }], routes := [4] }
     ∀ k, k < one.ports.length → k ≠ 0 → (one.ports.getD k {}).state ≠ 1 ∧ (one.ports.getD k {}).state ≠ 2) := by decide +kernel

theorem witness_deviceRegisters :
    (qst qOn).boot ≠ .recovery ∧ ({ State.reset with boot := .recovery } : State).boot = .recovery ∧ (qst qOn).dispatches = true ∧ (qst qOn).views = [] ∧
    State.reset.dispatches = false ∧ 0x60000 % 64 = 0 ∧ 0x60000 + 4097 * 32 ≤ Config.dramBytes ∧ Memory.wf (qst qOn).mem = true ∧
    (let s : State := { qst qOn with cores := [(5, { permits := [false, true, false, false, false] })] }
     41 / 8 < 216 ∧ 41 % 8 < 5 ∧ (s.core (41 / 8)).permits.getD (41 % 8) false = true) ∧
    (qst qOn).attreq = none ∧ (∀ q, q < 8 → bit ((qst qOff).queueWord q 1) 16 = false) ∧ bit ((qst qOn).queueWord 3 1) 16 = true ∧
    bits (143 : DWord) 7 0 ≤ 143 ∧ ¬ bits (144 : DWord) 7 0 ≤ 143 := by decide +kernel

theorem witness_linkAccesses :
    (qst qOn).boot ≠ .recovery ∧ Config.dramBytes - 8 + 8 ≤ Config.dramBytes ∧ ¬ Config.dramBytes - 7 + 8 ≤ Config.dramBytes ∧
    Config.dramBytes ≤ Config.apertureBase ∧ 64 * 4095 + 64 ≤ 0x40000 ∧ 0x40080 + 8 * 17 < 0x40110 ∧ 0x40110 < 0x50000 := by decide +kernel

theorem witness_ecc :
    (qst qOn).group? 9 = none ∧ (qst qOn).csr.frbase = 0 ∧
    (let s : State := { qst qOn with csr := { (qst qOn).csr with spillbaseSet := false } }
     s.queueRec 3 ≤ (0x400C8 : DWord).toNat ∧ (0x400C8 : DWord).toNat < s.queueRec 3 + 64) := by decide +kernel

/-- A group about to issue ATOM at 0x1000, its block held. -/
theorem witness_eccTrap :
    let w : DWord := 0x2661C4C2E00000F1
    let tm : Team := { team with blocks := [(0x1000, [w, 0, 0, 0, 0, 0, 0, 0])] }
    let gr : Group := { one with preds := List.replicate 7 0xFFFFFFFF }
    (st gr tm).candidate 0 false = some (gr, part 1, tm) ∧ (st gr tm).permitAllows 0 = true ∧
    tm.wordAt (part 1) = some (w, .ok (.atom ⟨false, 1⟩ .add64 .ar .dev (.s 4) ⟨.s 2, .special .zero, 0, 0⟩)) ∧
    (readWord (.atom ⟨false, 1⟩ .add64 .ar .dev (.s 4) ⟨.s 2, .special .zero, 0, 0⟩)).isSome = true ∧
    ({ key := 0, b := false, grp := gr, part := part 1, team := tm } : Issue).lanes ⟨false, 1⟩ ≠ 0 := by
  refine ⟨by decide +kernel, by decide +kernel, by rfl, by decide +kernel, by decide +kernel⟩

theorem witness_attestation :
    ({ State.reset with attreq := some 0x1000 } : State).attreq = some 0x1000 ∧ State.reset.boot = .verify ∧
    ({ State.reset with attreq := some 0x1000, boot := .run } : State).boot = .run := by decide

/-- A string whose level is below, at and above its target, its voltage short, enough and to spare. -/
theorem witness_power :
    let s (x : Strand) : State := { State.reset with strands := [(0, x)], time := 5000 }
    (s {}).strandTarget 0 < 20 ∧ (s { level := 20 }).strandTarget 0 < ((s { level := 20 }).strand 0).level ∧
    (∀ c ∈ strandCores 0, ∀ q ∈ ((s {}).core c).quads, q = none) ∧ ((s { mv := 640 }).strand 0).mv < (s { mv := 640 }).voltTarget 0 ∧
    (s { mv := 2000, level := (s {}).strandTarget 0 }).voltTarget 0 < 2000 ∧ 650 + 10 * (s {}).strandTarget 0 + 50 < 2000 ∧
    53 < (54 : Nat) ∧
    (let r : State := { s { ramp := some (true, 400) } with uptime := 1400 }
     (r.strand 0).ramp = some (true, 400) ∧ 400 + 1000 ≤ r.uptime ∧ ¬ 1401 + 1000 ≤ r.uptime ∧ (r.strand 0).strimbAt + 1000 ≤ r.uptime) ∧
    (let h : State := { s {} with cores := [(2, { temp := 0x5F1 })] }
     h.csr.hotthr.toNat < (h.core 2).temp ∧ h.teams = []) ∧
    (∀ c ∈ strandCores 0, ((s { heat := true }).core c).temp + (s {}).csr.hothyst.toNat < (s {}).csr.hotthr.toNat) := by decide +kernel

/-- Ratio 1/2 asked for by no demand. -/
theorem witness_laneRatio :
    let s : State := { State.reset with strands := [(0, { mv := 800 })], cores := [(0, { ratio := if (State.reset.coreTarget 0).2 = 1 then 0 else 1 })] }
    (s.core 0).ratio ≠ (s.coreTarget 0).2 ∧ (∀ q ∈ (s.core 0).quads, q = none) ∧
    650 + 10 * (s.strand 0).level + (if (s.coreTarget 0).2 = 2 then 50 else 0) ≤ (s.strand 0).mv := by decide +kernel

/-- The candidate of quadrant 0: nothing else waits, so that it is picked whether due or not; then a held run, and one past its bound. -/
def rst (c : Cand) (r : Option Run) : State :=
  { st { one with candA := c } team { core0 with quads := [r, none, none, none], cycle := 9 } with strands := [(0, { level := 6, mv := 750 })] }

theorem witness_issue :
    (((rst {} none).core 0).quads.length = 4 ∧ ((rst {} none).core 0).served.getD 0 none = none ∧ ((rst {} none).groups.map Prod.fst).Nodup) ∧
    ((rst {} none).quadSlots 0 0).filter (fun p => (rst {} none).ready p.1 p.2) = [(0, false)] ∧
    ((rst { due := true } none).quadSlots 0 0).filter (fun p => (rst { due := true } none).ready p.1 p.2) = [(0, false)] ∧
    (rst {} none).admissible 0 ((rst {} none).runClass 0 false) = true ∧
    (let w : Group := { one with outstanding := [{ atomic := false, dst := .v 3, words := 1, mask := 1, values := [laneList.map fun _ => 0] }] }
     let tm : Team := { team with blocks := [(0x1000, [0x1310080003000004, 0, 0, 0, 0, 0, 0, 0])] }
     let s : State := { rst {} (some { key := 0, slotB := false, cls := 2, held := 8 }) with groups := [(0, w)], teams := [(0, tm)] }
     s.ready 0 false = false ∧ (s.candidate 0 false).isSome = true) ∧
    ((rst { passed := 64 } none).ready 0 false = true) := by decide +kernel

/-! ## Views -/

/-- A descriptor at 0x2000: pages at 0x4000, residency at 0x100, instances at 0x1000, one entry at 0x200, 16 by 16 pixels, records at 0x400. -/
def vdesc : List DWord := [0x4000, 0x100, 0x1000, 0x200, 0x0000000100100010, 0, 0, 0] ++ List.replicate 12 0 ++ [0x400] ++ List.replicate 11 0

/-- Page 0 with one triangle of one vertex, resident when `res` is 1; entry 0 draws `e`; the page's parent is `par`. -/
def viewMem (res e par : Nat) : Memory :=
  writeNat (writeNat (writeNat (writeNat (cellsSet (w := 8) [] 0x2000 (bytesOf vdesc)) 0x4018 4 0x00000101) 0x100 1 res) 0x200 8 e) 0x4024 4 par

def vst (v : View) (res e par : Nat) : State := { qst qOn with mem := viewMem res e par, views := [v] }
def view0 : View := { id := 0, va := 0x2000 }
def view1 (p : ViewPhase) : View := { view0 with desc := vdesc, phase := p }

theorem witness_viewActivate :
    view0 ∈ (vst view0 1 0 0).views ∧ ((vst view0 1 0 0).views.map View.id).Nodup ∧ (vst view0 1 0 0).dispatches = true ∧
    (vst view0 1 0 0).views.countP View.active < 16 ∧ (vst view0 1 0 0).views.find? (fun w => w.phase = .submitted) = some view0 ∧
    ((vst view0 1 0 0).engineReads none 4096 0x2000 32).toOption = some vdesc ∧ (vst view0 1 0 0).ctxBad 4096 = false ∧
    ((vst view0 1 0 0).engineReads none 4096 0x80000 32).toOption = none ∧ bits (dwordAt vdesc 4) 31 16 ≠ 0 ∧ bits (dwordAt vdesc 7) 5 4 ≠ 3 ∧
    (dwordAt vdesc 20).toNat % 64 = 0 ∧ bits (dwordAt (vdesc.set 7 0x30) 7) 5 4 = 3 := by decide +kernel

theorem witness_rasterStart :
    (view1 .active).phase = .active ∧ (dwordAt vdesc 5).toNat = 0 ∧ ((vst view0 1 0 0).picture 0x100 8).toOption = some 1 ∧
    ((vst view0 1 0 0).picture 0x80000 8).toOption = none ∧ (view1 .active).tiles = [] := by decide +kernel

/-- An entry that draws page 0, whose only triangle has no area. -/
def drawn : View := view1 .drawing

theorem witness_drawEntry :
    drawn ∈ (vst drawn 1 0 0).views ∧ drawn.next < bits (dwordAt drawn.desc 4) 63 32 ∧ ((vst drawn 1 0 0).picture 0x200 8).toOption = some 0 ∧
    (readResident (vst drawn 1 0 0).picture 0x100 0).toOption = some true ∧ (readResident (vst drawn 0 0 0).picture 0x100 0).toOption = some false ∧
    ((readHead (vst drawn 1 0 0).picture 0x4000).toOption = some { ntri := 1, nvert := 1, nattr := 0, ok := true }) ∧
    (readMatrix (vst drawn 1 0 0).picture 0x1000 0).toOption.isSome = true ∧
    ((vst drawn 1 0 0).setUpTri drawn 0 0 { ntri := 1, nvert := 1, nattr := 0, ok := true } (List.replicate 12 0) 0).toOption = some (some []) ∧
    ((vst drawn 1 0 0).setUpTri drawn 0 0 { ntri := 1, nvert := 0, nattr := 0, ok := true } (List.replicate 12 0) 0).toOption = some none ∧
    ((vst drawn 1 0 0).setUpTri drawn 0 31 { ntri := 1, nvert := 1, nattr := 0, ok := true } (List.replicate 12 0) 0).toOption = none ∧
    (readResident (vst drawn 1 0 0).picture 0x80000 0).toOption = none ∧ (readHead (vst drawn 1 0 0).picture 0x80000).toOption.isNone = true ∧
    ((vst drawn 1 0x100000000 0).picture 0x200 8).toOption = some 0x100000000 ∧ bits (0x100000000 : DWord) 39 32 ≠ 0 ∧
    dwordAt drawn.desc 17 = 0 ∧ (readParent (vst drawn 0 0 0xFFFFFFFF).picture 0x4000).toOption = some 0xFFFFFFFF ∧
    (readParent (vst drawn 2 0 1).picture 0x4000).toOption = some 1 ∧ (readResident (vst drawn 2 0 1).picture 0x100 1).toOption = some true ∧
    (readResident (vst drawn 0 0 1).picture 0x100 1).toOption = some false := by decide +kernel

theorem witness_samples :
    fLt 0x3F000000 0x3F800000 = true ∧ fLe 0x3F800000 0x3F000000 = false ∧ fLe 0x3F000000 0x3F000000 = true ∧ fLt 0x3F000000 0x3F000000 = false := by
  decide +kernel

/-- A triangle without area is in the buffer; the flush ends without a view fault, and leaves the descriptor. -/
def binnedView : View := { view1 .drawing with next := 1, binned := [(0, { id := 0, verts := [(0, 0, 0), (0, 0, 0), (0, 0, 0)] })] }

theorem witness_sealAndEnd :
    binnedView.phase = .drawing ∧ binnedView.binned ≠ [] ∧ ((vst binnedView 1 0 0).flushView { binnedView with flushes := 1 }).2 = none ∧
    bits (dwordAt binnedView.desc 4) 63 32 ≤ binnedView.next ∧ bit (dwordAt binnedView.desc 7) 7 = false ∧
    ((vst binnedView 1 0 0).flushView binnedView).2 = none ∧
    ((((vst binnedView 1 0 0).flushView binnedView).1.view? 0).map View.desc) = some vdesc ∧
    (view1 .sealed).tiles = [] ∧ (view1 .sealed).aborted = false ∧ ({ view1 .sealed with aborted := true } : View).aborted = true := by decide +kernel

/-- Two sealed tiles, of which the first shows triangle 0 in pixel 0; the open bin of its material. -/
def tile (n : Nat) : VTile := { idx := n, state := .sealed, pixels := (0, 0x3F000000) :: List.replicate 63 (background, 0) }
def scanView : View := { view1 .sealed with tiles := [tile 0, tile 1] }
def scanSt (bins : List MatBin) : State := { vst scanView 1 0 0 with bins, uptime := 1000 }
def matBin : MatBin := { source := .view 0, mat := 0, card, entries := [.pixel 1 3 0 0 false], opened := 0 }

theorem witness_tileScan :
    scanView ∈ (scanSt []).views ∧ tile 0 ∈ scanView.tiles ∧ (tile 0).state = .sealed ∧
    (∀ y ∈ scanView.tiles, y = tile 0 ∨ (y.idx ≠ 0 ∧ (y.state = .sealed → 0 < y.idx))) ∧ scanView.tiles.Nodup ∧ (scanSt []).engineWaiting 7 < 64 ∧
    ((scanSt []).tileMats scanView (tile 0).pixels).toOption = some (some (some 0) :: List.replicate 63 none) ∧ (scanSt []).csr.matdir = 0 ∧
    (scanSt []).bins = [] ∧ (scanSt [matBin]).bin? (.view 0) 0 false = some matBin ∧ matBin.quad = false ∧ matBin.entries.length + 1 < 32 ∧ (tile 0).pixels.length ≤ 64 ∧
    (∃ y ∈ scanView.tiles, y ≠ tile 0 ∧ y.state = .sealed) := by decide +kernel

theorem witness_binTimeout :
    (scanSt [matBin]).bins[0]? = some matBin ∧ matBin.source = .view scanView.id ∧ matBin.opened + 1000 ≤ (scanSt [matBin]).uptime ∧
    matBin.entries.length ≤ 32 := by decide

/-- A placed team of a launch of one pixel. -/
def lTeam : Team := { team with ctx := 4096, phase := .placed, launch := some 0 }
def launch0 : Launch := { source := .view 0, va := 0x2000, mat := 0, seq := 0, kind := 0, entries := [.pixel 1 3 background 0 false], attrs := 0, desc := vdesc, released := true }

theorem witness_inputs :
    let s : State := { st one lTeam with launches := [(0, launch0)] }
    s.team? 0 = some lTeam ∧ tabGet? s.launches 0 = some launch0 ∧ launch0.attrs ≤ 16 ∧ launch0.written = false ∧ (s.launchLanes launch0).1.length = 1 ∧
    ((s.launchLanes launch0).2.group? 0).isSome = true := by decide +kernel

/-! ## Pre-emption -/

/-- The tags of every string are taken, so that an urgent team of priority 3 with one tag has no room; team 1 alone ranks below it. -/
def crowd : State :=
  { qst qOn with
    csr := { (qst qOn).csr with savecnt := 1 }
    pending := [99]
    teams := ((List.range 54).map fun n => (n + 1, { team with id := n + 1, ctx := 3, prio := if n = 0 then 0 else 5, card := card.set 4 0x0008020480010000, quarters := [{ core := 4 * n, base := 0, kib := 4 }] })) ++
      [(99, { id := 99, ctx := 3, card, prio := 3, urgent := true })] }

theorem witness_victims :
    bit crowd.csr.preemptctl 0 = true ∧ crowd.urgentNeed = some (3, ⟨3, 0, 0⟩) ∧ (∀ x ∈ crowd.teams, x.2.prio < 8) ∧ (crowd.teams.map Prod.fst).Pairwise (· < ·) ∧
    ((crowd.team? 1).map fun t => (t.exposed, t.prio, crowd.choice 1 t false)) = some (true, 0, some (.save 0)) ∧
    (∀ x ∈ crowd.teams, x.2.prio < 3 → x.1 = 1) := by decide +kernel

/-- Cards with a hint and IDEM; the window is 20 µs; no slot, a free slot, a slot taken. -/
theorem witness_choices :
    let hinted : Team := { team with ctx := 3, card := (card.set 4 0x8002020480010000).set 5 0x0000000A00000000, issued := 2560 }
    let s : State := { dones with teams := [(0, hinted)] }
    s.drains? hinted = true ∧ s.drains? { hinted with issued := 0 } = false ∧ s.retakes? 0 { hinted with issued := 640 } = true ∧
    s.retakes? 0 { hinted with issued := 641 } = false ∧ s.freeSlot = none ∧ ({ s with csr := { s.csr with savecnt := 1 } } : State).freeSlot = some 0 := by
  decide +kernel

theorem witness_drainTimeout :
    let t : Team := { team with phase := .draining 100 (some ⟨3, 0, 0⟩) }
    let s : State := { st one t with uptime := 101 }
    s.team? 0 = some t ∧ t.keeps ≠ [] ∧ 100 < s.uptime ∧ (st one t).uptime ≤ 100 ∧ s.retakes? 0 t = false ∧ s.freeSlot = none ∧
    ({ s with csr := { s.csr with savecnt := 1 } } : State).freeSlot = some 0 ∧
    s.retakes? 0 { t with card := (card.set 4 0x8002020480010000).set 5 0x0000000A00000000 } = true := by decide +kernel

theorem witness_retake :
    let t : Team := { team with phase := .retaking }
    let s : State := st one t
    s.team? 0 = some t ∧ t.launch = none ∧ (∃ f ∈ t.fates, f = .live) ∧ s.stopped 0 = true ∧ s.drains = [] ∧
    (∀ p ∈ s.groups, p.2.team = 0 → p.2.outstanding = [] ∧ p.2.late = []) ∧ t.moving = false := by decide +kernel

theorem witness_save :
    let t : Team := { team with phase := .saving 0 5 true }
    let s : State := { st one t with csr := { (qst qOn).csr with savebase := 0x1000000, savecnt := 1 } }
    s.team? 0 = some t ∧ (∃ f ∈ t.fates, f = .live) ∧ s.stopped 0 = true ∧ (∀ p ∈ s.groups, p.2.late = [] ∧ p.2.outstanding = []) ∧ t.moving = false ∧
    (∀ q ∈ t.quarters, (s.core q.core).requests = []) ∧ t.quarters.length ≤ 4 ∧
    (∀ q ∈ t.quarters, q.kib ≤ 640 ∧ (∀ c ∈ q.claims, c.1 < 64) ∧ q.tiles.length ≤ 16 ∧ q.lists.length ≤ 16) ∧
    noneInReserve s := by unfold noneInReserve; decide +kernel

/-- An image of the team's one group; a bad one. -/
def image (b : Bool) : Image :=
  { team := 0, slot := 0, groups := [one], bad := b, parts := [{ quarter := { core := 0, base := 0, kib := 4, tiles := [0, 1], vconf := [{}, {}], lists := [{}, {}], steps := [0, 0] } }] }
def savedTeam : Team := { team with ctx := 4096, phase := .saved 0, quarters := [] }
def savedSt (b : Bool) : State := { qst qOn with mem := [], cores := [(0, core0)], teams := [(0, savedTeam)], images := [image b] }

theorem witness_restore :
    (savedSt true).team? 0 = some savedTeam ∧ (savedSt true).image? 0 = some (image true) ∧ (savedSt true).nextRestore = some 0 ∧
    (savedSt false).nextRestore = some 0 ∧ (savedSt false).targetOf 0 savedTeam = some 0 ∧
    (savedSt false).fitsNow ((savedSt false).shapeOf 0 savedTeam) 0 = true ∧ (savedSt false).slotBytes (image false) = (image false).bytes ∧
    (∀ c, c < 216 → ((image false).groups.countP fun g => groupCore savedTeam.card 0 g.role g.rgroup = c) ≤
      if c ∈ coresAt savedTeam.card 0 then groupsPerCore savedTeam.card else 0) := by decide +kernel

/-- Core 0 is hot; core 4, of another string, is the first with a free range. Then issue has stopped; a group is still in a run; the team has
become ineligible. -/
theorem witness_migration :
    let s : State := { st one with cores := [(0, { core0 with temp := 0x600 }), (4, { scratchWays := 1 })] }
    let t : Team := { team with moving := true }
    let m : State := { s with teams := [(0, t)] }
    s.csr.hotthr.toNat < (s.core 0).temp ∧ s.mover 0 = none ∧ s.migrant 0 = some (0, team) ∧ s.coolCore 0 0 team = some 4 ∧ (s.core 4).temp ≤ s.csr.hotthr.toNat ∧
    m.mover 0 = some (0, t) ∧ m.eligible 0 0 t = true ∧ m.coolCore 0 0 t = some 4 ∧ m.stopped 0 = true ∧ m.runs 0 false one = false ∧
    (∀ p ∈ m.groups, p.2.outstanding = [] ∧ p.2.late = []) ∧
    ({ m with cores := [(0, { core0 with temp := 0x600, quads := [some { key := 0, slotB := false, cls := 0 }, none, none, none] }), (4, { scratchWays := 1 })] } : State).stopped 0 = false ∧
    ({ m with groups := [(0, { one with mode := .user })] } : State).eligible 0 0 t = false := by decide +kernel

/-! ## The step and memory -/

/-- The word at 0x1000 for `withFetchWord`: FMUL, a word that does not decode, and none held. -/
def fst (w : Nat) : State := State.reset.withFetchWord 64 w

/-- The issue of the word that `fst` places. -/
def fiss (w : Nat) : Issue := { key := 0, b := false, grp := ((fst w).group? 0).getD {}, part := { pc := 0x1000, mask := 0xFFFFFFFF }, team := ((fst w).team? 0).getD team }

theorem witness_step :
    let w : Nat := 0x1310080003000004; let x : Instr := .fmul .always .rne (.v 8) (.v 0) (.v 3); let s := fst w; let i := fiss w
    s.agenda = [] ∧ s.nextMove = .turn 0 ∧ s.nextActor 0 = some (0, 0, false) ∧ s.group? 0 = some i.grp ∧ i.grp.quad = 0 ∧ i.grp.slot false = some i.part ∧
    s.team? i.grp.team = some i.team ∧ i.team.phase = .running ∧ i.part.park = none ∧ i.part.wait = none ∧ i.grp.entering = none ∧
    i.grp.trapDue = false ∧ i.grp.suspended = false ∧ i.grp.atWindow = false ∧ i.grp.outstanding = [] ∧ i.grp.late = [] ∧ (s.core 0).quads.getD 0 none = some { key := 0, slotB := false, cls := 0 } ∧
    s.runGoesOn { key := 0, slotB := false, cls := 0 } = true ∧ i.team.heldWord 0x1000 = some 0x1310080003000004 ∧ i.team.heldWord 0x1040 = none ∧
    s.scoreboard 0 false i.grp i.part i.team x = false ∧ i.refillFirst x = none ∧ (decode 0xFFFFFFFFFFFFFFFF).toOption.isNone = true ∧
    ({ s with agenda := [.turn 0] } : State).agenda = [.turn 0] ∧
    (let g : Group := { i.grp with outstanding := [{ pend1 with dst := .v 3 }] }
     ({ s with groups := [(0, g)] } : State).scoreboard 0 false g i.part i.team x = true ∧
     ({ s with groups := [(0, g)] } : State).waitsMemory 0 g (({ i with grp := g }.reads x).and ({ i with grp := g }.writes x)) = true) ∧
    (let g : Group := { i.grp with outstanding := [{ pend1 with dst := .v 9 }] }
     let u : State := { s with groups := [(0, g)] }
     g.outstanding ≠ [] ∧ u.scoreboard 0 false g i.part i.team x = false ∧
     ((after (exec x u)).bind fun g => g.slotA.map Part.waitsToPerform) = some false) := by decide +kernel

theorem witness_canonical :
    Memory.wf [(3, 1), (0x40, 2)] = true ∧ Memory.wf (writeNat [(3, 1), (0x40, 2)] 3 1 0) = true ∧ writeNat [(3, 1), (0x40, 2)] 3 1 0 = [(0x40, 2)] ∧
    Memory.wf (fst 0).mem = true := by decide

theorem witness_encoding :
    (Instr.fmul .always .rne (.v 8) (.v 0) (.v 3)).wf = true ∧ encode (.fmul .always .rne (.v 8) (.v 0) (.v 3)) = some 0x0310080003000004 ∧
    decodesTo 0x9310080003000004 (.fmul .always .rne (.v 8) (.v 0) (.v 3)) = true := by decide +kernel

/-! ### Further clauses: special operands, ends of ranges, traps, the outside -/

/-- R164: finite encodings of each format; exact values within the range, on its edge, and beyond every rounding of it. -/
theorem witness_roundedArithmetic :
    finiteIn fmt32 0x7F7FFFFF ∧ finiteIn fmt32 0x80000001 ∧ ¬ finiteIn fmt32 0x7F800000 ∧ finiteIn fmt16 0x7BFF ∧ finiteIn fmtBf16 0x7F7F ∧
    (((valueIn fmt32 0x7F7FFFFF + valueIn fmt32 0x80000001).natAbs : Int) ≤ maxIn fmt32 * 2 ^ 0) ∧
    ((maxIn fmt32 + lastStep fmt32) * 2 ^ 0 ≤ ((valueIn fmt32 0x7F7FFFFF + valueIn fmt32 0x7F7FFFFF).natAbs : Int)) ∧
    (((valueIn fmt16 0x3C00 * valueIn fmt16 0x8001).natAbs : Int) ≤ maxIn fmt16 * 2 ^ unitOf fmt16) ∧
    ((maxIn fmtBf16 + lastStep fmtBf16) * 2 ^ unitOf fmtBf16 ≤ ((valueIn fmtBf16 0x7F7F * valueIn fmtBf16 0x4000).natAbs : Int)) := by
  unfold finiteIn; decide +kernel

/-- R184: the sources of each outcome: a number, one half, an infinity, a signalling and a quiet NaN, codes 0xFF and 0x7F, ternary code 2. -/
theorem witness_conversionSources :
    cvtValue .f32 false 0x3F000000 = some (2 ^ 148) ∧ RoundsToInt .rne (2 ^ 148) 0 ∧ RoundsToInt .rup (2 ^ 148) 1 ∧ RoundsToInt .rz (-(2 ^ 148)) 0 ∧
    cvtValue .n8 true 0xFE = some (2 ^ 276) ∧ cvtValue .t2 false 3 = some (-(2 ^ 149)) ∧ cvtValue .f32 false 0x7F800000 = none ∧
    (cvtField fmt32 0xFF800000 / 2 ^ 23 % 2 ^ 8 = 2 ^ 8 - 1 ∧ cvtField fmt32 0xFF800000 % 2 ^ 23 = 0 ∧ cvtField fmt32 0x7F800001 % 2 ^ 23 = 1 ∧
      NumType.fmt .f16 = some fmt16 ∧ fmt16.inf = true ∧ cvtField fmt16 0x7E00 / 2 ^ 10 % 2 ^ 5 = 2 ^ 5 - 1) ∧
    (0xFF : DWord).toNat % 256 = 255 ∧ (0xFF : DWord).toNat % 128 = 127 ∧ (6 : DWord).toNat % 4 = 2 := by
  simp only [RoundsToInt]; decide +kernel

/-- R154: EXIT of a part while a stacked one runs on, and while the other slot's is parked; JOIN below depth 0. -/
theorem witness_settledParts :
    (let g : Group := { grp with stack := [{ part 0xFF00 with pc := 0x1040, depth := 1 }] }
     (st g).issuing = some (iss g) ∧ (iss g).part.mask &&& ~~~(iss g).lanes .always = 0 ∧ (g.setSlot false none).parts ≠ []) ∧
    (let g := joinGrp (some { part 0xFFFF0000 with depth := 1, park := some 0x2000 })
     ∀ p ∈ (g.setSlot false none).parts, p.park ≠ none) ∧
    0 < (iss (joinGrp none)).part.depth := by decide

/-- R400: supervisor handlers with TACTION 2 and 3. -/
theorem witness_tretActions :
    let h (n : Word) : Group := { grp with mode := .supervisor, sframe := frame 0x1000 false, taction := n }
    (h 2).taction.toNat % 4 = 2 ∧ (h 3).taction.toNat % 4 = 3 ∧ (h 2).mode ≠ .normal ∧ (h 2).parts.length ≤ 1 ∧ (st (h 2)).issuing = some (iss (h 2)) ∧
    team.live 0 = true := by decide

/-- R77, R112: the ways and reserves at their ends; a view is active or none is; a sheet stands or none does. -/
theorem witness_csrEvents :
    (8 : Word).toNat % 16 = 8 ∧ (9 : Word).toNat % 16 = 9 ∧ (1 : Word).toNat % 8 = 1 ∧ (4 : Word).toNat % 8 = 4 ∧ (5 : Word).toNat % 8 = 5 ∧
    keyCore 0 < 216 ∧ team.ctx ≤ 4096 ∧ (st grp).views = [] ∧ (st grp).sheet = none ∧
    (let v : View := { id := 0, va := 0x2000, phase := .active }; v ∈ ({ st grp with views := [v] } : State).views ∧ v.phase = .active) := by decide

/-- R404: with the four ordinary permits held a reported cause waits; then until the front cycle it noted; another group of the core waits
for room (R406). -/
theorem witness_permitWaits :
    let held : Core := { core0 with permits := [true, true, true, true, false] }
    let g : Group := { grp with heldTraps := [{ code := 0x18 }], heldUntil := some 9 }
    ((ringSt g held).core (keyCore 0)).permits = [true, true, true, true, false] ∧ 0x18 ∈ reportedCauses ∧ (ringSt g held).ringLog ≠ none ∧
    (ringSt g held).group? 0 = some g ∧ 9 ≤ ({ held with cycle := 9 } : Core).cycle ∧ held.permitPos ≤ keyPos 0 + 1 ∧
    (let e : Entry := { trap := { code := 0x18 }, slotB := false, esc := false, permit := 0, since := 0 }
     ({ ringSt grp with groups := [(0, grp), (4, { grp with entering := some e })] } : State).groups.any (fun q => q.2.entering.isSome) = true) := by
  decide

/-- R361, R370, R372: a group with a read outstanding at an `ATOM`, a BAR or a TBAR word. -/
theorem witness_outstandingReads :
    let g : Group := { barGrp with outstanding := [{ atomic := false, dst := .v 9, words := 1, mask := 1, values := [[0]] }] }
    (st g).issuing = some (iss g) ∧ (iss g).grp.outstanding ≠ [] ∧ (iss g).lanes .always ≠ 0 ∧ (iss g).verdictTrap 1 (fun _ => false) = none ∧
    (iss g).budget 1 [.v 4] = none := by decide

/-- R374: a word that meets its condition already, and one that does not; its check passes. -/
theorem witness_armedWord :
    let s : State := { st mem1 with mem := writeNat [] 0x100 8 7 }
    (s.check (iss mem1) { size := 8, align := 8, need := { r := true }, acc := 7, plain := false, aperture := false, windows := false } 0x100) =
      .ok (.dram 0x100) ∧ readNat s.mem 0x100 8 = 7 ∧
    MonTest.holds .geU true (BitVec.ofNat 64 7) 7 = true ∧ MonTest.holds .geU true (BitVec.ofNat 64 7) 8 = false :=
  ⟨rfl, by decide, by decide, by decide⟩

/-- R389: a group that sends to itself, its own queue full; an answer that would pass the budget; the payload's registers. -/
theorem witness_mboxSelf :
    let g : Group := { one with mailbox := List.replicate 4 ⟨1, 0, [], none⟩ }
    (st g).groupKey 0 0 = some 0 ∧ 4 ≤ g.mailbox.length ∧ team.live 0 = true ∧ ((iss g).srcN (.s 0) 0).toNat = 0 ∧
    (let f : Group := { fullGrp with slotA := some (part 1) }; ((iss f).budget 1 [.v 40]).isSome = true ∧ f.mailbox.length < 4) ∧
    (Instr.mbox .always false 0 (.v 4) (.s 0) (.v 0)).wf = true := by decide

/-- R198: a range of as many registers as the role has holds its own destination, and not another. -/
theorem witness_pairedBudget :
    team.vregs grp.role = 32 ∧ ¬ (31 + 1 - 0 + 1 ≤ team.vregs grp.role) ∧ 31 + 1 - 0 + 0 ≤ team.vregs grp.role := by decide

/-- R204, R390: a sleep in a frame, and a slot whose TIME has come and is not pending. -/
theorem witness_sleeps :
    sleeping { part 1 with wait := some (.sleep 9) } = true ∧ sleeping (part 1) = false ∧
    (let x : Group := { one with events := List.replicate 16 { armed := true, kind := .time, object := 5 } }
     (x.ev 15).pend = false ∧ (x.ev 15).armed = true ∧ ({ st x with time := 5 } : State).group? 0 = some x ∧ (x.ev 15).object.toNat ≤ 5) := by decide

/-- R105: the other slot is live, neither parked nor waiting. -/
theorem witness_engineTurn :
    let g : Group := { matGrp with slotB := some (part 2) }
    (st g).issuing = some (iss g) ∧ (iss g).team.quarterOn (keyCore 0) = some quarter0 ∧ (iss g).lanes .always ≠ 0 ∧ g.slot true = some (part 2) ∧
    (part 2).park = none ∧ (part 2).wait = none ∧ (part 1).turn = false := by decide

/-- R341: of taps in two lines the check that fails first in order decides. -/
theorem witness_failingTaps :
    let e (n : Nat) : CheckFail := { order := n, code := 0x19 }
    let taps : List (Except (CheckFail × DWord) Tap) := [.error (e 6, 0), .error (e 4, 8), .error (e 4, 16)]
    taps = [.error (e 6, 0)] ++ .error (e 4, 8) :: [.error (e 4, 16)] ∧ (e 4).code ≠ 0 ∧ (e 4).order < (e 6).order ∧ (e 4).order ≤ (e 4).order := by
  exact ⟨rfl, by decide, by decide, by decide⟩

/-- R22, R61: a word of a card that the device took before it changed, and words that it did not. -/
theorem witness_cardWordTaken :
    let s : State := { qst qOn with ahead := [{ queue := 3, card := 1, va := 0x8084, word := 9 }] }
    (s.engineReads none 3 0x8080 16).toOption.isSome = true ∧
    (s.ahead.find? fun a => a.queue = 3 && a.card = 1 && a.va = 0x8080 + 8 * 0 + 4 * 1).map (·.word) = some 9 ∧
    (s.ahead.find? fun a => a.queue = 3 && a.card = 1 && a.va = 0x8080 + 8 * 15 + 4 * 0) = none := by decide +kernel

/-- R438: the last port of a device with a route to device 4 trains; a load of lane 0 from there has not arrived. -/
theorem witness_lostRoutes :
    let key := Config.dramBytes + 0
    let g : Group := { one with outstanding := [{ atomic := false, dst := .v 9, words := 1, mask := 1, values := [List.replicate 32 0], peers := [(0, 4)] }] }
    let s : State := { st g with ports := [{ state := 1 }, { state := 0 }], routes := [4] }
    0 < s.ports.length ∧ (s.ports.getD 0 {}).state = 1 ∧ (∀ k, k < s.ports.length → k ≠ 0 → (s.ports.getD k {}).state ≠ 1 ∧ (s.ports.getD k {}).state ≠ 2) ∧
    (∀ c ∈ s.cores, c.2.requests = []) ∧ s.group? 0 = some g ∧ 4 ∈ s.routes ∧ (1 : Word).getLsbD 0 = true ∧ s.images = [] ∧ 0 ≤ key := by decide

/-- R435: a read of a page that holds bad data at its first byte, its last, and beyond; the group's own load reads it. -/
theorem witness_badData :
    (st mem1).check (iss mem1) (accessOf (iss mem1) 4 false) 0x100 = .ok (.dram 0x100) ∧ (st mem1).badData = none ∧
    (accessOf (iss mem1) 4 false).need.r = true ∧ (accessOf (iss mem1) 4 true).need.r = false ∧
    (let t : Team := { team with blocks := [(0x1000, [0x06000480C2E00003, 0, 0, 0, 0, 0, 0, 0])] }
     ((st mem1 t).candidate 0 false).isSome = true) := by
  refine ⟨rfl, by decide, by decide, by decide, by decide⟩

/-- R57, R226: the sizes and offsets of link accesses at their ends; a device without a number, and with one. -/
theorem witness_linkEnds :
    bit (qst qOn).csr.devnum 8 = false ∧ bit (0x101 : DWord) 8 = true ∧ (0 : Nat) < 0x50000 ∧ (8 : Nat) < 9 ∧ (Config.dramBytes - 8) + 8 ≤ Config.dramBytes ∧
    17 < 18 ∧ (0x40041 : Nat) % 8 ≠ 0 ∧ 0x40041 < 0x50000 := by decide

/-- R70: a wait counter that cannot be read. -/
theorem witness_waitCounter :
    let v : View := { view1 .active with desc := vdesc.set 5 0x80000 }
    (dwordAt v.desc 5).toNat ≠ 0 ∧ ((vst v 1 0 0).picture 0x80000 8).toOption = none ∧ v.tiles = [] ∧ v ∈ (vst v 1 0 0).views := by decide +kernel

/-- R76: a buffer that takes a triangle, one that has room for none, and a flush that ends without a view fault. -/
theorem witness_binnedTriangles :
    let d : Drawn := { s := vst drawn 1 0 0, v := drawn }
    d.fault = none ∧ (d.s.setUpTri d.v 0 0 { ntri := 1, nvert := 0, nattr := 0, ok := true } (List.replicate 12 0) 0).toOption = some none ∧
    (d.s.setUpTri d.v 0 31 { ntri := 1, nvert := 1, nattr := 0, ok := true } (List.replicate 12 0) 0).toOption = none ∧
    ((vst binnedView 1 0 0).flushView { binnedView with flushes := 1 }).2 = none ∧ binnedView.binned ≠ [] := by decide +kernel

/-- R78: the lines of a spilled tile read back. -/
theorem witness_spilledTile :
    let v : View := { scanView with desc := vdesc.set 16 0x8000, tiles := [{ tile 0 with spilled := true }] }
    ((readDwords (vst v 1 0 0).picture ((dwordAt v.desc 16).toNat + 768 * 0) 96).toOption.map List.length) = some 96 := by decide +kernel

/-- R444: a bin of a pool none of whose bins has taken a record for 1,000 ns, one that has, and a later bin behind one that is due. -/
theorem witness_poolBins :
    let b : MatBin := { matBin with source := .pool 2, opened := 900, last := 0 }
    let s := scanSt [b]
    ¬ b.opened + 1000 ≤ s.uptime ∧ (∀ x ∈ s.bins, x.source = b.source → x.last + 1000 ≤ s.uptime) ∧
    ¬ ({ b with last := 900 } : MatBin).last + 1000 ≤ s.uptime ∧
    ((scanSt [matBin, { matBin with mat := 1, opened := 900 }]).bins[1]?).map MatBin.opened = some 900 := by decide

/-- R95: a launch whose pixels still hold their tile, with one and with two references. -/
theorem witness_releasedPixels :
    let l : Launch := { launch0 with released := false, entries := [.pixel 0 3 background 0 false] }
    let c := l.entries.countP fun e => match e with
      | .pixel tile _ _ _ helper => tile == 0 && !helper
      | .slot _ _ => false
    c = 1 ∧ ({ tile 0 with refs := 2, state := .classified } : VTile).state ≠ .shaded ∧ 1 < 2 ∧ bit (dwordAt vdesc 7) 7 = false ∧ l.released = false := by
  decide

/-- R345, R346, R352: a store that performs late; a group that is not calm; a unit that may perform past another and one that may not; the places
beyond scratch and operand memory. -/
theorem witness_lateUnits :
    let u (a lane : Nat) : LateOp := { lane, part := 1, loc := .dram a, size := 4, effect := .store 7, word := 0 }
    let p : Part := { part 1 with delay := true }
    (iss { mem1 with slotA := some p }).part.delay = true ∧ (iss mem1).part.delay = false ∧ ¬ calm { mem1 with late := [u 0x100 0] } ∧ calm mem1 ∧
    ([u 0x100 0, u 0x104 1] : List LateOp) = [u 0x100 0] ++ u 0x104 1 :: [] ∧ u 0x104 1 ∉ [u 0x100 0] ∧
    (u 0x100 0).loc.address + 4 ≤ (u 0x104 1).loc.address ∧ ¬ (u 0x100 0).loc.address + 4 ≤ (u 0x102 1).loc.address ∧
    (1 : Word) &&& 2 = 0 ∧ (core0.scratchWays ≤ 24) ∧ zeroRow 0x500000 = zeroRow 0x5FFFFF ∧ (st mem1).group? (posKey 0 0) = some mem1 ∧
    0x300000 + 32768 * 0 + 0x607F < 0x308000 ∧ mem1.bound (0x17F / 128) = true := by
  unfold calm; decide

/-- R374, R383, R388: an armed MBX slot for tag 5 and one for every tag; a token for each; a settled queue; one that is bound and dispatched. -/
theorem witness_mbxBinding :
    let e (tag : Word) : EvSlot := { armed := true, kind := .mbx, object := tag.setWidth 64 }
    let x : Group := { one with events := (List.range 16).map fun n => if n = 2 then e 5 else if n = 15 then e 255 else {} }
    let y : Group := { x with mailbox := [⟨5, 63, [1, 2, 3, 4], some 2⟩], events := x.events.set 2 { e 5 with pend := true } }
    x.events.length = 16 ∧ takesTag x 2 5 ∧ (∀ m, m < 2 → ¬ takesTag x m 5) ∧ takesTag x 15 6 ∧ ¬ takesTag x 16 6 ∧ tokensSettled x ∧ tokensSettled y ∧
    (y.ev 2).kind = .mbx ∧ (y.ev 2).pend = true ∧ y.mailbox.find? (fun t => t.slot == some 2) = some ⟨5, 63, [1, 2, 3, 4], some 2⟩ ∧ (63 : Nat) < 64 ∧
    (let z : Group := { one with mailbox := [⟨7, 0, [9], none⟩] }; tokensSettled z ∧ z.mailbox = [] ++ ⟨7, 0, [9], none⟩ :: []) := by
  refine ⟨by decide, ⟨by decide, by decide, by decide, fun t h => absurd h List.not_mem_nil, by decide⟩, fun m h hm => ?_,
    ⟨by decide, by decide, by decide, fun t h => absurd h List.not_mem_nil, by decide⟩, fun h => absurd h.1 (by decide),
    fun t h => absurd h List.not_mem_nil, fun t h hs => ?_, by decide, by decide, by decide, by decide, fun t h hs n hn => ?_, rfl⟩
  · obtain rfl | rfl : m = 0 ∨ m = 1 := by omega
    · exact absurd hm.2.1 (by decide)
    · exact absurd hm.2.1 (by decide)
  · obtain rfl := List.mem_singleton.1 h
    exact absurd hs (by decide)
  · have unarmed : ∀ k, k < 16 → (one.ev k).armed = false := by decide
    exact Bool.false_ne_true ((unarmed n hn.1).symm.trans hn.2.1)

/-- R302, R303: no rows; an ordered contribution of one; a row whose first element has no page. -/
theorem witness_mdrainRows :
    let E (rank count : Nat) : Word := BitVec.ofNat 32 (64 + rank * 2 ^ 16 + (count - 1) * 2 ^ 24)
    bits (0x3F : Word) 22 16 = 0 ∧ bits (E 0 1) 15 0 = 64 ∧ bits (E 0 1) 23 16 < bits (E 0 1) 31 24 + 1 ∧ bits (E 255 256) 23 16 < bits (E 255 256) 31 24 + 1 ∧
    bits (E 1 1) 31 24 + 1 ≤ bits (E 1 1) 23 16 ∧ (iss mem1).part.rows = 0 ∧
    ((st mem1).check (iss mem1) { size := 4, align := 4, need := { r := true, w := true }, acc := 6, plain := false, aperture := false, windows := false } 0x80000
      |>.toOption.isNone) = true := by decide

/-- R15: the empty card, next in PROGRESS and behind another. -/
theorem witness_emptyCard :
    let c := card.set 2 0x0000000000010000
    let s := { qst qOn c with resident := [3] }
    let r := { qst [0x8000, 0x10002, 1, 3, 0, 0, 0, 0] c with resident := [3] }
    cardCode c = 0 ∧ cardArgCount c = 0 ∧ mayRead s 3 ∧ (s.engineReads none 3 0x8080 16).toOption = some c ∧ s.ahead = [] ∧
    s.queueWord 3 4 = s.queueWord 3 2 ∧ (3, 1) ∉ s.retired ∧ (3, 2) ∉ s.retired ∧ bit (s.queueWord 3 7) 0 = false ∧
    mayRead r 3 ∧ r.queueWord 3 4 ≠ r.queueWord 3 2 ∧ (3, 0) ∉ r.retired := by
  unfold mayRead; decide +kernel

/-- R418: room that a drained victim has released for one urgent team is room for that team alone. -/
theorem witness_keptRoom :
    let s : State := { dst with kept := (List.range 216).map fun c => { cause := ⟨3, 9, 0⟩, core := c, groups := 64, slots := 0, tiles := 0, tags := 0, base := 0, kib := 0 } }
    let x : Shape := { card := grid.card, kib := allocKib grid.card (cardArgSize grid.card * 16) }
    (s.serving ⟨3, 9, 0⟩).roomAt x 0 = true ∧ (s.serving ⟨3, 0, 0⟩).roomAt x 0 = false := by decide +kernel

/-- R438: a store to a device whose last route is lost, still to perform. -/
theorem witness_lostStores :
    let u : LateOp := { lane := 0, part := 1, loc := .dram Config.dramBytes, size := 4, effect := .store 7, word := 3 }
    let g : Group := { one with late := [u] }
    (st g).group? 0 = some g ∧ g.outstanding = [] ∧ ((g.late.filter fun u => u.reply.isNone).map fun u => (u.word, u.lane)).eraseDups.length = 1 := by decide

/-- R333: a ray at the depth limit, whose slot can be read. -/
theorem witness_depthLimit :
    let y : Ray := ⟨0, 2, 0, pool0⟩
    let s : State := { poolSt with rays := [y] }
    s.rays[0]? = some y ∧ (readWords s.picture (y.desc.slotAddr y.slot) 16).toOption.isSome = true ∧ ({ pool0 with depth := 0 } : Pool).depth ≤ bits (0 : Word) 3 0 := by
  decide +kernel

/-- R424: a saved team that a waiting one goes before, and one that nothing does. -/
theorem witness_outrankedRestore :
    (savedSt false).savedPrio = some 0 ∧ (∀ x ∈ (savedSt false).contenders, savedKeyAt 0 ≤ x) ∧ (savedSt false).kept = [] ∧
    (let s : State := { savedSt false with pending := [1], teams := [(0, savedTeam), (1, { wTeam with prio := 7, home := none })] }
     s.nextRestore = some 0 ∧ s.savedPrio = some 0 ∧ ∃ x ∈ s.contenders, x < savedKeyAt 0) := by decide +kernel

/-- R117: a destination with a range, and one that converts a way first. -/
theorem witness_migrationRoom :
    let s (n : Nat) : State := { st one with cores := [(0, { core0 with temp := 0x600 }), (4, { scratchWays := n })] }
    (s 1).fitsNow ((s 1).shapeOf 0 team) 4 = true ∧ (s 0).fitsNow ((s 0).shapeOf 0 team) 4 = false ∧ (s 0).coolCore 0 0 team = some 4 ∧
    (4 / 4 ≠ 0 / 4) := by decide +kernel

/-- R420: rows in flight keep a team from being saved; parked contributions do not; no multicast waits. -/
theorem witness_saveWithDrains :
    let d : Drain := { id := 0, row := 0, core := 0, team := 0, gidx := 0, tile := 0, op := .add, f32 := true, addr := 0x100, words := [(0, 1)], ord := some (1, 2), parked := true }
    (∀ x ∈ [d], x.team = 0 → x.parked = true) ∧ ({ d with parked := false } : Drain).parked = false := by decide

/-- R419: the team of a launch, which keeps its launch. -/
theorem witness_retakeOfLaunch :
    let t : Team := { lTeam with phase := .retaking }
    let s : State := { st one t with launches := [(0, launch0)] }
    s.team? 0 = some t ∧ t.launch = some 0 ∧ tabGet? s.launches 0 = some launch0 ∧ (∃ f ∈ t.fates, f = .live) ∧ s.stopped 0 = true := by decide +kernel

/-! ## Effects that the spec works out -/

/-- Every lane active, with the given lanes in the given registers. -/
def lanesGrp (rs : List (Nat × List Word)) : Group := { grp with vregs := rs.map fun r => (r.1, { lanes := r.2 ++ List.replicate (32 - r.2.length) 0 }) }

/-- The group after the word `w`. -/
def runWord (w : DWord) (g : Group) : Option Group :=
  match decode w with
  | .ok i => after (exec i (st g))
  | .error _ => none

/-- Lanes 0 to n of v`r` after an instruction. -/
def lanesAfter (i : Instr) (g : Group) (r n : Nat) : Option (List Word) := (after (exec i (st g))).map fun g => (List.range n).map fun l => g.v r l

/-- R8, R169: addition wraps, and `.sat` clamps; a source may be the destination. -/
theorem test_iadd :
    let g := lanesGrp [(1, [0x7FFFFFFF, 0xFFFFFFFF]), (2, [1, 1])]
    lanesAfter (.iadd .always .s32 false (.v 1) (.v 1) (.v 2)) g 1 2 = some [0x80000000, 0] ∧
    lanesAfter (.iadd .always .s32 true (.v 3) (.v 1) (.v 2)) g 3 2 = some [0x7FFFFFFF, 0] ∧
    lanesAfter (.iadd .always .n32 true (.v 3) (.v 1) (.v 2)) g 3 2 = some [0x80000000, 0xFFFFFFFF] := by decide +kernel

/-- R169: the high half of a product, signed and unsigned. -/
theorem test_imulh :
    let g := lanesGrp [(1, [0xFFFFFFFF]), (2, [2])]
    lanesAfter (.imulh .always .s32 (.v 3) (.v 1) (.v 2)) g 3 1 = some [0xFFFFFFFF] ∧ lanesAfter (.imulh .always .n32 (.v 3) (.v 1) (.v 2)) g 3 1 = some [1] := by decide +kernel

/-- The example words of `cvt.bs20.xe8m0`: 0x85 gives 64.0, 0xFF gives the canonical NaN. -/
theorem test_cvtXe8m0 :
    (runWord 0x144002070000100F (lanesGrp [(7, [0x85, 0xFF])])).map (fun g => (g.v 2 0, g.v 2 1, g.fflags)) = some (0x42800000, 0x7FC00000, 0) := by decide +kernel

/-- R184's table for `.e4m3`: 0.3, 460.0, 464.0, 470.0, -0.0 and the canonical NaN. -/
theorem test_cvtE4m3 :
    lanesAfter (.cvt .always .e4m3 .f32 false false .rne (.v 2) (.v 1)) (lanesGrp [(1, [0x3E99999A, 0x43E60000, 0x43E80000, 0x43EB0000, 0x80000000, 0x7FC00000])]) 2 6 =
      some [0x2A, 0x7E, 0x7E, 0x7E, 0x80, 0x7F] := by decide +kernel

/-- R179: `fsin` of 0.5 is 1.0. -/
theorem test_fsin : lanesAfter (.fsin .always .rne (.v 2) (.v 1)) (lanesGrp [(1, [0x3F000000])]) 2 1 = some [0x3F800000] := by decide +kernel

/-- R188's table: the lanes of VTEST and VSEL. -/
def vGrp : Group := lanesGrp [(2, [0x41200000, 0xFFA00031, 0xFFA00052, 0x7FC00000]), (3, List.replicate 4 0x40800000), (6, List.replicate 4 0x7F800000), (7, List.replicate 4 0xFF800000)]

theorem test_verdictWords :
    ((after (exec (.vtest .always .above .set false 1 (.v 0) (.v 2) (.v 3)) (st { vGrp with slotA := some (part 15) }))).map fun g => g.preds.getD 0 0) = some 3 ∧
    lanesAfter (.vtest .always .dec .set true 2 (.v 9) (.v 2) (.v 0)) vGrp 9 4 = some [0xFFFFFFFF, 3, 5, 0xFFFFFFFF] ∧
    lanesAfter (.vsel .always (.v 5) (.v 2) (.v 6) (.v 7)) vGrp 5 4 = some [0x41200000, 0x7F800000, 0xFF800000, 0x7FC00000] := by decide +kernel

/-- The fragment of R193: lanes 0 to 7 active, v2 holds 5, 0, 3, 0, 0, 7, 2, 0. -/
theorem test_ballotAndScan :
    let g : Group := { lanesGrp [(6, [1, 0, 1, 0, 0, 1, 1, 0])] with slotA := some (part 0xFF), preds := [0x65, 0, 0, 0, 0, 0, 0] }
    ((runWord 0x1520040000000101 g).map fun g => g.v 4 7) = some 0x65 ∧
    ((runWord 0x1540030600000040 g).map fun g => (List.range 8).map (g.v 3)) = some [0, 1, 1, 2, 2, 2, 3, 4] := by decide +kernel

/-- R153: the first step of the chapter's example: lanes 0 to 15 are sent forward, and go to slot B at depth 1. -/
theorem test_braSplits :
    let g : Group := { grp with preds := [0x0000FFFF, 0, 0, 0, 0, 0, 0] }
    ((after (exec (.bra ⟨false, 1⟩ 4) (st g))).map fun g => [g.slotA, g.slotB].map (Option.map fun p => (p.mask, p.depth, p.pc))) =
      some [some (0xFFFF0000, 1, 0x1008), some (0x0000FFFF, 1, 0x1100)] := by decide +kernel

/-- The regrouping example of R198. -/
theorem test_regroup :
    let a : Group := { lanesGrp [(5, (List.range 32).map fun l => BitVec.ofNat 32 (10 * l)), (6, [1, 1])] with slotA := some (part 0x212) }
    let b : Group := { lanesGrp [(5, (List.range 32).map fun l => BitVec.ofNat 32 (100 + 10 * l))] with
      gidx := 1, rgroup := 1, lorigin := (List.range 32).map (fun l => BitVec.ofNat 32 (32 + l)), slotA := some { part 5 with wait := some (.regroup true (.s 3) (.v 5) (.v 5) 0) } }
    let s : State := { st a (duo .live) core0 with groups := [(0, a), (4, b)] }
    let t := next (exec (.regroup true (.s 3) (.v 5) (.v 5)) s)
    ((t.group? 0).map fun g => ((List.range 6).map (g.v 5), g.v 6 0, g.sreg 3, g.slotA.map fun p => p.mask)) = some ([10, 40, 90, 100, 120, 0], 0, 0, some 0x1F) ∧
    ((t.group? 0).map fun g => (List.range 5).map fun l => g.lorigin.getD l 0) = some [1, 4, 9, 32, 34] ∧ ((t.team? 0).map fun x => x.fates) = some [.live, .exited] := by decide +kernel

/-- The texture example of R341. -/
theorem test_tex :
    let g : Group := { texGrp with sregs := [0, 0, 0, 0, 0x100, 0] ++ List.replicate 26 0 }
    let s : State := { st g with mem := texMem }
    ((after (exec (.tex .always .grad (.v 8) (.v 0) (.s 4) (.special .zero)) s)).map fun g => [8, 9, 10, 11].map fun r => g.v r 0) = some [0x41800000, 0, 0, 0x3F800000] ∧
    ((after (exec (.texg .always .grad 0 (.v 8) (.v 0) (.s 4) (.special .zero)) s)).map fun g => [8, 9, 10, 11].map fun r => g.v r 0) =
      some [0x41300000, 0x41400000, 0x41A80000, 0x41B00000] := by decide +kernel

/-- Chapter 23: the projection of the view, triangles 0 and 3, and what the attribute engine writes for the pixel (2, 4). -/
def proj23 : List Word := [0x3E800000, 0, 0, 0xBF800000, 0, 0xBE800000, 0, 0x3F800000, 0, 0, 0x3F800000, 0, 0, 0, 0, 0x3F800000]
def tri0 : List Vec := [⟨0, 0, 0x3E800000, f1⟩, ⟨0, 0x41000000, 0x3E800000, f1⟩, ⟨0x41000000, 0, 0x3E800000, f1⟩].map (clipOf proj23)
def tri3 : List Vec := [⟨0x40000000, 0x40800000, 0x3F400000, f1⟩, ⟨0x40000000, 0x41000000, 0x3F400000, f1⟩, ⟨0x40C00000, 0x41000000, 0x3F400000, f1⟩].map (clipOf proj23)

theorem test_raster :
    setUp 8 8 0 tri0 = [[(0, 0, 0x3E800000), (0, 2048, 0x3E800000), (2048, 0, 0x3E800000)]] ∧
    ((setUp 8 8 0 tri0).map fun t => [(0, 0), (3, 3), (0, 6), (0, 7), (4, 3)].map fun p : Nat × Nat => coverAt t p.1 p.2) =
      [[some 0x3E800000, some 0x3E800000, some 0x3E800000, none, none]] ∧
    ((setUp 8 8 0 tri3).map fun t => [(2, 5), (2, 4), (4, 7), (5, 7)].map fun p : Nat × Nat => coverAt t p.1 p.2) = [[some 0x3F400000, none, some 0x3F400000, none]] := by decide +kernel

theorem test_attributeEngine : lambdas 8 8 2 4 tri3 = [0, 0x3E000000, 0xBE800000, 0x3E800000, 0x3E800000, 0x80000000] := by decide +kernel

/-- The example of chapter 21: team A is retaken, B drained, C and D saved. -/
theorem test_victims :
    let t (idem : Bool) (hint issued : Nat) (revoked : Bool) : Team :=
      { team with card := (card.set 4 (if idem then 0x8002020480010000 else 0x0002020480010000)).set 5 (BitVec.ofNat 64 (hint * 2 ^ 32)), issued, revoked }
    let pick (now : Nat) (t : Team) : Option Choice := ({ st one t with uptime := now, csr := { State.reset.csr with savecnt := 1 } } : State).choice 0 t false
    pick 50000 (t true 1000 40000 false) = some .retake ∧ pick 300000 (t true 1000 250000 false) = some .drain ∧
    pick 40000 (t true 1000 30000 true) = some (.save 0) ∧ pick 70000 (t false 0 90000 false) = some (.save 0) := by decide +kernel

/-- A step from reset through `withFetchWord`: `mov.n32 v1, 0x5678`; a word that does not decode takes cause 1 in a group with a handler, and ends
one without (R142, R393, R394, R412). -/
theorem test_step :
    ((after (step (fst 0x12B00100EF567801))).map fun g => (g.v 1 31, g.slotA.map fun p => p.pc)) = some (0x5678, some 0x1008) ∧
    trapped (step { fst 0xFFFFFFFFFFFFFFFF with groups := [(0, { one with trapvec := 0x3000 })] }) = some (1, 0, 0) ∧
    ((next (step (fst 0xFFFFFFFFFFFFFFFF))).teams.map fun p => p.2.fates) = [[.abnormal]] := by decide +kernel

theorem test_decodeTableWord : decodeTableWord 64 0x12B00100EF567801 = some (.mov .always .n32 (.v 1) (.imm 0x5678)) ∧ decodeTableWord 12 0 = some (.nop ⟨false, 0⟩) := by decide +kernel

end Sys2Proof.Tests
end

section
/-! SUPPORT. Accesses: what the caches and TLBs leave of device memory, each outcome of the checks of one address and of the walk, and the
trap that the lanes of a word come to (R217, R221 to R224, R232, R233). -/

namespace Sys2Proof.Machine

open Claim

/-! ## Caches and TLBs leave the bytes of memory alone -/

/-- Steps that each leave memory alone leave it alone together. -/
theorem State.foldl_mem {α : Type} (f : State → α → State) (h : ∀ t x, (f t x).mem = t.mem) (l : List α) (s : State) :
    (l.foldl f s).mem = s.mem := by
  induction l generalizing s with
  | nil => rfl
  | cons x l ih => rw [List.foldl_cons, ih, h]

@[simp] theorem State.snoop_mem (s : State) (core line : Nat) (f : L1Line → Option L1Line) : (s.snoop core line f).mem = s.mem := rfl

@[simp] theorem State.fillL2_mem (s : State) (line : Nat) : (s.fillL2 line).mem = s.mem := rfl

@[simp] theorem State.suspend_mem (s : State) (key : Nat) : (s.suspend key).mem = s.mem := State.modGroup_mem s key _

@[simp] theorem State.l1Load_mem (s : State) (core pa n : Nat) (alloc : Bool) : (s.l1Load core pa n alloc).mem = s.mem := by
  cases alloc <;> simp [State.l1Load]

@[simp] theorem State.l1Store_mem (s : State) (core pa n : Nat) (alloc : Bool) : (s.l1Store core pa n alloc).mem = s.mem := by
  simp [State.l1Store]

@[simp] theorem State.fillTlb_mem (s : State) (core : Option Nat) (ctx va : Nat) : (s.fillTlb core ctx va).mem = s.mem := by
  rw [State.fillTlb]
  cases s.leafOf core ctx va with
  | error e => rfl
  | ok p => cases core <;> rfl

@[simp] theorem State.fillLanes_mem (s : State) (i : Issue) (X : Word) (va : Nat → DWord) : (s.fillLanes i X va).mem = s.mem := by
  refine State.foldl_mem _ (fun t l => ?_) _ s
  split
  · exact t.fillTlb_mem _ _ _
  · rfl

@[simp] theorem State.cacheLoads_mem (s : State) (i : Issue) (ps : List (Nat × Loc)) (n : Nat) (nl1 : Bool) (va : Nat → DWord) :
    (s.cacheLoads i ps n nl1 va).mem = s.mem := by
  refine State.foldl_mem _ (fun t p => ?_) ps s
  cases p.2.physical? with
  | none => rfl
  | some pa => exact t.l1Load_mem _ _ _ _

@[simp] theorem State.cacheStores_mem (s : State) (i : Issue) (ps : List (Nat × Loc)) (n : Nat) (nl1 : Bool) (va : Nat → DWord) :
    (s.cacheStores i ps n nl1 va).mem = s.mem := by
  refine State.foldl_mem _ (fun t p => ?_) ps s
  cases p.2.physical? with
  | none => rfl
  | some pa => exact t.l1Store_mem _ _ _ _

/-- No lane stores, no byte changes. -/
@[simp] theorem State.issueStores_nil_mem (s : State) (i : Issue) (n : Nat) (data : Nat → Nat) : (s.issueStores i [] n data).mem = s.mem := by
  rw [State.issueStores]
  split
  · exact s.modGroup_mem _ _
  · rfl

theorem sameBytes_of_mem {s t : State} (h : t.mem = s.mem) : SameBytes s t := fun _ => by rw [h]

/-! ## The walk (R221 to R223) -/

/-- The entry that an address indexes in the table at `tbl`, where `nb` bits from `shift` on are the index (R221). -/
def walkEntry (mem : Memory) (va shift nb tbl : Nat) : DWord := read64 mem (tbl + va / 2 ^ shift % 2 ^ nb * 8)

/-- A valid entry of level `lv` that names the table of the next level (R221, R223). -/
structure TableEntry (e : DWord) (lv : Nat) : Prop where
  valid : bit e 0 = true
  table : bit e 1 = false
  high : bits e 63 46 = 0
  low : bits e 8 2 = 0
  above : lv < 3
  aligned : lv = 0 → bits e 11 9 = 0

section
variable {mem : Memory} {va shift nb lv tbl : Nat} {rest : List (Nat × Nat × Nat)}

/-- An entry that is not valid ends the walk with a page fault at its level. -/
theorem walkFrom_invalid (h : bit (walkEntry mem va shift nb tbl) 0 = false) :
    walkFrom mem va ((shift, nb, lv) :: rest) tbl = .error (pageFault, lv) := by
  rw [walkEntry] at h
  simp [walkFrom, h]

/-- A table entry sends the walk on to the table it names. -/
theorem walkFrom_table (h : TableEntry (walkEntry mem va shift nb tbl) lv) :
    walkFrom mem va ((shift, nb, lv) :: rest) tbl = walkFrom mem va rest (bits (walkEntry mem va shift nb tbl) 45 9 * 512) := by
  obtain ⟨hvalid, htable, hhigh, hlow, habove, haligned⟩ := h
  have hlv : lv ≠ 3 := by omega
  rw [walkEntry] at *
  simp +contextual [walkFrom, hvalid, htable, hhigh, hlow, hlv, haligned]

/-- A table entry at the last level is a table fault. -/
theorem walkFrom_table_at_last (hvalid : bit (walkEntry mem va shift nb tbl) 0 = true) (htable : bit (walkEntry mem va shift nb tbl) 1 = false) :
    walkFrom mem va ((shift, nb, 3) :: rest) tbl = .error (tableFault, 3) := by
  rw [walkEntry] at *
  simp [walkFrom, hvalid, htable]

/-- A valid leaf below level 0 translates. -/
theorem walkFrom_leaf (hvalid : bit (walkEntry mem va shift nb tbl) 0 = true) (hleaf : bit (walkEntry mem va shift nb tbl) 1 = true)
    (hlv : lv ≠ 0) (hgood : leafBad (walkEntry mem va shift nb tbl) shift = false) :
    walkFrom mem va ((shift, nb, lv) :: rest) tbl = .ok (walkEntry mem va shift nb tbl, shift) := by
  rw [walkEntry] at *
  simp [walkFrom, hvalid, hleaf, hlv, hgood]

end

/-- The first-level TLB that serves an access: a core's own, or none for an engine outside the cores (R224). -/
def State.firstTlb (s : State) : Option Nat → List TlbEntry
  | some c => (s.core c).tlb
  | none => []

/-- With no TLB entry a translation is a walk from the context's root (R223, R224). -/
theorem State.leafOf_of_miss {s : State} {core : Option Nat} {ctx va : Nat} (hset : s.csr.ctxtabSet = true)
    (hfirst : tlbFind (s.firstTlb core) (s.ctxAsid ctx) va = none) (hsecond : tlbFind s.tlb2 (s.ctxAsid ctx) va = none) :
    s.leafOf core ctx va = walkFrom s.mem va ptLevels (s.ctxRoot ctx) := by
  cases core <;> simp only [State.firstTlb] at hfirst <;> simp [State.leafOf, hfirst, hsecond, hset]

/-- A leaf of the last level that breaks none of R222, on this device. -/
theorem leafBad_last_eq_false {e : DWord} (h63 : bits e 63 60 = 0) (h50 : bits e 50 46 = 0) (h18 : bits e 18 12 = 0) (h9 : bit e 9 = false)
    (h7 : bit e 7 = false) (h3 : bits e 3 2 = 0) (hmemt : bits e 11 10 ≤ 1) (hlocal : bit e 59 = false) : leafBad e 19 = false := by
  have hmemt' : ¬ 2 ≤ bits e 11 10 := by omega
  simp [leafBad, h63, h50, h18, h9, h7, h3, hmemt', hlocal]

/-- R221 to R223: a walk that no TLB entry spares, level by level. -/
theorem leafOf_reads_four_levels : pageWalkReadsFourLevels := by
  intro s core ctx va hset hfirst hsecond next root e0 e1 e2 e3 table
  have h0 : walkEntry s.mem va 40 9 (s.ctxRoot ctx) = e0 := rfl
  have h1 : walkEntry s.mem va 31 9 (bits e0 45 9 * 512) = e1 := rfl
  have h2 : walkEntry s.mem va 25 6 (bits e1 45 9 * 512) = e2 := rfl
  have h3 : walkEntry s.mem va 19 6 (bits e2 45 9 * 512) = e3 := rfl
  clear_value e3 e2 e1 e0
  have entry {e : DWord} {top : Bool} {lv : Nat} (h : table e top) (hlv : lv < 3) (htop : lv = 0 → top = true) : TableEntry e lv := by
    obtain ⟨hvalid, htable, hhigh, hlow, haligned⟩ := h
    exact ⟨hvalid, htable, hhigh, hlow, hlv, fun h => haligned (htop h)⟩
  have walk : s.leafOf core ctx va = walkFrom s.mem va ptLevels (s.ctxRoot ctx) := State.leafOf_of_miss hset hfirst hsecond
  have from1 (t0 : table e0 true) : s.leafOf core ctx va = walkFrom s.mem va (ptLevels.drop 1) (bits e0 45 9 * 512) := by
    subst h0; rw [walk]; exact walkFrom_table (entry t0 (by omega) fun _ => rfl)
  have from2 (t0 : table e0 true) (t1 : table e1 false) :
      s.leafOf core ctx va = walkFrom s.mem va (ptLevels.drop 2) (bits e1 45 9 * 512) := by
    rw [from1 t0]; subst h1; exact walkFrom_table (entry t1 (by omega) (by omega))
  have from3 (t0 : table e0 true) (t1 : table e1 false) (t2 : table e2 false) :
      s.leafOf core ctx va = walkFrom s.mem va (ptLevels.drop 3) (bits e2 45 9 * 512) := by
    rw [from2 t0 t1]; subst h2; exact walkFrom_table (entry t2 (by omega) (by omega))
  refine ⟨fun hv => ?_, fun t0 hv => ?_, fun t0 t1 hv => ?_, fun t0 t1 t2 => ⟨fun hv => ?_, fun hv ht => ?_, ?_⟩⟩
  · rw [walk]; exact walkFrom_invalid (h0 ▸ hv)
  · rw [from1 t0]; exact walkFrom_invalid (h1 ▸ hv)
  · rw [from2 t0 t1]; exact walkFrom_invalid (h2 ▸ hv)
  · rw [from3 t0 t1 t2]; exact walkFrom_invalid (h3 ▸ hv)
  · rw [from3 t0 t1 t2]; exact walkFrom_table_at_last (h3 ▸ hv) (h3 ▸ ht)
  · intro hv hl h63 h50 h18 h9 h7 h3' hmemt hlocal
    rw [from3 t0 t1 t2]
    subst h3
    exact walkFrom_leaf hv hl (by omega) (leafBad_last_eq_false h63 h50 h18 h9 h7 h3' hmemt hlocal)

/-! ## The checks of one address (R217, R232) -/

theorem apertureOff_of_le {n : Nat} (h : Config.scrBase ≤ n) (h' : n < Config.vaLimit) : apertureOff n = some (n - Config.scrBase) := by
  simp [apertureOff, h, h']

theorem apertureOff_of_lt {n : Nat} (h : n < Config.scrBase) : apertureOff n = none := by
  simp [apertureOff, Nat.not_le_of_lt h]

/-- Every address below the scratch aperture lies in the virtual address space. -/
theorem lt_vaLimit_of_lt_scrBase {n : Nat} (h : n < Config.scrBase) : n < Config.vaLimit :=
  Nat.lt_trans h (by decide)

/-- With no data named bad by ECC, the last check passes (R393). -/
theorem State.arrived_of_no_bad_data {s : State} (h : s.badData = none) (a : Access) (level : Nat) (loc : Loc) :
    s.arrived a level loc = .ok loc := by
  simp [State.arrived, State.spoils, h]

section
variable {s : State} {i : Issue} {a : Access} {va : DWord}

/-- Check 1: bits [63:49]. -/
theorem State.check_noncanonical (h : Config.vaLimit ≤ va.toNat) : s.check i a va = .error { order := 1, code := accessFault } := by
  simp [State.check, h]

/-- Check 2: alignment. -/
theorem State.check_misaligned (hva : va.toNat < Config.vaLimit) (h : va.toNat % a.align ≠ 0) :
    s.check i a va = .error { order := 2, code := alignFault } := by
  simp [State.check, Nat.not_le_of_lt hva, h]

section
variable (hva : va.toNat < Config.vaLimit) (hal : va.toNat % a.align = 0) (hscr : Config.scrBase ≤ va.toNat)
include hva hal hscr

/-- Check 3: the team's scratch allocation. -/
theorem State.check_outside_scratch (h : a.aperture = false ∨ i.alloc < va.toNat - Config.scrBase + a.size) :
    s.check i a va = .error { order := 3, code := accessFault } := by
  simp only [State.check, Nat.not_le_of_lt hva, hal, apertureOff_of_le hscr hva]
  rcases h with h | h <;> simp [h]

/-- An address in the allocation is a place in the scratch of the team's quarter. -/
theorem State.check_scratch {q : Quarter} (hq : i.team.quarterOn i.core = some q) (hap : a.aperture = true) (hplain : a.plain = false)
    (hdemand : a.demand = false) (hfits : va.toNat - Config.scrBase + a.size ≤ i.alloc) (hbad : s.badData = none) :
    s.check i a va = .ok (q.scratch (va.toNat - Config.scrBase)) := by
  simp [State.check, Nat.not_le_of_lt hva, hal, apertureOff_of_le hscr hva, hap, Nat.not_lt_of_le hfits, hq, hplain, hdemand,
    State.arrived_of_no_bad_data hbad]

end

section
variable (hlow : va.toNat < Config.scrBase) (hal : va.toNat % a.align = 0)
include hlow hal

/-- Check 4: the walk. -/
theorem State.check_walk_fails {c lv : Nat} (h : s.leafOf (some i.core) i.team.ctx va.toNat = .error (c, lv)) :
    s.check i a va = .error { order := 4, code := c, level := lv } := by
  simp [State.check, Nat.not_le_of_lt (lt_vaLimit_of_lt_scrBase hlow), hal, apertureOff_of_lt hlow, h]

variable {leaf : DWord} {shift : Nat} (hleaf : s.leafOf (some i.core) i.team.ctx va.toNat = .ok (leaf, shift))
include hleaf

/-- Check 5: the permissions of the page. -/
theorem State.check_denied (h : a.need.allowed leaf = false) :
    s.check i a va = .error { order := 5, code := protFault, level := leafLevel shift } := by
  simp [State.check, Nat.not_le_of_lt (lt_vaLimit_of_lt_scrBase hlow), hal, apertureOff_of_lt hlow, hleaf, h]

/-- Check 6: the physical address. -/
theorem State.check_no_place (h : a.need.allowed leaf = true) (hloc : s.pageLoc leaf shift va.toNat = none) :
    s.check i a va = .error { order := 6, code := accessFault, level := leafLevel shift } := by
  simp [State.check, Nat.not_le_of_lt (lt_vaLimit_of_lt_scrBase hlow), hal, apertureOff_of_lt hlow, hleaf, h, hloc]

/-- An address that passes the first six checks and meets no range lock is its place in DRAM. -/
theorem State.check_dram {pa : Nat} (h : a.need.allowed leaf = true) (hloc : s.pageLoc leaf shift va.toNat = some (.dram pa))
    (hplain : a.plain = false) (hbad : s.badData = none) : s.check i a va = .ok (.dram pa) := by
  simp [State.check, Nat.not_le_of_lt (lt_vaLimit_of_lt_scrBase hlow), hal, apertureOff_of_lt hlow, hleaf, h, hloc, hplain,
    State.arrived_of_no_bad_data hbad]

end
end

/-- The permission check in words (R223). -/
theorem Need.allowed_iff (n : Need) (leaf : DWord) : n.allowed leaf = true ↔
    (n.r = true → bit leaf 4 = true) ∧ (n.w = true → bit leaf 5 = true) ∧ (n.x = true → bit leaf 6 = true) ∧
      (n.sup = true ∨ bit leaf 8 = false) := by
  have imp (p q : Bool) : (p = true → q = true) ↔ (!p || q) = true := by cases p <;> simp
  have orNot (p q : Bool) : (p = true ∨ q = false) ↔ (p || !q) = true := by cases q <;> simp
  rw [imp, imp, imp, orNot, Need.allowed, Bool.and_eq_true, Bool.and_eq_true, Bool.and_eq_true, and_assoc, and_assoc]

/-- A page of this device translates to its frame's base and the offset in the page (R222, R225). -/
theorem State.pageLoc_local (s : State) {leaf : DWord} (shift va : Nat) (h : bit leaf 59 = false) :
    s.pageLoc leaf shift va = localLoc (bits leaf 45 19 * 2 ^ 19 + va % 2 ^ shift) (bit leaf 8) := by
  simp [State.pageLoc, h]

theorem localLoc_dram {pa : Nat} (priv : Bool) (h : pa < Config.dramBytes) : localLoc pa priv = some (.dram pa) := by
  simp [localLoc, h]

/-- Nothing lies between DRAM and the on-chip windows (R3). -/
theorem localLoc_hole {pa : Nat} (priv : Bool) (h : Config.dramBytes ≤ pa) (h' : pa < Config.windowBase) : localLoc pa priv = none := by
  simp [localLoc, Nat.not_lt_of_le h, Nat.not_le_of_lt h']

/-- R3, R217, R221 to R223, R232: the checks of one access, in their order. -/
theorem check_follows_order : accessCheckOrder := by
  intro s i a va _ hbad n r ctx
  refine ⟨fun h => State.check_noncanonical h, fun hva h => State.check_misaligned hva h, fun hva hal hscr => ⟨?_, ?_⟩,
    fun hlow hva hal => ⟨?_, ?_⟩⟩
  · exact State.check_outside_scratch hva hal hscr
  · intro q hq hap hplain hdemand hfits
    exact State.check_scratch hva hal hscr hq hap hplain hdemand hfits hbad
  · intro c lv h
    exact State.check_walk_fails hlow hal h
  · intro leaf shift hleaf level allowed pa
    have hall : a.need.allowed leaf = true ↔ allowed := Need.allowed_iff a.need leaf
    refine ⟨fun h => ?_, fun h hlocal hge hlt => ?_, fun h hlocal hlt hplain => ?_⟩
    · exact State.check_denied hlow hal hleaf (Bool.eq_false_iff.2 fun h' => h (hall.1 h'))
    · exact State.check_no_place hlow hal hleaf (hall.2 h) ((s.pageLoc_local shift n hlocal).trans (localLoc_hole _ hge hlt))
    · exact State.check_dram hlow hal hleaf (hall.2 h) ((s.pageLoc_local shift n hlocal).trans (localLoc_dram _ hlt)) hplain hbad

/-! ## The checks of a word's lanes (R232, R233) -/

/-- The least element is one of the list. -/
theorem argMin_mem {α : Type} {f : α → Nat} {l : List α} {x : α} (h : argMin f l = some x) : x ∈ l := by
  induction l generalizing x with
  | nil => cases h
  | cons y l ih =>
    rw [argMin] at h
    split at h
    · simp_all
    · split at h <;> simp_all

/-- An element that is less than all before it and at most all after it is the first least one. -/
theorem argMin_append_cons {α : Type} (f : α → Nat) (pre post : List α) (x : α) (hpre : ∀ y ∈ pre, f x < f y) (hpost : ∀ y ∈ post, f x ≤ f y) :
    argMin f (pre ++ x :: post) = some x := by
  induction pre with
  | nil =>
    rw [List.nil_append, argMin]
    cases h : argMin f post with
    | none => rfl
    | some y => exact if_neg (Nat.not_lt_of_le (hpost y (argMin_mem h)))
  | cons y pre ih =>
    rw [List.cons_append, argMin, ih fun z hz => hpre z (List.mem_cons_of_mem y hz)]
    exact if_pos (hpre y List.mem_cons_self)

/-- Lane `l` of `X`, where the check `f` fails, is the lowest lane of the first failing check: a suspension at a demand window counts for
none (R232, R253). -/
structure FirstFailure (s : State) (i : Issue) (a : Access) (X : Word) (va : Nat → DWord) (l : Nat) (f : CheckFail) : Prop where
  lane : X.getLsbD l = true
  fails : s.check i a (va l) = .error f
  hard : f.code ≠ 0
  least : ∀ j e, X.getLsbD j = true → s.check i a (va j) = .error e → e.code ≠ 0 → f.order < e.order ∨ (f.order = e.order ∧ l ≤ j)

/-- The trap of the failing check `f` of lane `l`, when the lanes of `M` have performed (R393, R395). -/
def CheckFail.trapOf (f : CheckFail) (i : Issue) (a : Access) (X M : Word) (va : DWord) : Trap :=
  { code := f.code, addr := va, info := f.info a.acc, tepc := i.pc, exmask := X, tmask := M }

/-- The lanes of a list, with their failures that are no suspension. -/
def State.hardFails (s : State) (i : Issue) (a : Access) (va : Nat → DWord) (ls : List Nat) : List (Nat × CheckFail) :=
  ((ls.map fun l => (l, s.check i a (va l))).filterMap fun (l, r) =>
    match r with
    | .error f => some (l, f)
    | .ok _ => none).filter fun (_, f) => f.code ≠ 0

/-- The lanes of a list that pass, with their places. -/
def State.passing (s : State) (i : Issue) (a : Access) (va : Nat → DWord) (ls : List Nat) : List (Nat × Loc) :=
  (ls.map fun l => (l, s.check i a (va l))).filterMap fun (l, r) =>
    match r with
    | .ok loc => some (l, loc)
    | .error _ => none

/-- The lanes that perform although the check `f` fails in another: none at checks 1 and 2, later those that pass (R233). -/
def State.performing (s : State) (i : Issue) (a : Access) (X : Word) (va : Nat → DWord) (f : CheckFail) : List (Nat × Loc) :=
  if f.order ≤ 2 then [] else s.passing i a va (lanesOf X)

section
variable {s : State} {i : Issue} {a : Access} {X : Word} {va : Nat → DWord} {ls : List Nat} {l : Nat} {f : CheckFail}

theorem State.mem_hardFails : (l, f) ∈ s.hardFails i a va ls ↔ l ∈ ls ∧ s.check i a (va l) = .error f ∧ f.code ≠ 0 := by
  simp only [State.hardFails, List.mem_filter, List.mem_filterMap, List.mem_map]
  constructor
  · rintro ⟨⟨_, ⟨k, hk, rfl⟩, h⟩, hc⟩
    cases hr : s.check i a (va k) <;> simp_all
  · rintro ⟨hl, hf, hc⟩
    exact ⟨⟨_, ⟨l, hl, rfl⟩, by simp [hf]⟩, by simpa using hc⟩

theorem State.mem_passing {p : Loc} : (l, p) ∈ s.passing i a va ls ↔ l ∈ ls ∧ s.check i a (va l) = .ok p := by
  simp only [State.passing, List.mem_filterMap, List.mem_map]
  constructor
  · rintro ⟨_, ⟨k, hk, rfl⟩, h⟩
    cases hr : s.check i a (va k) <;> simp_all
  · rintro ⟨hl, hp⟩
    exact ⟨_, ⟨l, hl, rfl⟩, by simp [hp]⟩

theorem State.hardFails_append (ks : List Nat) : s.hardFails i a va (ls ++ ks) = s.hardFails i a va ls ++ s.hardFails i a va ks := by
  simp [State.hardFails]

theorem State.hardFails_cons (hf : s.check i a (va l) = .error f) (hc : f.code ≠ 0) :
    s.hardFails i a va (l :: ls) = (l, f) :: s.hardFails i a va ls := by
  simp [State.hardFails, hf, hc]

/-- The lanes below and above a lane of a mask. -/
theorem lanesOf_split (h : X.getLsbD l = true) : ∃ pre post, lanesOf X = pre ++ l :: post ∧ (∀ k ∈ pre, k < l) ∧ ∀ k ∈ post, l < k := by
  obtain ⟨pre, post, hsplit⟩ := List.append_of_mem (mem_lanesOf.2 h)
  have hs : (lanesOf X).Pairwise (· < ·) := (List.pairwise_lt_range (n := 32)).filter _
  rw [hsplit, List.pairwise_append] at hs
  exact ⟨pre, post, hsplit, fun k hk => hs.2.2 k hk l List.mem_cons_self, (List.pairwise_cons.1 hs.2.1).1⟩

/-- The first failing check, in its lowest lane, is the least of the failures. -/
theorem FirstFailure.argMin_eq (h : FirstFailure s i a X va l f) :
    argMin (fun p : Nat × CheckFail => p.2.order) (s.hardFails i a va (lanesOf X)) = some (l, f) := by
  obtain ⟨hlane, hfails, hhard, hleast⟩ := h
  obtain ⟨pre, post, hsplit, hpre, hpost⟩ := lanesOf_split hlane
  have later {k : Nat} {e : CheckFail} (hk : k ∈ lanesOf X) (he : s.check i a (va k) = .error e) (hc : e.code ≠ 0) :
      f.order < e.order ∨ (f.order = e.order ∧ l ≤ k) := hleast k e (mem_lanesOf.1 hk) he hc
  rw [hsplit] at later ⊢
  rw [State.hardFails_append, State.hardFails_cons hfails hhard]
  refine argMin_append_cons _ _ _ _ (fun ⟨k, e⟩ hk => ?_) (fun ⟨k, e⟩ hk => ?_)
  · obtain ⟨hmem, he, hc⟩ := State.mem_hardFails.1 hk
    have := hpre k hmem
    have := later (List.mem_append_left _ hmem) he hc
    show f.order < e.order
    omega
  · obtain ⟨hmem, he, hc⟩ := State.mem_hardFails.1 hk
    have := later (List.mem_append_right _ (List.mem_cons_of_mem _ hmem)) he hc
    show f.order ≤ e.order
    omega

/-- What the checks of a word come to when a lane fails. -/
theorem FirstFailure.checkLanes_eq (h : FirstFailure s i a X va l f) :
    s.checkLanes i a X va = { perform := s.performing i a X va f, suspend := false,
                              trap := some (f.trapOf i a X (performedMask (s.performing i a X va f)) (va l)) } := by
  simp only [State.checkLanes]
  split
  · next hnone => cases hnone.symm.trans h.argMin_eq
  · next hsome =>
    cases hsome.symm.trans h.argMin_eq
    rfl

end

/-- The mask of performed lanes names the lanes that pass, unless the check that fails is one of the first two. -/
theorem getLsbD_performing (s : State) (i : Issue) (a : Access) (X : Word) (va : Nat → DWord) (f : CheckFail) (j : Nat) :
    (performedMask (s.performing i a X va f)).getLsbD j = true ↔ 2 < f.order ∧ X.getLsbD j = true ∧ ∃ p, s.check i a (va j) = .ok p := by
  have mem : (∃ p, (j, p) ∈ s.performing i a X va f) ↔ 2 < f.order ∧ X.getLsbD j = true ∧ ∃ p, s.check i a (va j) = .ok p := by
    by_cases hf : f.order ≤ 2
    · simp [State.performing, hf, Nat.not_lt_of_le hf]
    · simp [State.performing, hf, Nat.lt_of_not_le hf, State.mem_passing, mem_lanesOf]
  rw [← mem, performedMask, getLsbD_maskOf]
  constructor
  · intro h
    simp only [Bool.and_eq_true, List.any_eq_true, beq_iff_eq] at h
    obtain ⟨-, ⟨k, p⟩, hp, rfl⟩ := h
    exact ⟨p, hp⟩
  · intro h
    have hj : j < 32 := BitVec.lt_of_getLsbD (mem.1 h).2.1
    obtain ⟨p, hp⟩ := h
    simp only [hj, decide_true, Bool.true_and, List.any_eq_true, beq_iff_eq]
    exact ⟨(j, p), hp, rfl⟩

/-! ## LD and ST whose lanes fail a check -/

theorem Group.quiet_iff (g : Group) : g.quiet = true ↔ calm g := by
  simp [Group.quiet, calm, List.isEmpty_iff]

/-- The address of a form-M operand that loads and stores compute is the one R218 gives. -/
theorem Issue.addrX_eq_laneAddr (i : Issue) (m : MemArg) : i.addrX false m = laneAddr i m := rfl

section
variable {s : State} {i : Issue} {g : Guard} {nl1 ord : Bool} {sz : MemSize} {sc : Scope} {d : Operand} {m : MemArg} {l : Nat} {f : CheckFail}

/-- LD takes the trap of the first failing check; its TLB fills, cached lines and loaded registers change no byte of memory. -/
theorem execLd_traps (h : s.issuing = some i)
    (hfirst : FirstFailure s i (i.access (MemSize.bytes sz) false) (i.lanes g) (laneAddr i m) l f)
    (hfit : i.budget (i.lanes g) (spanDests d (MemSize.words sz)) = none) :
    let a := i.access (MemSize.bytes sz) false
    let M := performedMask (s.performing i a (i.lanes g) (laneAddr i m) f)
    ∃ s', execLd g nl1 sz ord sc d m s = .next (s.takeTrap s' i.key i.b (f.trapOf i a (i.lanes g) M (laneAddr i m l))) ∧ SameBytes s s' := by
  have hX : i.lanes g ≠ 0 := fun hX => by simpa [hX] using hfirst.lane
  rw [execLd, onIssue_eq h]
  simp only [if_neg hX, hfit, Issue.addrX_eq_laneAddr, hfirst.checkLanes_eq]
  exact ⟨_, rfl, sameBytes_of_mem (by simp)⟩

/-- ST takes the trap of the first failing check among the lanes that store; with check 1 or 2 no lane stores. -/
theorem execSt_traps (h : s.issuing = some i)
    (hfirst : FirstFailure s i (i.access (MemSize.bytes sz) true) (i.lanes g &&& ~~~i.mute) (laneAddr i m) l f)
    (hcalm : ord = true → calm i.grp) :
    let a := i.access (MemSize.bytes sz) true
    let M := performedMask (s.performing i a (i.lanes g &&& ~~~i.mute) (laneAddr i m) f)
    ∃ s', execSt g nl1 sz ord sc d m s = .next (s.takeTrap s' i.key i.b (f.trapOf i a (i.lanes g) M (laneAddr i m l))) ∧
      (f.order ≤ 2 → SameBytes s s') := by
  have hX : i.lanes g ≠ 0 := fun hX => by simpa [hX] using hfirst.lane
  have hgo : ¬ (ord && !i.grp.quiet) = true := by
    rw [Bool.and_eq_true, Bool.not_eq_true', Bool.eq_false_iff]
    exact fun hw => hw.2 (i.grp.quiet_iff.2 (hcalm hw.1))
  rw [execSt, onIssue_eq h]
  simp only [if_neg hX, if_neg hgo, Issue.addrX_eq_laneAddr, hfirst.checkLanes_eq]
  exact ⟨_, rfl, fun hf => sameBytes_of_mem (by simp [State.performing, hf])⟩

end

/-- R232, R233, R393, R395: what LD and ST trap with when a check fails. -/
theorem failing_lane_traps : failedAccessNamesFirstCheck := by
  intro s i g nl1 ord sz sc d m l f hi X va n a first trap
  have failure {w : Bool} {Y : Word} (h : first w Y) : FirstFailure s i (i.access (MemSize.bytes sz) w) Y (laneAddr i m) l f := by
    obtain ⟨hlane, hfails, hhard, hleast⟩ := h
    exact ⟨hlane, hfails, hhard, hleast⟩
  have names (w : Bool) (Y : Word) :
      trap w Y (f.trapOf i (a w) X (performedMask (s.performing i (a w) Y va f)) (va l)) :=
    ⟨rfl, rfl, rfl, rfl, rfl, getLsbD_performing s i (a w) Y va f⟩
  refine ⟨fun _ hfirst hfit => ?_, fun _ => ?_⟩
  · obtain ⟨s', hexec, hbytes⟩ := execLd_traps (nl1 := nl1) (ord := ord) (sc := sc) hi (failure hfirst) hfit
    exact ⟨s', _, hexec, names false X, hbytes⟩
  · intro Y hfirst hcalm
    obtain ⟨s', hexec, hbytes⟩ := execSt_traps (nl1 := nl1) (sc := sc) (d := d) hi (failure hfirst) hcalm
    exact ⟨s', _, hexec, names true Y, hbytes⟩

/-- Settles O23: the checks of one address and the walk are the model's own equations for them, one for each outcome; in a word, the first
failing check is the least of its lanes' failures. -/
theorem accessChecksAndThePageWalk : Obligations.AccessChecksAndThePageWalk :=
  ⟨failing_lane_traps, check_follows_order, leafOf_reads_four_levels⟩

end Sys2Proof.Machine
end

section
/-! SUPPORT. The accesses of the picture engines: none reads or writes the views, the bins and VIEWDROP (R71, R80, R219, R408). -/

namespace Sys2Proof.Machine

/-! ## The picture's bookkeeping apart from memory -/

/-- A state with other views, bins and VIEWDROP: what the accesses of the picture engines neither read nor write. -/
def State.withRaster (s : State) (vs : List View) (bs : List MatBin) (n : DWord) : State :=
  { s with views := vs, bins := bs, csr := { s.csr with viewdrop := n } }

/-- An update of the state that neither reads nor writes the views, the bins and VIEWDROP. -/
def RasterFree (f : State → State) : Prop := ∀ s vs bs n, f (s.withRaster vs bs n) = (f s).withRaster vs bs n

section
variable {f g : State → State} (h : RasterFree f) (s : State)
include h

theorem RasterFree.eq_withRaster : f s = (f s).withRaster s.views s.bins s.csr.viewdrop := h s s.views s.bins s.csr.viewdrop

theorem RasterFree.views : (f s).views = s.views := by rw [h.eq_withRaster s]; rfl

theorem RasterFree.bins : (f s).bins = s.bins := by rw [h.eq_withRaster s]; rfl

theorem RasterFree.viewdrop : (f s).csr.viewdrop = s.csr.viewdrop := by rw [h.eq_withRaster s]; rfl

theorem RasterFree.comp (hg : RasterFree g) : RasterFree fun s => g (f s) := fun s vs bs n => (congrArg g (h s vs bs n)).trans (hg _ vs bs n)

end

/-- Steps that carry a number along, and neither read nor write the picture's bookkeeping, make an update that does neither. -/
theorem rasterFree_foldl {α : Type} {g : State × Nat → α → State × Nat}
    (h : ∀ s o x vs bs n, g (s.withRaster vs bs n, o) x = ((g (s, o) x).1.withRaster vs bs n, (g (s, o) x).2)) (l : List α) (o : Nat) :
    RasterFree fun s => (l.foldl g (s, o)).1 := by
  intro s vs bs n
  induction l generalizing s o with
  | nil => rfl
  | cons x l ih => simpa only [List.foldl_cons, h] using ih (g (s, o) x).2 (g (s, o) x).1

theorem rasterFree_modTeam (t : Nat) (f : Team → Team) : RasterFree fun s => s.modTeam t f := by
  intro s vs bs n
  have hteam : (s.withRaster vs bs n).team? t = s.team? t := rfl
  simp only [State.modTeam, hteam]
  cases s.team? t <;> rfl

theorem rasterFree_modGroup (k : Nat) (f : Group → Group) : RasterFree fun s => s.modGroup k f := by
  intro s vs bs n
  have hgroup : (s.withRaster vs bs n).group? k = s.group? k := rfl
  simp only [State.modGroup, hgroup]
  cases s.group? k <;> rfl

theorem rasterFree_setTopkByte (core o : Nat) (b : Byte) : RasterFree fun s => s.setTopkByte core o b := by
  intro s vs bs n
  have howner : (s.withRaster vs bs n).tileOwner core (o / 16384) = s.tileOwner core (o / 16384) := rfl
  simp only [State.setTopkByte, howner]
  split
  · split
    · split
      · exact rasterFree_modTeam _ _ s vs bs n
      split
      · exact rasterFree_modTeam _ _ s vs bs n
      · rfl
    · rfl
  · rfl

theorem rasterFree_setWinBytes (core off : Nat) (l : List Byte) : RasterFree fun s => s.setWinBytes core off l := by
  intro s vs bs n
  have hcore : (s.withRaster vs bs n).core core = s.core core := rfl
  simp only [State.setWinBytes, hcore]
  split
  · rfl
  split
  · exact rasterFree_foldl (fun _ _ _ _ _ _ => rfl) l off s vs bs n
  split
  · exact rasterFree_foldl (fun t o b vs bs n => Prod.ext (rasterFree_setTopkByte core (o - 0x280000) b t vs bs n) rfl) l off s vs bs n
  split
  · exact rasterFree_modGroup _ _ s vs bs n
  · rfl

theorem rasterFree_homeWrite (loc : Loc) (b : List Byte) : RasterFree fun s => s.homeWrite loc b := by
  cases loc with
  | dram k => intro s vs bs n; rfl
  | win c o => exact rasterFree_setWinBytes c o b

theorem State.engineLoc_withRaster (s : State) (vs : List View) (bs : List MatBin) (n : DWord) :
    (s.withRaster vs bs n).engineLoc = s.engineLoc := rfl

theorem State.readLocNat_withRaster (s : State) (vs : List View) (bs : List MatBin) (n : DWord) :
    (s.withRaster vs bs n).readLocNat = s.readLocNat := rfl

theorem State.ringLog_withRaster (s : State) (vs : List View) (bs : List MatBin) (n : DWord) :
    (s.withRaster vs bs n).ringLog = s.ringLog := rfl

/-- An access of the picture engines that may fail, and that neither reads nor writes the views, the bins and VIEWDROP. -/
def RasterFreeAccess {ε : Type} (f : State → Except ε State) : Prop :=
  ∀ s vs bs n, f (s.withRaster vs bs n) = (f s).map fun t => t.withRaster vs bs n

theorem RasterFreeAccess.views {ε : Type} {f : State → Except ε State} (h : RasterFreeAccess f) {s t : State} (ht : f s = .ok t) :
    t.views = s.views := by
  have hs : f s = (f s).map fun t => t.withRaster s.views s.bins s.csr.viewdrop := h s s.views s.bins s.csr.viewdrop
  rw [ht] at hs
  rw [Except.ok.inj hs]
  rfl

theorem rasterFree_engineWrite (core : Option Nat) (ctx va n x : Nat) : RasterFreeAccess fun s => s.engineWrite core ctx va n x := by
  intro s vs bs k
  simp only [State.engineWrite, State.engineLoc_withRaster]
  cases s.engineLoc core ctx { w := true } va n with
  | error e => rfl
  | ok loc => exact congrArg Except.ok (rasterFree_homeWrite loc _ s vs bs k)

theorem rasterFree_engineAdd (core : Option Nat) (ctx va x : Nat) : RasterFreeAccess fun s => s.engineAdd core ctx va x := by
  intro s vs bs k
  simp only [State.engineAdd, State.engineLoc_withRaster, State.readLocNat_withRaster]
  cases s.engineLoc core ctx { r := true, w := true } va 8 with
  | error e => rfl
  | ok loc => exact congrArg Except.ok (rasterFree_homeWrite loc _ s vs bs k)

theorem rasterFree_engineWrites (core : Option Nat) (ctx va : Nat) (l : List Nat) :
    RasterFreeAccess fun s => s.engineWrites core ctx va l := by
  intro s vs bs k
  induction l generalizing s va with
  | nil => rfl
  | cons x l ih =>
    have hw := rasterFree_engineWrite core ctx va 8 x s vs bs k
    simp only [State.engineWrites, hw]
    cases s.engineWrite core ctx va 8 x with
    | error e => rfl
    | ok t => exact ih (va + 8) t

theorem rasterFree_appendReport (r : Report) : RasterFree fun s => s.appendReport r := by
  intro s vs bs n
  simp only [State.appendReport, State.ringLog_withRaster]
  cases s.ringLog with
  | none => rfl
  | some k =>
    have hwords : RasterFree fun u => ((r.words s.time).foldl (fun (acc : State × Nat) w => (acc.1.writePhys acc.2 8 w, acc.2 + 8))
        (u, s.csr.frbase.toNat + 0x40 + 64 * (s.readPhys s.csr.frbase.toNat 8 % 2 ^ k))).1 :=
      rasterFree_foldl (fun _ _ _ _ _ _ => rfl) _ _
    exact hwords.comp (rasterFree_homeWrite (.dram s.csr.frbase.toNat) (toBytes 8 ((s.readPhys s.csr.frbase.toNat 8 + 1) % 2 ^ 64))) s vs bs n

theorem rasterFree_deviceReport (r : Report) : RasterFree fun s => s.deviceReport r := by
  intro s vs bs n
  have hused : (s.withRaster vs bs n).ringUsed = s.ringUsed := rfl
  simp only [State.deviceReport, State.ringLog_withRaster, hused]
  cases s.ringLog with
  | none => rfl
  | some k =>
    dsimp only
    split
    · exact rasterFree_appendReport r s vs bs n
    · rfl

theorem rasterFree_viewFault (src va : Nat) : RasterFree fun s => s.viewFault src va := rasterFree_deviceReport _

theorem rasterFree_bumpCounter (va : DWord) : RasterFree fun s => s.bumpCounter va := by
  intro s vs bs n
  have hadd := rasterFree_engineAdd none pictureCtx va.toNat 1 s vs bs n
  simp only [State.bumpCounter, hadd]
  split
  · rfl
  cases s.engineAdd none pictureCtx va.toNat 1 with
  | error e => exact rasterFree_viewFault 4 e.2.2 s vs bs n
  | ok t => rfl

theorem rasterFree_writeViewRecord (va : Nat) (ws : List Nat) : RasterFree fun s => s.writeViewRecord va ws := by
  intro s vs bs n
  have hwrite := rasterFree_engineWrites none pictureCtx va ws s vs bs n
  simp only [State.writeViewRecord, hwrite]
  cases s.engineWrites none pictureCtx va ws with
  | error e => exact rasterFree_viewFault 4 e.2.2 s vs bs n
  | ok t => rfl

end Sys2Proof.Machine
end

section
/-! SUPPORT. The list of views; a view becomes active, is rejected or dropped, and starts (R70, R71). -/

namespace Sys2Proof.Machine

/-! ## The list of views -/

/-- Elements of a list whose values under `f` are all different are the same when their values are. -/
theorem eq_of_nodup_map {α β : Type} {f : α → β} {l : List α} (hd : (l.map f).Nodup) {a b : α} (ha : a ∈ l) (hb : b ∈ l)
    (h : f a = f b) : a = b := by
  induction l with
  | nil => cases ha
  | cons x l ih =>
    rw [List.map_cons, List.nodup_cons] at hd
    obtain ⟨hx, hl⟩ := hd
    rcases List.mem_cons.1 ha with rfl | ha'
    · rcases List.mem_cons.1 hb with rfl | hb'
      · rfl
      · exact absurd (h ▸ List.mem_map_of_mem hb') hx
    · rcases List.mem_cons.1 hb with rfl | hb'
      · exact absurd (h ▸ List.mem_map_of_mem ha') hx
      · exact ih hl ha' hb'

theorem State.view?_of_mem {s : State} {v : View} (hv : v ∈ s.views) (hd : (s.views.map View.id).Nodup) : s.view? v.id = some v := by
  have hsome : (s.view? v.id).isSome := List.find?_isSome.2 ⟨v, hv, beq_self_eq_true v.id⟩
  obtain ⟨w, hw⟩ := Option.isSome_iff_exists.1 hsome
  have hid : w.id = v.id := by simpa using List.find?_some hw
  rw [hw, eq_of_nodup_map hd (List.mem_of_find?_eq_some hw) hv hid]

theorem State.view?_mem {s : State} {id : Nat} {v : View} (h : s.view? id = some v) : v ∈ s.views := List.mem_of_find?_eq_some h

theorem State.view?_id {s : State} {id : Nat} {v : View} (h : s.view? id = some v) : v.id = id := by
  simpa using List.find?_some h

theorem State.view?_setView {s : State} {v : View} (h : (s.view? v.id).isSome) : (s.setView v).view? v.id = some v := by
  obtain ⟨w, hw⟩ := Option.isSome_iff_exists.1 h
  have hid : (fun u : View => u.id == v.id) ∘ (fun u => if u.id = v.id then v else u) = fun u => u.id == v.id := by
    funext u
    by_cases hu : u.id = v.id <;> simp [hu]
  rw [State.view?, State.setView, List.find?_map, hid]
  simp [State.view?_id hw, show s.views.find? (fun u => u.id == v.id) = some w from hw]

@[simp] theorem State.takeVisways_views (s : State) : s.takeVisways.views = s.views := by rw [State.takeVisways]; split <;> rfl
@[simp] theorem State.takeVisways_mem (s : State) : s.takeVisways.mem = s.mem := by rw [State.takeVisways]; split <;> rfl
@[simp] theorem State.takeVisways_bins (s : State) : s.takeVisways.bins = s.bins := by rw [State.takeVisways]; split <;> rfl
@[simp] theorem State.takeVisways_viewdrop (s : State) : s.takeVisways.csr.viewdrop = s.csr.viewdrop := by
  rw [State.takeVisways]; split <;> rfl

@[simp] theorem State.dropView_mem (s : State) (id : Nat) : (s.dropView id).mem = s.mem := State.takeVisways_mem _
@[simp] theorem State.dropView_bins (s : State) (id : Nat) : (s.dropView id).bins = s.bins := State.takeVisways_bins _
@[simp] theorem State.dropView_viewdrop (s : State) (id : Nat) : (s.dropView id).csr.viewdrop = s.csr.viewdrop :=
  State.takeVisways_viewdrop _

@[simp] theorem State.view?_dropView_self (s : State) (id : Nat) : (s.dropView id).view? id = none := by
  simp [State.view?, State.dropView]

/-! ## A view becomes active and starts (R70, R71) -/

section
variable {s : State} {v : View} {d : List DWord}

/-- The submitted view whose descriptor is read. -/
structure State.Activates (s : State) (v : View) : Prop where
  dispatches : s.dispatches = true
  few : s.views.countP View.active < 16
  next : s.views.find? (fun w => w.phase = .submitted) = some v

/-- A submitted view that stands the checks becomes active. -/
theorem State.viewActivate_accepted (ha : s.Activates v) (hr : s.engineReads none pictureCtx v.va.toNat 32 = .ok d)
    (hgood : (({ v with desc := d } : View).rejected || s.ctxBad pictureCtx) = false) :
    s.viewActivate = some (s.setView { v with desc := d, phase := .active }) := by
  obtain ⟨hdisp, hfew, hnext⟩ := ha
  simp [State.viewActivate, hdisp, hfew, hnext, hr, hgood]

/-- What a rejected view writes: its records, with STATUS 1, where their place is aligned and not zero. -/
def State.rejectRecords (s : State) (stats : Nat) : State :=
  if stats ≠ 0 ∧ stats % 64 = 0 then
    (s.writeViewRecord stats [1, 0, 0, 0, 0, 0, 0, 0]).writeViewRecord (stats + 0x40) (List.replicate 8 0)
  else s

theorem State.viewActivate_rejected (ha : s.Activates v) (hr : s.engineReads none pictureCtx v.va.toNat 32 = .ok d)
    (hbad : (({ v with desc := d } : View).rejected || s.ctxBad pictureCtx) = true) :
    s.viewActivate = some ((((s.rejectRecords (({ v with desc := d } : View).dw 20)).bumpAligned (dwordAt d 18)).bumpAligned
      (dwordAt d 19)).dropView v.id) := by
  obtain ⟨hdisp, hfew, hnext⟩ := ha
  simp [State.viewActivate, hdisp, hfew, hnext, hr, hbad, State.rejectRecords, View.statsWords, View.shadingWords]

theorem State.viewActivate_unread (ha : s.Activates v) {e : Nat × Nat × Nat} (hr : s.engineReads none pictureCtx v.va.toNat 32 = .error e) :
    s.viewActivate = some (({ s with csr := { s.csr with viewdrop := s.csr.viewdrop + 1 } }.viewFault 4 e.2.2).dropView v.id) := by
  obtain ⟨hdisp, hfew, hnext⟩ := ha
  simp [State.viewActivate, hdisp, hfew, hnext, hr]

section
variable (hv : s.view? v.id = some v) (hp : v.phase = .active)
include hv hp

theorem State.rasterStart_unconditional (hw : v.dw 5 = 0) : s.rasterStart v.id = some (s.setView { v with phase := .drawing }) := by
  simp [State.rasterStart, hv, hp, hw]

theorem State.rasterStart_reached {x : Nat} (hw : v.dw 5 ≠ 0) (hx : s.picture (v.dw 5) 8 = .ok x) (h : v.dw 6 ≤ x) :
    s.rasterStart v.id = some (s.setView { v with phase := .drawing }) := by
  simp [State.rasterStart, hv, hp, hw, hx, h]

theorem State.rasterStart_waits {x : Nat} (hw : v.dw 5 ≠ 0) (hx : s.picture (v.dw 5) 8 = .ok x) (h : x < v.dw 6) :
    s.rasterStart v.id = none := by
  simp [State.rasterStart, hv, hp, hw, hx, h]

theorem State.rasterStart_faults {e : Nat × Nat × Nat} (hw : v.dw 5 ≠ 0) (hx : s.picture (v.dw 5) 8 = .error e) :
    s.rasterStart v.id = some (s.faultView v 4 e.2.2) := by
  simp [State.rasterStart, hv, hp, hw, hx]

end

end

@[simp] theorem State.writeViewRecord_bins (s : State) (va : Nat) (ws : List Nat) : (s.writeViewRecord va ws).bins = s.bins :=
  (rasterFree_writeViewRecord va ws).bins s
@[simp] theorem State.bumpCounter_bins (s : State) (va : DWord) : (s.bumpCounter va).bins = s.bins := (rasterFree_bumpCounter va).bins s
@[simp] theorem State.writeViewRecord_views (s : State) (va : Nat) (ws : List Nat) : (s.writeViewRecord va ws).views = s.views :=
  (rasterFree_writeViewRecord va ws).views s
@[simp] theorem State.bumpCounter_views (s : State) (va : DWord) : (s.bumpCounter va).views = s.views := (rasterFree_bumpCounter va).views s

/-- The abort of a view without tiles: it leaves the device, and its bins are discarded (R71). -/
theorem State.faultView_of_no_tiles {v : View} (hv : v.tiles = []) (s : State) (src va : Nat) :
    (s.faultView v src va).view? v.id = none ∧ ∀ b ∈ (s.faultView v src va).bins, b.source ≠ .view v.id := by
  simp only [State.faultView, State.abortView, hv, List.map_nil, List.filter_nil, List.isEmpty_nil, if_true]
  refine ⟨State.view?_dropView_self _ _, ?_⟩
  split <;> simp

/-- The check of R70 with that of the picture context. -/
theorem State.rejects_iff {s : State} {v : View} : (v.rejected || s.ctxBad pictureCtx) = true ↔
    v.dw 0 % 16384 ≠ 0 ∨ v.dw 1 % 8 ≠ 0 ∨ v.dw 2 % 64 ≠ 0 ∨ v.dw 3 % 8 ≠ 0 ∨ v.dw 5 % 8 ≠ 0 ∨ v.dw 16 % 256 ≠ 0 ∨ v.dw 17 % 64 ≠ 0 ∨
      v.dw 18 % 8 ≠ 0 ∨ v.dw 19 % 8 ≠ 0 ∨ v.dw 20 % 64 ≠ 0 ∨ bits (dwordAt v.desc 7) 63 8 ≠ 0 ∨ bits (dwordAt v.desc 7) 3 0 ≠ 0 ∨
      (∃ k, k < 11 ∧ v.dw (21 + k) ≠ 0) ∨ v.width = 0 ∨ 16384 < v.width ∨ v.height = 0 ∨ 16384 < v.height ∨ v.cull = 3 ∨ v.dw 20 = 0 ∨
      s.ctxBad pictureCtx = true := by
  simp [View.rejected, or_assoc]

theorem onEvent_of_some {s t : State} {f : Option State} (h : f = some t) : onEvent s f = .next t := by rw [h]; rfl

theorem onEvent_of_none {s : State} {f : Option State} (h : f = none) : onEvent s f = .next s := by rw [h]; rfl

theorem view_is_checked_and_starts : viewsStart := by
  intro s v hmem hd
  have hv := State.view?_of_mem hmem hd
  refine ⟨fun hdisp hfew hnext => ?_, fun hp => ⟨fun hw => ?_, fun hw x hx => ⟨fun h => ?_, fun h => ?_⟩, fun hw ht e hx => ?_⟩⟩
  · have ha : s.Activates v := ⟨hdisp, hfew, hnext⟩
    refine ⟨fun d hr => ⟨fun hgood => ?_, fun hbad => ?_⟩, fun e hr => ?_⟩
    · exact onEvent_of_some (State.viewActivate_accepted ha hr (Bool.eq_false_iff.2 fun h => hgood (State.rejects_iff.1 h)))
    · have hreject := State.viewActivate_rejected ha hr (State.rejects_iff.2 hbad)
      exact ⟨_, onEvent_of_some hreject, State.view?_dropView_self _ _, State.dropView_mem _ _⟩
    · refine ⟨_, onEvent_of_some (State.viewActivate_unread ha hr), State.view?_dropView_self _ _, ?_⟩
      rw [State.dropView_viewdrop, (rasterFree_viewFault _ _).viewdrop]
  · exact onEvent_of_some (State.rasterStart_unconditional hv hp hw)
  · exact onEvent_of_some (State.rasterStart_reached hv hp hw hx h)
  · exact onEvent_of_none (State.rasterStart_waits hv hp hw hx h)
  · exact ⟨_, onEvent_of_some (State.rasterStart_faults hv hp hw hx), State.faultView_of_no_tiles ht s _ _⟩

end Sys2Proof.Machine
end

section
/-! SUPPORT. Samples, triangles, pages and draw-stream entries (R68, R71, R74, R76, R81). -/

namespace Sys2Proof.Machine

/-! ## Samples (R74) -/

/-- The difference of two dyadic numbers changes its sign with their order. -/
theorem dySum_swap (na nb : Bool) (ma mb : Nat) (ea eb : Int) :
    (dySum na ma ea (!nb) mb eb).1 = -(dySum nb mb eb (!na) ma ea).1 := by
  simp only [dySum, Int.min_comm eb ea]
  generalize ma * 2 ^ (ea - min ea eb).toNat = x
  generalize mb * 2 ^ (eb - min ea eb).toNat = y
  cases na <;> cases nb <;> simp only [Bool.not_true, Bool.not_false, Bool.false_eq_true, if_true, if_false] <;> omega

theorem FVal.below_asymm {x y : FVal} (h : x.below false y = true) : y.below false x = false := by
  cases x with
  | nan _ => simp [FVal.below] at h
  | inf n => cases y <;> simp_all [FVal.below]
  | fin na ma ea =>
    cases y with
    | nan _ => rfl
    | inf m => simpa [FVal.below] using h
    | fin nb mb eb =>
      have hneg : (dySum na ma ea (!nb) mb eb).1 < 0 := by simpa [FVal.below] using h
      have hswap := dySum_swap na nb ma mb ea eb
      simp [FVal.below]
      omega

theorem FVal.not_nan_of_below {x y : FVal} (h : x.below false y = true) : x.isNan = false ∧ y.isNan = false := by
  cases x <;> cases y <;> simp_all [FVal.below, FVal.isNan]

theorem fLe_of_fLt {a b : Word} (h : fLt a b = true) : fLe a b = true := by
  obtain ⟨ha, hb⟩ := FVal.not_nan_of_below h
  have hba : fLt b a = false := FVal.below_asymm h
  simp [fLe, ha, hb, hba]

theorem nearer_sample_replaces : samplesReplace := by
  intro id z old
  refine ⟨fun h => by simp [replaces, h], fun h => ?_, fun hlt hle hge => by simp [replaces, hlt, hle, hge]⟩
  have hlt : fLt old.2 z = false := Bool.eq_false_iff.2 fun hlt => by simp [fLe_of_fLt hlt] at h
  simp [replaces, hlt, h]

/-! ## Binning (R68, R76) -/

theorem View.mem_binEntries {v : View} {b : BinnedTri} {e : Nat × BinnedTri} : e ∈ v.binEntries b ↔
    ∃ x y, x ∈ (v.span b).1 ∧ y ∈ (v.span b).2 ∧ e = (y / 64 * ((v.width + 63) / 64) + x / 64, b) := by
  simp only [View.binEntries, List.mem_flatMap, List.mem_map, List.mem_eraseDups]
  constructor
  · rintro ⟨_, ⟨y, hy, rfl⟩, _, ⟨x, hx, rfl⟩, rfl⟩
    exact ⟨x, y, hx, hy, rfl⟩
  · rintro ⟨x, y, hx, hy, rfl⟩
    exact ⟨_, ⟨y, hy, rfl⟩, _, ⟨x, hx, rfl⟩, rfl⟩

theorem State.binFull_iff {s : State} {v : View} {es : List (Nat × BinnedTri)} : s.binFull v es = true ↔
    v.binned ≠ [] ∧ es ≠ [] ∧ Config.binFull s.csr.binbuf.toNat (v.binned.length + es.length) = true := by
  simp [State.binFull, and_assoc]

section
variable {d : Drawn} {b : BinnedTri} (hf : d.fault = none)
include hf

theorem Drawn.bin_appends (h : d.s.binFull d.v (d.v.binEntries b) = false) :
    d.bin b = { d with v := { d.v with binned := d.v.binned ++ d.v.binEntries b } } := by
  simp [Drawn.bin, hf, h]

theorem Drawn.bin_flushes {u : State} {x : View} (h : d.s.binFull d.v (d.v.binEntries b) = true)
    (hu : d.s.flushView { d.v with flushes := d.v.flushes + 1 } = (u, none)) (hx : u.view? d.v.id = some x) :
    d.bin b = { s := u, v := { x with binned := x.binned ++ d.v.binEntries b } } := by
  simp [Drawn.bin, Drawn.flush, hf, h, hu, hx]

variable {inst page t : Nat} {h : PageHead} {m : List Word}

theorem Drawn.tri_skipped (hs : d.s.setUpTri d.v inst page h m t = .ok none) :
    d.tri inst page h m t = { d with v := { d.v with badtri := d.v.badtri + 1 } } := by
  simp [Drawn.tri, View.bad, hf, hs]

theorem Drawn.tri_faults {e : Nat × Nat × Nat} (hs : d.s.setUpTri d.v inst page h m t = .error e) :
    d.tri inst page h m t = { d with fault := some e.2.2 } := by
  simp [Drawn.tri, failDrawn, hf, hs]

theorem Drawn.tri_binned {bs : List BinnedTri} (hs : d.s.setUpTri d.v inst page h m t = .ok (some bs)) :
    d.tri inst page h m t = bs.foldl Drawn.bin d := by
  simp [Drawn.tri, hf, hs]

end

theorem triangles_of_a_page_are_binned : trianglesAreBinned := by
  refine ⟨fun _ _ _ => View.mem_binEntries, fun d b inst page t h m hf => ⟨Drawn.tri_skipped hf, fun hs => ?_, fun e => Drawn.tri_faults hf⟩⟩
  have htri : d.tri inst page h m t = d.bin b := Drawn.tri_binned hf hs
  dsimp only
  split
  · next hfull =>
    intro u x hu hx
    rw [htri, Drawn.bin_flushes hf (State.binFull_iff.2 hfull) hu hx]
  · next hroom => rw [htri, Drawn.bin_appends hf (Bool.eq_false_iff.2 fun h => hroom (State.binFull_iff.1 h))]

/-! ## A page drawn (R68, R71, R81) -/

/-- The binned-geometry buffer takes any number of entries up to `k`. -/
def State.takes (s : State) (k : Nat) : Prop := ∀ n, 0 < n → n ≤ k → Config.binFull s.csr.binbuf.toNat n = false

theorem State.takes.mono {s : State} {j k : Nat} (h : s.takes k) (hjk : j ≤ k) : s.takes j := fun n h0 hn => h n h0 (Nat.le_trans hn hjk)

theorem State.takes.binFull {s : State} {v : View} {es : List (Nat × BinnedTri)} (h : s.takes (v.binned.length + es.length)) :
    s.binFull v es = false := by
  refine Bool.eq_false_iff.2 fun hfull => ?_
  obtain ⟨hb, -, hfull⟩ := State.binFull_iff.1 hfull
  have hpos := List.length_pos_iff.2 hb
  exact Bool.false_ne_true ((h _ (by omega) (Nat.le_refl _)).symm.trans hfull)

/-- Raster work whose view has `es` more entries in its bins and `n` more bad triangles. -/
def Drawn.took (d : Drawn) (es : List (Nat × BinnedTri)) (n : Nat) : Drawn :=
  { d with v := { d.v with binned := d.v.binned ++ es, badtri := d.v.badtri + n } }

theorem Drawn.took_took (d : Drawn) (es es' : List (Nat × BinnedTri)) (n n' : Nat) :
    (d.took es n).took es' n' = d.took (es ++ es') (n + n') := by
  simp [Drawn.took, Nat.add_assoc]

theorem Drawn.took_nil (d : Drawn) : d.took [] 0 = d := by simp [Drawn.took]

theorem Drawn.takes_took {d : Drawn} {es : List (Nat × BinnedTri)} {n k : Nat} (h : d.s.takes (d.v.binned.length + (es.length + k))) :
    (d.took es n).s.takes ((d.took es n).v.binned.length + k) := by
  simpa [Drawn.took, Nat.add_assoc] using h

/-- The triangles of a list binned one by one, where the buffer takes them. -/
theorem Drawn.foldl_bin {d : Drawn} (hf : d.fault = none) (bs : List BinnedTri)
    (hroom : d.s.takes (d.v.binned.length + (bs.flatMap d.v.binEntries).length)) :
    bs.foldl Drawn.bin d = d.took (bs.flatMap d.v.binEntries) 0 := by
  induction bs generalizing d with
  | nil => exact d.took_nil.symm
  | cons b bs ih =>
    rw [List.flatMap_cons, List.length_append] at hroom
    have hbin : d.bin b = d.took (d.v.binEntries b) 0 :=
      Drawn.bin_appends hf (hroom.mono (by omega)).binFull
    calc (b :: bs).foldl Drawn.bin d
      _ = bs.foldl Drawn.bin (d.took (d.v.binEntries b) 0) := by rw [List.foldl_cons, hbin]
      _ = (d.took (d.v.binEntries b) 0).took (bs.flatMap d.v.binEntries) 0 := ih hf (Drawn.takes_took hroom)
      _ = _ := d.took_took _ _ 0 0

/-- A triangle set up to `x`: its parts binned, or one more bad triangle. -/
theorem Drawn.tri_took {d : Drawn} {inst page t : Nat} {h : PageHead} {m : List Word} {x : Option (List BinnedTri)} (hf : d.fault = none)
    (hset : d.s.setUpTri d.v inst page h m t = .ok x)
    (hroom : d.s.takes (d.v.binned.length + ((x.getD []).flatMap d.v.binEntries).length)) :
    d.tri inst page h m t = d.took ((x.getD []).flatMap d.v.binEntries) (if x.isNone then 1 else 0) := by
  cases x with
  | none => rw [Drawn.tri_skipped hf hset]; simp [Drawn.took]
  | some bs => rw [Drawn.tri_binned hf hset]; exact Drawn.foldl_bin hf bs hroom

theorem Drawn.foldl_tri {d : Drawn} {inst page : Nat} {h : PageHead} {m : List Word} {tri : Nat → Option (List BinnedTri)}
    (hf : d.fault = none) (ts : List Nat) (hset : ∀ t ∈ ts, d.s.setUpTri d.v inst page h m t = .ok (tri t))
    (hroom : d.s.takes (d.v.binned.length + ((ts.flatMap fun t => (tri t).getD []).flatMap d.v.binEntries).length)) :
    ts.foldl (fun d t => d.tri inst page h m t) d =
      d.took ((ts.flatMap fun t => (tri t).getD []).flatMap d.v.binEntries) (ts.countP fun t => (tri t).isNone) := by
  induction ts generalizing d with
  | nil => exact d.took_nil.symm
  | cons t ts ih =>
    rw [List.flatMap_cons, List.flatMap_append, List.length_append] at hroom
    have htri := Drawn.tri_took hf (hset t List.mem_cons_self) (hroom.mono (by omega))
    have hrest := ih (d := d.took (((tri t).getD []).flatMap d.v.binEntries) (if (tri t).isNone then 1 else 0)) hf
      (fun t' ht' => hset t' (List.mem_cons_of_mem _ ht')) (Drawn.takes_took hroom)
    rw [List.foldl_cons, htri, hrest, Drawn.took_took, List.flatMap_cons, List.flatMap_append, List.countP_cons, Nat.add_comm]
    rfl

section
variable {s : State} {v : View} {inst page : Nat}

theorem State.drawPage_unread {e : Nat × Nat × Nat} (hh : readHead s.picture (pageBase (v.dw 0) page) = .error e) :
    s.drawPage v inst page = failDrawn s v e := by
  simp [State.drawPage, hh]

theorem State.drawPage_malformed {h : PageHead} (hh : readHead s.picture (pageBase (v.dw 0) page) = .ok h) (hok : h.ok = false) :
    s.drawPage v inst page = { s, v := v.bad (if 1 ≤ h.ntri ∧ h.ntri ≤ 128 then h.ntri else 1) } := by
  simp [State.drawPage, hh, hok]

theorem State.drawPage_took {h : PageHead} {m : List Word} {tri : Nat → Option (List BinnedTri)}
    (hh : readHead s.picture (pageBase (v.dw 0) page) = .ok h) (hok : h.ok = true) (hm : readMatrix s.picture (v.dw 2) inst = .ok m)
    (hset : ∀ t, t < h.ntri → s.setUpTri v inst page h m t = .ok (tri t))
    (hroom : s.takes (v.binned.length + (((List.range h.ntri).flatMap fun t => (tri t).getD []).flatMap v.binEntries).length)) :
    s.drawPage v inst page = Drawn.took { s, v } (((List.range h.ntri).flatMap fun t => (tri t).getD []).flatMap v.binEntries)
      ((List.range h.ntri).countP fun t => (tri t).isNone) := by
  simp only [State.drawPage, hh, hok, hm]
  exact Drawn.foldl_tri rfl _ (fun t ht => hset t (List.mem_range.1 ht)) hroom

end

/-! ## The page that an entry draws (R81) -/

section
variable {s : State} {v : View} {page : Nat}

theorem State.choosePage_unread {e : Nat × Nat × Nat} (hr : readResident s.picture (v.dw 1) page = .error e) :
    s.choosePage v page = (failDrawn s v e, none) := by
  simp [State.choosePage, hr]

theorem State.choosePage_resident (hr : readResident s.picture (v.dw 1) page = .ok true) :
    s.choosePage v page = ({ s, v }, some page) := by
  simp [State.choosePage, hr]

/-- A view without dailies takes no report. -/
theorem State.reportPage_of_no_dailies (h : v.dw 17 = 0) : s.reportPage v page = { s, v } := by
  simp [State.reportPage, State.pictureReport, h]

section
variable {parent : Nat} (hr : readResident s.picture (v.dw 1) page = .ok false) (hd : v.dw 17 = 0)
  (hp : readParent s.picture (pageBase (v.dw 0) page) = .ok parent)
include hr hd hp

theorem State.choosePage_orphan (h : parent = 0xFFFFFFFF) :
    s.choosePage v page = ({ s, v := { v with skipped := v.skipped + 1 } }, none) := by
  simp [State.choosePage, hr, hp, State.reportPage_of_no_dailies hd, h]

theorem State.choosePage_parent (h : parent ≠ 0xFFFFFFFF) (hpr : readResident s.picture (v.dw 1) parent = .ok true) :
    s.choosePage v page = ({ s, v := { v with proxy := v.proxy + 1 } }, some parent) := by
  simp [State.choosePage, hr, hp, State.reportPage_of_no_dailies hd, h, hpr]

theorem State.choosePage_absent_parent (h : parent ≠ 0xFFFFFFFF) (hpr : readResident s.picture (v.dw 1) parent = .ok false) :
    s.choosePage v page = ({ s, v := { v with skipped := v.skipped + 1 } }, none) := by
  simp [State.choosePage, hr, hp, State.reportPage_of_no_dailies hd, h, hpr]

end

end

/-! ## A draw-stream entry (R68, R71, R81) -/

/-- An entry that R71 skips. -/
def entryReserved (e : DWord) : Prop := bits e 39 32 ≠ 0 ∨ bits e 63 40 = 2 ^ 24 - 1 ∨ bits e 31 0 = 0xFFFFFFFF

section
variable {s : State} {v : View} {x : Nat} (hx : s.picture (v.dw 3 + 8 * v.next) 8 = .ok x)
include hx

theorem State.readEntry_reserved (h : entryReserved (BitVec.ofNat 64 x)) : s.readEntry v = .ok none := by
  simp only [State.readEntry, hx]
  exact congrArg Except.ok (if_pos (by simpa [entryReserved, or_assoc] using h))

theorem State.readEntry_names (h : ¬ entryReserved (BitVec.ofNat 64 x)) :
    s.readEntry v = .ok (some (bits (BitVec.ofNat 64 x) 63 40, bits (BitVec.ofNat 64 x) 31 0)) := by
  simp only [State.readEntry, hx]
  exact congrArg Except.ok (if_neg (by simpa [entryReserved, or_assoc] using h))

end

section
variable {s : State} {v : View} (hv : s.view? v.id = some v) (hp : v.phase = .drawing) (hn : v.next < v.count)
include hp hn

/-- An entry is still to be drawn. -/
theorem View.not_drawn_out : (decide (v.phase ≠ .drawing) || decide (v.count ≤ v.next)) = false := by simp [hp, hn]

include hv

theorem State.drawEntry_reserved (he : s.readEntry v = .ok none) :
    s.drawEntry v.id = some (s.setView ({ v with next := v.next + 1 }.bad 1)) := by
  simp [State.drawEntry, hv, hp, hn, he]

variable {inst page : Nat} (he : s.readEntry v = .ok (some (inst, page)))
include he

theorem State.drawEntry_without_page {r : Drawn} (hc : s.choosePage { v with next := v.next + 1 } page = (r, none)) :
    s.drawEntry v.id = some r.done := by
  rw [State.drawEntry]
  simp only [hv, View.not_drawn_out hp hn, he, hc]
  rfl

theorem State.drawEntry_page {r : Drawn} {p : Nat} (hc : s.choosePage { v with next := v.next + 1 } page = (r, some p)) :
    s.drawEntry v.id = some (r.s.drawPage r.v inst p).done := by
  rw [State.drawEntry]
  simp only [hv, View.not_drawn_out hp hn, he, hc]
  rfl

end

theorem entries_of_the_stream_are_drawn : entriesAreDrawn := by
  intro s v x hmem hd hp hn hx
  have hv := State.view?_of_mem hmem hd
  extract_lets e inst page w puts base draws resident reserved stops
  have named (h : ¬ reserved) : s.readEntry v = .ok (some (inst, page)) := State.readEntry_names hx h
  have drawn (h : ¬ reserved) {v' : View} {p : Nat} (hc : s.choosePage w page = ({ s, v := v' }, some p)) :
      exec (.drawEntryRead v.id) s = .next (s.drawPage v' inst p).done := by
    have hdraw := State.drawEntry_page hv hp hn (named h) hc
    exact onEvent_of_some hdraw
  have missed (h : ¬ reserved) {r : Drawn} (hc : s.choosePage w page = (r, none)) : exec (.drawEntryRead v.id) s = .next r.done :=
    onEvent_of_some (State.drawEntry_without_page hv hp hn (named h) hc)
  have draws_page {v' : View} {p : Nat} (hdesc : v'.desc = v.desc)
      (hdraw : exec (.drawEntryRead v.id) s = .next (s.drawPage v' inst p).done) : draws v' p := by
    have hbase : base p = pageBase (v'.dw 0) p := by rw [View.dw, hdesc]; rfl
    have hinst : (dwordAt v.desc 2).toNat = v'.dw 2 := by rw [View.dw, hdesc]
    refine ⟨fun h hh hok => ?_, fun h m tri hh hok hm hset hroom => ?_⟩
    · rw [hbase] at hh
      show exec (.drawEntryRead v.id) s = _
      rw [hdraw, State.drawPage_malformed hh hok]
      rfl
    · rw [hbase] at hh
      rw [hinst] at hm
      show exec (.drawEntryRead v.id) s = _
      rw [hdraw, State.drawPage_took hh hok hm hset fun n h0 hle => hroom n h0 hle]
      rfl
  refine ⟨?_, ?_, ?_, ?_, ?_⟩
  · intro f h hr
    exact missed h (State.choosePage_unread hr)
  · intro f h hr hh
    show exec (.drawEntryRead v.id) s = _
    rw [drawn h (State.choosePage_resident hr), State.drawPage_unread (v := w) hh]
    rfl
  · intro h
    exact onEvent_of_some (State.drawEntry_reserved hv hp hn (State.readEntry_reserved hx h))
  · intro h hr
    exact draws_page rfl (drawn h (State.choosePage_resident hr))
  · intro h hr hdl parent hpar
    have hno : w.dw 17 = 0 := congrArg BitVec.toNat hdl
    refine ⟨?_, ?_, ?_⟩
    · intro ho
      exact missed h (State.choosePage_orphan hr hno hpar ho)
    · intro ho hpr
      exact draws_page rfl (drawn h (State.choosePage_parent hr hno hpar ho hpr))
    · intro ho hpr
      exact missed h (State.choosePage_absent_parent hr hno hpar ho hpr)

end Sys2Proof.Machine
end

section
/-! SUPPORT. Flushes, the seal and the end of a view (R76, R77, R80). -/

namespace Sys2Proof.Machine

/-! ## Rasterising changes the tiles and the spills of views alone (R74, R76, R78) -/

/-- What rasterising leaves of a view: all but its tiles and the count of its spills. -/
def View.face (v : View) : View := { v with tiles := [], spills := 0 }

/-- The views of a state are `fs`, but for their tiles and spills. -/
def State.Shows (s : State) (fs : List View) : Prop := s.views.map View.face = fs

theorem View.face_setTile (v : View) (x : VTile) : (v.setTile x).face = v.face := by
  rw [View.setTile]
  split <;> rfl

section
variable {fs : List View} {s t : State} {v : View}

theorem State.Shows.face_mem (h : s.Shows fs) (hv : v ∈ s.views) : v.face ∈ fs := h ▸ List.mem_map_of_mem hv

theorem State.Shows.of_views (h : s.Shows fs) (ht : t.views = s.views) : t.Shows fs := by rwa [State.Shows, ht]

theorem State.Shows.face_of_view? {id : Nat} (h : s.Shows fs) (hv : s.view? id = some v) : v.face ∈ fs := h.face_mem (State.view?_mem hv)

/-- Two states that show the same views have the same view, but for tiles and spills, under each number. -/
theorem State.Shows.view?_face (h : s.Shows fs) (ht : t.Shows fs) (id : Nat) : (s.view? id).map View.face = (t.view? id).map View.face := by
  have find (u : State) (hu : u.Shows fs) : (u.view? id).map View.face = fs.find? fun f => f.id == id := by
    rw [← hu, List.find?_map]
    rfl
  rw [find s h, find t ht]

theorem Work.andThen_shows {w : Work} {f : State → Work} (hw : w.1.Shows fs) (hf : ∀ t : State, t.Shows fs → (f t).1.Shows fs) :
    (w.andThen f).1.Shows fs := by
  rw [Work.andThen]
  split
  · exact hw
  · exact hf _ hw

/-- A list of pieces of work, each of which keeps the faces. -/
theorem Work.foldl_shows {α : Type} {f : Work → α → Work} (l : List α) {w : Work} (hw : w.1.Shows fs)
    (hf : ∀ (w : Work) (a : α), w.1.Shows fs → (f w a).1.Shows fs) : (l.foldl f w).1.Shows fs :=
  List.foldlRecOn (motive := fun w => w.1.Shows fs) l f hw fun w h a _ => hf w a h

theorem State.attempt_shows {f : State → Except (Nat × Nat × Nat) State} (hf : RasterFreeAccess f) (h : s.Shows fs) :
    (s.attempt (f s)).1.Shows fs := by
  cases ht : f s with
  | ok t => exact h.of_views (hf.views ht)
  | error e => exact h

theorem State.dumpTile_shows (h : s.Shows fs) (x : VTile) : (s.attempt (s.dumpTile v x)).1.Shows fs :=
  State.attempt_shows (rasterFree_engineWrites none pictureCtx (v.backing x.idx) x.words) h

theorem State.spillVictim_mem {x : VTile} (h : s.spillVictim = some (v, x)) : v ∈ s.views := by
  obtain ⟨w, hw, hx⟩ := List.mem_flatMap.1 (argMin_mem h)
  obtain ⟨_, -, heq⟩ := List.mem_map.1 hx
  obtain rfl : w = v := congrArg Prod.fst heq
  exact (List.mem_filter.1 hw).1

variable (hfs : (fs.map View.id).Nodup)
include hfs

theorem State.Shows.setView (h : s.Shows fs) (hv : v.face ∈ fs) : (s.setView v).Shows fs := by
  have keep (w : View) (hw : w ∈ s.views) : (if w.id = v.id then v else w).face = w.face := by
    split
    · next hid => exact eq_of_nodup_map hfs hv (h.face_mem hw) hid.symm
    · rfl
  rw [State.Shows, State.setView, List.map_map, ← h]
  exact List.map_congr_left keep

theorem State.Shows.setTile (h : s.Shows fs) (hv : v.face ∈ fs) (x : VTile) : (s.setView (v.setTile x)).Shows fs :=
  h.setView hfs ((View.face_setTile v x).symm ▸ hv)

theorem State.Shows.spill (h : s.Shows fs) (hv : v.face ∈ fs) (x : VTile) :
    (s.setView { v.setTile x with spills := v.spills + 1 }).Shows fs :=
  h.setView (v := { v.setTile x with spills := v.spills + 1 }) hfs ((View.face_setTile v x).symm ▸ hv)

theorem State.openTile_shows (h : s.Shows fs) (hv : v.face ∈ fs) (t : Nat) : (s.openTile v t).1.Shows fs := by
  simp only [State.openTile]
  split
  · exact h
  split
  · exact h.setTile hfs hv _
  split
  · next w y hvictim =>
    have hw := h.face_mem (State.spillVictim_mem hvictim)
    refine Work.andThen_shows (State.dumpTile_shows h y) fun u hu => ?_
    have hspill := hu.spill hfs hw y.spill
    refine hspill.setTile hfs ?_ _
    cases hv' : (u.setView { w.setTile y.spill with spills := w.spills + 1 }).view? v.id with
    | none => exact hv
    | some v' => exact hspill.face_of_view? hv'
  · exact Work.andThen_shows (State.dumpTile_shows h _) fun u hu => hu.spill hfs hv _

theorem State.storePixel_shows (h : s.Shows fs) (hv : v.face ∈ fs) (x : VTile) (j : Nat) (id : DWord) (z : Word) :
    (s.storePixel v x j id z).1.Shows fs := by
  simp only [State.storePixel]
  split
  · refine Work.andThen_shows (State.attempt_shows (rasterFree_engineWrite _ _ _ _ _) h) fun u hu => ?_
    exact State.attempt_shows (rasterFree_engineWrite _ _ _ _ _) hu
  · exact h.setTile hfs hv _

theorem State.putSample_shows (h : s.Shows fs) (vid : Nat) (id : DWord) (x y : Nat) (z : Word) :
    (s.putSample vid id x y z).1.Shows fs := by
  simp only [State.putSample]
  split
  · exact h
  next v hv =>
  refine Work.andThen_shows ?_ fun u hu => ?_
  · split
    · exact h
    · exact State.openTile_shows hfs h (h.face_of_view? hv) _
  split
  · next v' w hv' _ =>
    have hface := hu.face_of_view? hv'
    have hstamp := (hu.setTile hfs hface { w with stamp := u.fresh }).of_views
      (t := { u.setView (v'.setTile { w with stamp := u.fresh }) with fresh := u.fresh + 1 }) rfl
    split
    · exact hstamp
    split
    · exact State.storePixel_shows hfs hstamp ((View.face_setTile _ _).symm ▸ hface) _ _ _ _
    · exact hstamp
  · exact hu

theorem State.rasterise_shows (h : s.Shows fs) (v : View) (e : Nat × BinnedTri) : (s.rasterise v e).1.Shows fs := by
  refine Work.foldl_shows _ h fun _ _ hw => Work.foldl_shows _ hw fun _ _ hw => Work.andThen_shows hw fun u hu => ?_
  split
  · exact State.putSample_shows hfs hu _ _ _ _ _
  · exact hu

theorem State.flushView_shows (h : (s.setView { v with binned := [] }).Shows fs) : (s.flushView v).1.Shows fs :=
  Work.foldl_shows _ h fun _ _ hw => Work.andThen_shows hw fun _ hu => State.rasterise_shows hfs hu v _

end

/-- A flush leaves of its view all but the tiles and the spills, and empties its buffer (R76). -/
theorem State.view?_flushView {s : State} {v : View} (hd : (s.views.map View.id).Nodup) (hv : (s.view? v.id).isSome) :
    ∃ x, (s.flushView v).1.view? v.id = some x ∧ x.face = ({ v with binned := [] } : View).face := by
  have hids : ((s.setView { v with binned := [] }).views.map View.face).map View.id = s.views.map View.id := by
    simp only [State.setView, List.map_map]
    refine List.map_congr_left fun w _ => ?_
    by_cases h : w.id = v.id <;> simp [h, View.face]
  have hshows : (s.setView { v with binned := [] }).Shows _ := rfl
  have hface := (State.flushView_shows (hids ▸ hd) hshows).view?_face hshows v.id
  have hset : (s.setView { v with binned := [] }).view? v.id = some { v with binned := [] } :=
    State.view?_setView (v := { v with binned := [] }) hv
  rw [hset] at hface
  exact Option.map_eq_some_iff.1 hface

/-! ## The flush in mid-draw, the seal and the end (R76, R77, R80) -/

theorem State.binFlush_of_full {s u : State} {v : View} (hv : s.view? v.id = some v) (hp : v.phase = .drawing) (hn : v.next < v.count)
    (hu : s.flushView { v with flushes := v.flushes + 1 } = (u, none)) :
    s.binFlush v.id = if s.binFull v (s.nextEntries v) = true then some u else none := by
  rw [State.binFlush]
  simp only [hv, View.not_drawn_out hp hn, hu, State.endFlush]
  cases s.binFull v (s.nextEntries v) <;> simp

/-- An update apart from the picture's bookkeeping leaves the same memory whatever a view holds. -/
theorem RasterFree.setView_mem {f : State → State} (h : RasterFree f) (s : State) (v : View) : (f (s.setView v)).mem = (f s).mem := by
  have hset := h s (s.setView v).views s.bins s.csr.viewdrop
  exact (congrArg State.mem hset :)

/-- A tile at the seal: an OPEN one is SEALED. -/
def VTile.atSeal (x : VTile) : VTile := if x.state = .opened then { x with state := .sealed } else x

theorem VTile.atSeal_state (x : VTile) : x.atSeal.state ≠ .opened := by
  rw [VTile.atSeal]
  split
  · exact TileState.noConfusion
  · assumption

/-- A view at the seal, before its phase changes. -/
def View.atSeal (v : View) : View := { v with tiles := v.tiles.map VTile.atSeal }

/-- The records of a view that its end writes, and its counter. -/
theorem rasterFree_record (va : Nat) (ws : List Nat) (counter : DWord) : RasterFree fun s => (s.writeViewRecord va ws).bumpCounter counter :=
  (rasterFree_writeViewRecord va ws).comp (rasterFree_bumpCounter counter)

theorem State.exportBlank_of_not_exports {s : State} {v : View} (he : v.exports = false) : s.exportBlank v = (s, none) :=
  if_pos (by simp [he])

theorem State.viewSeal_of_flushed {s u : State} {v x : View} (hv : s.view? v.id = some v) (hp : v.phase = .drawing) (hn : v.count ≤ v.next)
    (hu : s.flushView v = (u, none)) (hx : u.view? v.id = some x) (he : x.exports = false) :
    s.viewSeal v.id = some ((((u.setView x.atSeal).setView { x.atSeal with phase := .sealed, sealDone := true }).writeViewRecord (x.dw 20)
      (x.statsWords 0)).bumpCounter (dwordAt x.desc 18)) := by
  have hend : (decide (v.phase ≠ .drawing) || decide (v.next < v.count)) = false := by simp [hp, hn]
  rw [State.viewSeal]
  simp only [hv, hend, hu, hx, Option.getD_some]
  rw [State.exportBlank_of_not_exports]
  · rfl
  · exact he

theorem State.viewDone_of_sealed {s : State} {v : View} (hv : s.view? v.id = some v) (ht : v.tiles = []) (ha : v.aborted = false)
    (hp : v.phase = .sealed) : s.viewDone v.id =
      some (((s.writeViewRecord (v.dw 20 + 0x40) v.shadingWords).bumpCounter (dwordAt v.desc 19)).dropView v.id) := by
  simp [State.viewDone, hv, ht, ha, hp]

theorem State.viewDone_of_aborted {s : State} {v : View} (hv : s.view? v.id = some v) (ht : v.tiles = []) (ha : v.aborted = true) :
    s.viewDone v.id = some ((s.bumpCounter (dwordAt v.desc 19)).dropView v.id) := by
  simp [State.viewDone, hv, ht, ha]

theorem views_are_flushed_sealed_and_end : viewsSealAndEnd := by
  intro s u v hmem hd w
  have hv := State.view?_of_mem hmem hd
  refine ⟨fun hu => ⟨?_, fun hp hn hb => ?_⟩, fun hp hn he hu x hx hdesc => ?_, fun ht ha hp => ?_, fun ht ha => ?_⟩
  · have hflush := State.view?_flushView (v := { v with flushes := v.flushes + 1 }) hd (Option.isSome_of_eq_some hv)
    rw [hu] at hflush
    obtain ⟨x, hx, hface⟩ := hflush
    exact ⟨x, hx, (congrArg View.binned hface :), (congrArg View.flushes hface :), (congrArg View.desc hface :)⟩
  · have hflush := State.binFlush_of_full hv hp hn hu
    have hfull : s.binFull v (s.nextEntries v) = true ↔ s.nextEntries v ≠ [] ∧
        Config.binFull s.csr.binbuf.toNat (v.binned.length + (s.nextEntries v).length) = true := by simp [State.binFull_iff, hb]
    split
    · next h => exact onEvent_of_some (hflush.trans (if_pos (hfull.2 h)))
    · next h => exact onEvent_of_none (hflush.trans (if_neg fun h' => h (hfull.1 h')))
  · have hexp : x.exports = false := by rw [View.exports, hdesc]; exact he
    have hseal := onEvent_of_some (s := s) (State.viewSeal_of_flushed hv hp hn hu hx hexp)
    refine ⟨_, { x.atSeal with phase := .sealed, sealDone := true }, hseal, ?_, rfl, ?_, ?_⟩
    · have hid := State.view?_id hx
      have hfirst := State.view?_setView (s := u) (v := x.atSeal) (Option.isSome_of_eq_some (hid ▸ hx))
      have hsecond := State.view?_setView (v := { x.atSeal with phase := .sealed, sealDone := true }) (Option.isSome_of_eq_some hfirst)
      rw [State.view?, State.bumpCounter_views, State.writeViewRecord_views, ← hid]
      exact hsecond
    · intro tile htile
      obtain ⟨y, -, rfl⟩ := List.mem_map.1 htile
      exact y.atSeal_state
    · rw [(rasterFree_record _ _ _).setView_mem, (rasterFree_record _ _ _).setView_mem, View.dw, hdesc]
      rfl
  · exact ⟨_, onEvent_of_some (State.viewDone_of_sealed hv ht ha hp), State.view?_dropView_self _ _, State.dropView_mem _ _⟩
  · exact ⟨_, onEvent_of_some (State.viewDone_of_aborted hv ht ha), State.view?_dropView_self _ _, State.dropView_mem _ _⟩

/-- Settles O50: an access of the picture engines neither reads nor writes the views, and a flush changes only their tiles and spills; the rest are
the model's own equations for the events, one for each outcome. -/
theorem viewsStartDrawAndEnd : Obligations.ViewsStartDrawAndEnd :=
  ⟨view_is_checked_and_starts, entries_of_the_stream_are_drawn, triangles_of_a_page_are_binned, nearer_sample_replaces,
    views_are_flushed_sealed_and_end⟩

end Sys2Proof.Machine
end
